-- ==== Sys2Proof/Word.lean ====
section
/-! DEFINITION. The words of the machine (R4, R8): bytes, 32-bit lanes, 64-bit pairs, 128-bit masks. -/
namespace Sys2Proof

/-- A byte of memory (R4). -/
abbrev Byte := BitVec 8
/-- One lane of a register (R97). -/
abbrev Word := BitVec 32
/-- A 64-bit pair (R97), or a control register (R320). -/
abbrev DWord := BitVec 64
/-- A set of home lanes: bit `l` is home lane `l` (R155). -/
abbrev Mask := BitVec 128
/-- The 128 values of a register in V shape (R102). -/
abbrev Row := Vector Word 128

end Sys2Proof
end

