-- ==== Sys2Proof/Syntax.lean ====
section
/-! DEFINITION. Syntax: the fields of an instruction word (R69, R71) and the one inductive `Instr`, one
constructor for each row of the opcode table: the 148 major opcodes (R74), the short form and the fill word
(R72), and the device's own events and commands. -/
namespace Sys2Proof

/-- What follows the first 64 bits of an instruction word (R71). -/
inductive Ext where
  /-- F64: nothing. -/
  | none
  /-- F96: IMM32. -/
  | imm (w : Word)
  /-- F128: EXT. -/
  | ext (w : DWord)
  deriving DecidableEq, Repr

/-- The fields of R69 other than OP and LEN. -/
structure Fields where
  /-- Guard predicate: 0-6 name `p0`-`p6`, 7 is `pt`. -/
  pg  : BitVec 3
  /-- Guard negate. -/
  pgn : Bool
  /-- Lookahead (R73). -/
  la  : BitVec 4
  /-- Per-opcode modifiers. -/
  mod : BitVec 8
  vd  : BitVec 9
  va  : BitVec 9
  vb  : BitVec 9
  vc  : BitVec 9
  x   : Ext
  deriving DecidableEq, Repr

/-- Which management queue a command came from (R367). -/
inductive MgmtQ where
  | device
  | context (ctx : Nat)
  deriving DecidableEq, Repr

/-- A queue whose watched line the device reads (R29, R367). -/
inductive QueueRef where
  | launch (ctx q : Nat)
  | mgmt (q : MgmtQ)
  deriving DecidableEq, Repr

/-- A command record taken from a management queue (R368). -/
structure Cmd where
  queue : MgmtQ
  index : Nat
  a0 : DWord
  a1 : DWord
  a2 : DWord
  a3 : DWord
  a4 : DWord
  a5 : DWord
  deriving DecidableEq, Repr

/-- A copy a copy engine performs: a CPY of a block, by handle (R291), or a copy node (R37). -/
inductive CopyRef where
  | block (blk handle : Nat)
  | node (ctx node : Nat)
  deriving DecidableEq, Repr

/-- A request to migrate a page towards a node (R216). -/
structure MigrateReq where
  ctx    : Nat
  va     : Nat
  /-- The node the page is asked for. -/
  toward : Nat
  /-- The frame it would take there (domain physical address). -/
  frame  : Nat
  /-- A second requester arrived in the same cycle. -/
  tie    : Bool
  /-- A forced migration revokes pins (R223). -/
  forced : Bool
  /-- The fault token answered with the outcome, if the request came from a fault. -/
  token  : Option Nat
  deriving DecidableEq, Repr

/-- Severities of R333. -/
inductive Severity where
  | ce
  | ue
  | fatal
  deriving DecidableEq, Repr

/-- What a detected error lies in (R333, R340). -/
inductive ErrTarget where
  /-- Nothing is lost: a corrected error. -/
  | none
  /-- The 64-byte granule holding a domain physical address. -/
  | memory (pa : Nat)
  | scratch (blk off : Nat)
  | slot (blk slot : Nat)
  | tile (blk tile : Nat)
  /-- A slot of a core's larder (R336 SOURCE 6). -/
  | larder (core slot : Nat)
  /-- Private state of a warp: a register row, shape entry or pending write data (R340). -/
  | reg (blk warp reg : Nat)
  /-- Private state of a warp: a predicate (R340). -/
  | pred (blk warp p : Nat)
  /-- State of one context that no gang owns (FATAL). -/
  | context (ctx : Nat)
  /-- Uncore state that every context shares (FATAL, R353). -/
  | shared
  deriving DecidableEq, Repr

/-- An error as a unit detects it (R333, R334). -/
structure ErrorEvent where
  sev      : Severity
  bankKind : Nat
  unit     : Nat
  source   : Nat
  syndrome : Nat
  /-- Context of the access that found it; none reads 0xFFF. -/
  ctx      : Option Nat
  addr     : Nat
  target   : ErrTarget
  deriving DecidableEq, Repr

/-- The guard tag of a 256-byte block (R290): CRC-32C of its bytes, its address bits [56:8], the generation of its page. -/
structure GuardTag where
  crc  : Nat
  addr : Nat
  gen  : Nat
  deriving DecidableEq, Repr

/-- A block as it travels over a port (R365), and which granules of its 256-byte block are poisoned (R333). -/
inductive FabricBlock where
  /-- Inside the trust boundary: its bytes and its guard tag. -/
  | plain (data : List Byte) (tag : GuardTag) (poisoned : BitVec 4)
  /-- Outside it: the sender's port and transmit counter, CHDR, the ciphertext and the GCM tag. -/
  | envelope (sender counter : Nat) (chdr : DWord) (payload : List Byte) (tag : BitVec 128) (poisoned : BitVec 4)
  deriving DecidableEq, Repr

/-- An access another node asks this package to perform (R363), or its answer to a read of this package. -/
inductive FabricOp where
  | read (size : Nat)
  | write (block : FabricBlock)
  | answer (block : FabricBlock)
  /-- ATOM or RED: the op code of R232 and its operand. -/
  | atomic (op : Nat) (operand : DWord)
  deriving DecidableEq, Repr

/-- A request that arrives over a port from another node (R363). -/
structure FabricReq where
  src  : Nat
  port : Nat
  /-- Local physical address: on this package, or on `src` for an answer. -/
  addr : Nat
  op   : FabricOp
  /-- The address is inside the grant of the node (R352). -/
  granted : Bool
  deriving DecidableEq, Repr

/-- A member's contribution as it reaches the folding member (R373). -/
structure Contribution where
  ctx      : Nat
  group    : Nat
  seq      : Nat
  member   : Nat
  season   : Nat
  poisoned : Bool
  kind     : Nat
  oper     : Nat
  root     : Nat
  data     : List Byte
  deriving DecidableEq, Repr

/-- The folded result as it reaches a member (R373, R377). -/
structure CollResult where
  ctx   : Nat
  group : Nat
  seq   : Nat
  code  : Nat
  ncontrib : Nat
  cmask : BitVec 256
  pmask : BitVec 256
  season : Nat
  /-- The result, one block of bytes for each destination block; `none` leaves the block unwritten. -/
  blocks : List (Option (List Byte))
  deriving DecidableEq, Repr

/-- What the hardware reports to bring-up (R381): HBM channels that fail now, ports that fail to train, the node number the fabric
configuration assigns, the public key under which the fetched firmware verifies, if it does under one (R380), and the cores that fail
phase 5. -/
structure BringUp where
  romOk       : Bool
  badChannels : List Nat
  badPorts    : List Nat
  node        : Nat
  firmwareKey : Option Nat
  badCores    : List Nat
  deriving DecidableEq, Repr

/-- The instructions and events of the opcode table, one constructor for each row. -/
inductive Instr where
  /-- NOP, OP 0x01 (R151). -/
  | nop (f : Fields)
  /-- BRA, OP 0x02 (R152). -/
  | bra (f : Fields)
  /-- BRX, OP 0x03 (R152). -/
  | brx (f : Fields)
  /-- CALL, OP 0x04 (R153). -/
  | call (f : Fields)
  /-- CALLX, OP 0x05 (R153). -/
  | callx (f : Fields)
  /-- RET, OP 0x06 (R153). -/
  | ret (f : Fields)
  /-- EXIT, OP 0x07 (R154). -/
  | exit (f : Fields)
  /-- RCVARM, OP 0x08 (R157). -/
  | rcvarm (f : Fields)
  /-- RCVWAIT, OP 0x09 (R158). -/
  | rcvwait (f : Fields)
  /-- RCVDROP, OP 0x0A (R159). -/
  | rcvdrop (f : Fields)
  /-- YIELD, OP 0x0B (R151). -/
  | yield (f : Fields)
  /-- LAUNCH, OP 0x0C (R172). -/
  | launch (f : Fields)
  /-- SHQ, OP 0x10 (R116). -/
  | shq (f : Fields)
  /-- SHASSERT, OP 0x11 (R117). -/
  | shassert (f : Fields)
  /-- SHFORCE, OP 0x12 (R118). -/
  | shforce (f : Fields)
  /-- SHNARROW, OP 0x13 (R119). -/
  | shnarrow (f : Fields)
  /-- PLOP, OP 0x14 (R120). -/
  | plop (f : Fields)
  /-- P2V, OP 0x15 (R121). -/
  | p2v (f : Fields)
  /-- V2P, OP 0x16 (R122). -/
  | v2p (f : Fields)
  /-- IADD, OP 0x18 (R138). -/
  | iadd (f : Fields)
  /-- ISUB, OP 0x19 (R138). -/
  | isub (f : Fields)
  /-- IMUL, OP 0x1A (R139). -/
  | imul (f : Fields)
  /-- IMULH, OP 0x1B (R139). -/
  | imulh (f : Fields)
  /-- IMAD, OP 0x1C (R139). -/
  | imad (f : Fields)
  /-- IMAD64, OP 0x1D (R139). -/
  | imad64 (f : Fields)
  /-- IMIN, OP 0x1E (R141). -/
  | imin (f : Fields)
  /-- IMAX, OP 0x1F (R141). -/
  | imax (f : Fields)
  /-- IABS, OP 0x20 (R141). -/
  | iabs (f : Fields)
  /-- IADDC, OP 0x21 (R138). -/
  | iaddc (f : Fields)
  /-- AND, OP 0x22 (R142). -/
  | andL (f : Fields)
  /-- OR, OP 0x23 (R142). -/
  | orL (f : Fields)
  /-- XOR, OP 0x24 (R142). -/
  | xorL (f : Fields)
  /-- ANDN, OP 0x25 (R142). -/
  | andn (f : Fields)
  /-- SHL, OP 0x26 (R143). -/
  | shl (f : Fields)
  /-- SHR, OP 0x27 (R143). -/
  | shr (f : Fields)
  /-- SAR, OP 0x28 (R143). -/
  | sar (f : Fields)
  /-- ROTL, OP 0x29 (R143). -/
  | rotl (f : Fields)
  /-- POPC, OP 0x2A (R144). -/
  | popc (f : Fields)
  /-- CLZ, OP 0x2B (R144). -/
  | clz (f : Fields)
  /-- BREV, OP 0x2C (R144). -/
  | brev (f : Fields)
  /-- BFE, OP 0x2D (R144). -/
  | bfe (f : Fields)
  /-- BFI, OP 0x2E (R144). -/
  | bfi (f : Fields)
  /-- SEL, OP 0x2F (R145). -/
  | sel (f : Fields)
  /-- ICMP, OP 0x30 (R145). -/
  | icmp (f : Fields)
  /-- IADD64, OP 0x31 (R140). -/
  | iadd64 (f : Fields)
  /-- ISUB64, OP 0x32 (R140). -/
  | isub64 (f : Fields)
  /-- SHF, OP 0x33 (R143). -/
  | shf (f : Fields)
  /-- LEA, OP 0x34 (R146). -/
  | lea (f : Fields)
  /-- MOV, OP 0x35 (R145). -/
  | mov (f : Fields)
  /-- IDOT4, OP 0x36 (R147). -/
  | idot4 (f : Fields)
  /-- LOP3, OP 0x37 (R142). -/
  | lop3 (f : Fields)
  /-- PRMT, OP 0x38 (R144). -/
  | prmt (f : Fields)
  /-- SREAD, OP 0x39 (R132). -/
  | sread (f : Fields)
  /-- FADD, OP 0x40 (R194). -/
  | fadd (f : Fields)
  /-- FSUB, OP 0x41 (R194). -/
  | fsub (f : Fields)
  /-- FMUL, OP 0x42 (R194). -/
  | fmul (f : Fields)
  /-- FFMA, OP 0x43 (R194). -/
  | ffma (f : Fields)
  /-- FMIN, OP 0x44 (R195). -/
  | fmin (f : Fields)
  /-- FMAX, OP 0x45 (R195). -/
  | fmax (f : Fields)
  /-- FCMP, OP 0x46 (R196). -/
  | fcmp (f : Fields)
  /-- FRCP, OP 0x47 (R197). -/
  | frcp (f : Fields)
  /-- FRSQ, OP 0x48 (R197). -/
  | frsq (f : Fields)
  /-- FSQRT, OP 0x49 (R197). -/
  | fsqrt (f : Fields)
  /-- FEXP2, OP 0x4A (R197). -/
  | fexp2 (f : Fields)
  /-- FLOG2, OP 0x4B (R197). -/
  | flog2 (f : Fields)
  /-- FSIN, OP 0x4C (R197). -/
  | fsin (f : Fields)
  /-- FCOS, OP 0x4D (R197). -/
  | fcos (f : Fields)
  /-- FTANH, OP 0x4E (R197). -/
  | ftanh (f : Fields)
  /-- FRND, OP 0x4F (R199). -/
  | frnd (f : Fields)
  /-- FCLASS, OP 0x50 (R199). -/
  | fclass (f : Fields)
  /-- PADD2, OP 0x51 (R200). -/
  | padd2 (f : Fields)
  /-- PMUL2, OP 0x52 (R200). -/
  | pmul2 (f : Fields)
  /-- PFMA2, OP 0x53 (R200). -/
  | pfma2 (f : Fields)
  /-- PMIN2, OP 0x54 (R200). -/
  | pmin2 (f : Fields)
  /-- PMAX2, OP 0x55 (R200). -/
  | pmax2 (f : Fields)
  /-- CVT, OP 0x56 (R202). -/
  | cvt (f : Fields)
  /-- CVTP, OP 0x57 (R203). -/
  | cvtp (f : Fields)
  /-- CVTU, OP 0x58 (R203). -/
  | cvtu (f : Fields)
  /-- SCALE, OP 0x59 (R204). -/
  | scale (f : Fields)
  /-- FDOT2, OP 0x5A (R201). -/
  | fdot2 (f : Fields)
  /-- QDEC, OP 0x5B (R205). -/
  | qdec (f : Fields)
  /-- SHFL, OP 0x70 (R166). -/
  | shfl (f : Fields)
  /-- VOTE, OP 0x71 (R167). -/
  | vote (f : Fields)
  /-- REDUX, OP 0x72 (R168). -/
  | redux (f : Fields)
  /-- MATCH, OP 0x73 (R169). -/
  | matchL (f : Fields)
  /-- SCAN, OP 0x74 (R168). -/
  | scan (f : Fields)
  /-- ELECT, OP 0x75 (R170). -/
  | elect (f : Fields)
  /-- LD, OP 0x80 (R229). -/
  | ld (f : Fields)
  /-- ST, OP 0x81 (R229). -/
  | st (f : Fields)
  /-- LDS, OP 0x82 (R230). -/
  | lds (f : Fields)
  /-- STS, OP 0x83 (R230). -/
  | sts (f : Fields)
  /-- LDX, OP 0x84 (R230). -/
  | ldx (f : Fields)
  /-- STX, OP 0x85 (R230). -/
  | stx (f : Fields)
  /-- ATOM, OP 0x86 (R232). -/
  | atom (f : Fields)
  /-- ATOMCAS, OP 0x87 (R233). -/
  | atomcas (f : Fields)
  /-- RED, OP 0x88 (R232). -/
  | red (f : Fields)
  /-- PREF, OP 0x89 (R234). -/
  | pref (f : Fields)
  /-- FENCE, OP 0x8A (R235). -/
  | fence (f : Fields)
  /-- SEAL, OP 0x8B (R237). -/
  | sealR (f : Fields)
  /-- UNSEAL, OP 0x8C (R237). -/
  | unsealR (f : Fields)
  /-- PIN, OP 0x8D (R238). -/
  | pin (f : Fields)
  /-- UNPIN, OP 0x8E (R238). -/
  | unpin (f : Fields)
  /-- LDC, OP 0x8F (R231). -/
  | ldc (f : Fields)
  /-- CCTL, OP 0x90 (R239). -/
  | cctl (f : Fields)
  /-- PBINIT, OP 0xA0 (R284). -/
  | pbinit (f : Fields)
  /-- PBARRIVE, OP 0xA1 (R285). -/
  | pbarrive (f : Fields)
  /-- PBWAIT, OP 0xA2 (R286). -/
  | pbwait (f : Fields)
  /-- PBTEST, OP 0xA3 (R286). -/
  | pbtest (f : Fields)
  /-- BSYNC, OP 0xA4 (R287). -/
  | bsync (f : Fields)
  /-- SBAR, OP 0xA5 (R288). -/
  | sbar (f : Fields)
  /-- EVWAIT, OP 0xA6 (R289). -/
  | evwait (f : Fields)
  /-- CPY, OP 0xB0 (R293). -/
  | cpy (f : Fields)
  /-- CPYQ, OP 0xB1 (R295). -/
  | cpyq (f : Fields)
  /-- CPYWAIT, OP 0xB2 (R295). -/
  | cpywait (f : Fields)
  /-- COLL, OP 0xB3 (R377). -/
  | coll (f : Fields)
  /-- COLLQ, OP 0xB4 (R378). -/
  | collq (f : Fields)
  /-- OSCLAIM, OP 0xC0 (R257). -/
  | osclaim (f : Fields)
  /-- OSREL, OP 0xC1 (R257). -/
  | osrel (f : Fields)
  /-- OSLOAD, OP 0xC2 (R258). -/
  | osload (f : Fields)
  /-- OSQ, OP 0xC3 (R257). -/
  | osq (f : Fields)
  /-- ACCGROW, OP 0xC4 (R259). -/
  | accgrow (f : Fields)
  /-- ACCFREE, OP 0xC5 (R259). -/
  | accfree (f : Fields)
  /-- ACCZERO, OP 0xC6 (R260). -/
  | acczero (f : Fields)
  /-- ACCLD, OP 0xC7 (R261). -/
  | accld (f : Fields)
  /-- ACCST, OP 0xC8 (R262). -/
  | accst (f : Fields)
  /-- ACCMV, OP 0xC9 (R260). -/
  | accmv (f : Fields)
  /-- MMA, OP 0xCA (R263). -/
  | mma (f : Fields)
  /-- MMAG, OP 0xCB (R264). -/
  | mmag (f : Fields)
  /-- MRFENCE, OP 0xCC (R249). -/
  | mrfence (f : Fields)
  /-- MWAIT, OP 0xCD (R247). -/
  | mwait (f : Fields)
  /-- BDSET, OP 0xE0 (R273). -/
  | bdset (f : Fields)
  /-- BDGET, OP 0xE1 (R273). -/
  | bdget (f : Fields)
  /-- TTC, OP 0xE2 (R274). -/
  | ttc (f : Fields)
  /-- TTRUN, OP 0xE3 (R276). -/
  | ttrun (f : Fields)
  /-- TTQ, OP 0xE4 (R278). -/
  | ttq (f : Fields)
  /-- DLOAD, OP 0xE8 (R88). -/
  | dload (f : Fields)
  /-- DSWITCH, OP 0xE9 (R89). -/
  | dswitch (f : Fields)
  /-- DSYNC, OP 0xEA (R90). -/
  | dsync (f : Fields)
  /-- DREAD, OP 0xEB (R91). -/
  | dread (f : Fields)
  /-- DPATCH, OP 0xEC (R92). -/
  | dpatch (f : Fields)
  /-- TRAP, OP 0xF0 (R324). -/
  | trap (f : Fields)
  /-- TRET, OP 0xF1 (R314). -/
  | tret (f : Fields)
  /-- CSRR, OP 0xF2 (R321). -/
  | csrr (f : Fields)
  /-- CSRW, OP 0xF3 (R321). -/
  | csrw (f : Fields)
  /-- SYSQ, OP 0xF4 (R325). -/
  | sysq (f : Fields)
  /-- REGION, OP 0xF5 (R322). -/
  | region (f : Fields)
  /-- BRK, OP 0xF6 (R318). -/
  | brk (f : Fields)
  /-- PCMP, OP 0xF7 (R350). -/
  | pcmp (f : Fields)
  /-- DX: a dictionary short form with payload `h` and dictionary index `i` (R72, R80). -/
  | dx (h : BitVec 22) (i : BitVec 8)
  /-- FILL_WORD: the all-zero D32 word (R72). -/
  | fillWord
  /-- TAIL_REREAD (R29). -/
  | tailReread (q : QueueRef)
  /-- RECORD_TAKE (R33). -/
  | recordTake (ctx q : Nat)
  /-- DELAYED_DELIVERY (R40). -/
  | delayedDelivery (ctx : Nat)
  /-- PRIORITY_AGING (R41). -/
  | priorityAging (ctx node : Nat)
  /-- PLACEMENT_DECISION (R57). -/
  | placementDecision
  /-- BLOCK_STARVED (R58). -/
  | blockStarved (ctx node : Nat)
  /-- PROLOGUE_FILL (R45). -/
  | prologueFill (blk : Nat)
  /-- BLOCK_START (R18). -/
  | blockStart (blk : Nat)
  /-- BLOCK_END (R154). -/
  | blockEnd (blk : Nat)
  /-- HOLD_TIMEOUT (R127). -/
  | holdTimeout (core pipe pos : Nat)
  /-- ACTIVE_SET_EXCHANGE (R127). -/
  | activeSetExchange (core pipe pos : Nat)
  /-- LONG_LATENCY_WRITEBACK (R128). -/
  | longLatencyWriteback (blk warp : Nat)
  /-- PAGE_WALK (R212). -/
  | pageWalk (core ctx va : Nat)
  /-- PAGE_MIGRATE_REQUEST (R216). -/
  | pageMigrateRequest (r : MigrateReq)
  /-- MIGRATION_COMPLETE (R216). -/
  | migrationComplete (ctx va : Nat)
  /-- SHOOTDOWN_ACK (R217). -/
  | shootdownAck (id core : Nat)
  /-- SHOOTDOWN_TIMEOUT (R217). -/
  | shootdownTimeout (id core : Nat)
  /-- ENGINE_PERFORM (R246). -/
  | enginePerform (core : Nat)
  /-- MMA_HALF (R253). -/
  | mmaHalf (core : Nat)
  /-- MMAG_MEMBER_PART (R254). -/
  | mmagMemberPart (blk : Nat)
  /-- TTRUN_STEP (R276). -/
  | ttrunStep (core : Nat)
  /-- COPY_BURST (R290). -/
  | copyBurst (c : CopyRef)
  /-- EVWAIT_REREAD (R289). -/
  | evwaitReread (blk warp : Nat)
  /-- EVWAIT_TIMEOUT (R289). -/
  | evwaitTimeout (blk warp : Nat)
  /-- WATCHDOG_EXPIRY (R327). -/
  | watchdogExpiry (ctx node : Nat)
  /-- WATCHDOG_GRACE_EXPIRY (R327). -/
  | watchdogGraceExpiry (ctx node : Nat)
  /-- PREEMPTION (R328). -/
  | preemption (blk : Nat)
  /-- ERROR_DETECTED (R333). -/
  | errorDetected (e : ErrorEvent)
  /-- VIGIL_BEGIN (R341). -/
  | vigilBegin (die : Nat)
  /-- VIGIL_DRAIN_TIMEOUT (R341). -/
  | vigilDrainTimeout (core : Nat)
  /-- VIGIL_SCAN_COMPLETE (R343). -/
  | vigilScanComplete (core : Nat) (pass : Bool) (pattern : Nat)
  /-- FLIT_RECEIVE (R361). -/
  | flitReceive (port : Nat) (flit : BitVec 256)
  /-- LINK_RETRAIN (R361). -/
  | linkRetrain (port : Nat) (failing : BitVec 16)
  /-- IDLE_FLIT (R362). -/
  | idleFlit (port : Nat)
  /-- LINK_TIMEOUT (R363). -/
  | linkTimeout (port : Nat)
  /-- SWITCH_TIMEOUT (R363). -/
  | switchTimeout (node : Nat)
  /-- NODE_LOST (R364). -/
  | nodeLost (blk warp addr : Nat)
  /-- FABRIC_REQUEST (R363). -/
  | fabricRequest (r : FabricReq)
  /-- COLL_HEARTBEAT (R373). -/
  | collHeartbeat (ctx group : Nat)
  /-- COLL_CONTRIBUTION (R373). -/
  | collContribution (c : Contribution)
  /-- COLL_RESULT (R377). -/
  | collResult (r : CollResult)
  /-- GROUP_TIMEOUT (R374). -/
  | groupTimeout (ctx group member : Nat)
  /-- SPARE_ADMISSION (R375). -/
  | spareAdmission (ctx group member node : Nat)
  /-- CTX_CREATE (R369). -/
  | ctxCreate (c : Cmd)
  /-- CTX_DESTROY (R369). -/
  | ctxDestroy (c : Cmd)
  /-- LOAD_OBJECT (R14). -/
  | loadObject (c : Cmd)
  /-- UPDATE_OBJECT (R21). -/
  | updateObject (c : Cmd)
  /-- QUEUE_CREATE (R28). -/
  | queueCreate (c : Cmd)
  /-- QUEUE_RESET (R30). -/
  | queueReset (c : Cmd)
  /-- CANCEL (R48). -/
  | cancel (c : Cmd)
  /-- RESUME (R369). -/
  | resume (c : Cmd)
  /-- FAIL (R313). -/
  | fail (c : Cmd)
  /-- CTX_READ (R369). -/
  | ctxRead (c : Cmd)
  /-- SWITCH_OUT (R330). -/
  | switchOut (c : Cmd)
  /-- RESTORE (R330). -/
  | restore (c : Cmd)
  /-- MIGRATE (R331). -/
  | migrate (c : Cmd)
  /-- SET_XLATE (R209). -/
  | setXlate (c : Cmd)
  /-- SET_WINDOW (R226). -/
  | setWindow (c : Cmd)
  /-- FAULT_ANSWER (R214). -/
  | faultAnswer (c : Cmd)
  /-- GROUP_CREATE (R372). -/
  | groupCreate (c : Cmd)
  /-- GROUP_JOIN (R375). -/
  | groupJoin (c : Cmd)
  /-- FENCE_CORE (R63). -/
  | fenceCore (c : Cmd)
  /-- RELEASE (R352). -/
  | release (c : Cmd)
  /-- BANK_READ (R334). -/
  | bankRead (c : Cmd)
  /-- KEY_BIND (R369). -/
  | keyBind (c : Cmd)
  /-- KEY_CLEAR (R215). -/
  | keyClear (c : Cmd)
  /-- ERRINJ_SLOT_UE (R351). -/
  | errinjSlotUe (ctx count index partner : Nat)
  /-- ERRINJ_MEM_UE (R351). -/
  | errinjMemUe (ctx count : Nat)
  /-- ERRINJ_PAIR_FLIP (R351). -/
  | errinjPairFlip (ctx count : Nat)
  /-- ERRINJ_ROW_SOFT (R351). -/
  | errinjRowSoft (ctx count index : Nat)
  /-- ERRINJ_CE_LOG (R351). -/
  | errinjCeLog (ctx count : Nat)
  /-- DEVICE_RESET (R381). -/
  | deviceReset (b : BringUp)
  /-- THERMAL_TRIP (R383). -/
  | thermalTrip (die : Nat)
  /-- THERMAL_STEP_RISE (R385). -/
  | thermalStepRise (die : Nat)
  /-- THERMAL_STEP_FALL (R385). -/
  | thermalStepFall (die : Nat)
  /-- POWER_STEP_RISE (R385). -/
  | powerStepRise
  /-- POWER_STEP_FALL (R385). -/
  | powerStepFall
  /-- BAD_COMMAND_RECORD (R369). -/
  | badCommandRecord (q : MgmtQ) (index : Nat)
  /-- UNMAP (R223). -/
  | unmap (ctx va len : Nat)
  /-- PORT_KEY_ROTATION (R365). -/
  | portKeyRotation (port : Nat)
  /-- POWER_GATING (R217). -/
  | powerGating (core : Nat) (on : Bool)
  deriving DecidableEq, Repr

end Sys2Proof
end

