-- ==== Sys2Proof/Machine/OpTable.lean ====
section
/-! DEFINITION. The operand table: for each major opcode the MOD bits that must be zero, its operand rules and
what its four register fields name, from R114, R134, R150, R165, R192, R227, R255, R272, R283, R292, R376, R86-R92,
R171, R314-R325 and R350; the formats of R71; and steps 5 to 9 of R75. -/
namespace Sys2Proof

/-- What a register field of the word names (R70, R97, R255, R272). -/
inductive FieldKind where
  /-- Unused: must hold 0 (SUB 0x2). -/
  | zero
  /-- A 32-bit register. -/
  | reg
  /-- A 32-bit register, or 511. -/
  | regN
  /-- The even register of a pair. -/
  | pair
  /-- A pair, or 511. -/
  | pairN
  /-- The first of `n` registers. -/
  | range (n : Nat)
  /-- A range, or 511. -/
  | rangeN (n : Nat)
  /-- A predicate 0-7. -/
  | pred
  | tile
  | slot
  | bond
  /-- VB of CVT and CVTP: replaced by the conversion control in F96, unused in F64 (R191). -/
  | control
  deriving DecidableEq, Repr

/-- One row of the operand tables. -/
structure OpSpec where
  /-- MOD bits that must be zero. -/
  zeroMask : BitVec 8
  /-- A MOD code or operand rule of step 9 of R75 is broken (SUB 0x8). -/
  ill : Bool
  vd : FieldKind
  va : FieldKind
  vb : FieldKind
  vc : FieldKind
  deriving DecidableEq, Repr

/-- MOD[h:l] as a number. -/
def Fields.m (f : Fields) (h l : Nat) : Nat := (f.mod.toNat >>> l) % 2 ^ (h + 1 - l)
/-- MOD[i]. -/
def Fields.b (f : Fields) (i : Nat) : Bool := f.mod.getLsbD i
/-- The word is F128. -/
def Fields.isF128 (f : Fields) : Bool := match f.x with | .ext _ => true | _ => false
/-- The word is F96. -/
def Fields.isF96 (f : Fields) : Bool := match f.x with | .imm _ => true | _ => false
/-- IMM32, or 0. -/
def Fields.imm (f : Fields) : Word := match f.x with | .imm w => w | _ => 0
/-- EXT, or 0. -/
def Fields.ext (f : Fields) : DWord := match f.x with | .ext w => w | _ => 0

/-- EXT[h:l] as a number. -/
def Fields.e (f : Fields) (h l : Nat) : Nat := (f.ext.toNat >>> l) % 2 ^ (h + 1 - l)

/-- The datum of a load or store of a size code of R227. -/
def data (size : Nat) : FieldKind := if size = 5 then .pair else if size = 6 then .range 4 else .reg
/-- The datum of a load, which may be discarded (R227). -/
def dataN (size : Nat) : FieldKind := if size = 5 then .pairN else if size = 6 then .rangeN 4 else .regN
/-- The data of ATOMCAS by its width code (R227). -/
def casData (null : Bool) (w : Nat) : FieldKind :=
  if null then (if w = 0 then .regN else if w = 1 then .pairN else .rangeN 4)
  else (if w = 0 then .reg else if w = 1 then .pair else .range 4)
/-- The types CVTP and CVTU pack (R192): 1-5, 8, 9. -/
def packType (t : Nat) : Bool := (1 ≤ t && t ≤ 5) || t = 8 || t = 9
/-- n of R203: packed values per register. -/
def packCount (t : Nat) : Nat := if t ≤ 2 then 2 else if t = 5 || t = 9 then 8 else 4
/-- The conversion control of R202 is ill for destination type `t`: RND 5-7, or `.rs` into a type that has none. -/
def cvtCtlIll (f : Fields) (t : Nat) : Bool :=
  let rnd := f.imm.toNat % 8
  5 ≤ rnd || (rnd = 4 && !(1 ≤ t && t ≤ 5))
/-- n of ACCLD (R255). -/
def accCount (c : Nat) : Nat := 2 ^ c
/-- Format codes OSLOAD accepts (R255): 1-5, 8-10, 15. -/
def osFormat (c : Nat) : Bool := (1 ≤ c && c ≤ 5) || (8 ≤ c && c ≤ 10) || c = 15
/-- ACCMV's operand rules (R260). -/
def accmvIll (f : Fields) : Bool :=
  let k := f.m 7 6
  let c := f.m 5 0
  k = 3 || (k = 1 && c % 4 != 0) || (k = 2 && c % 8 != 0) || (f.isF128 && k != 0) ||
  (f.isF128 && k = 0 &&
    (f.e 18 12 = 0 || f.e 18 12 > 64 || f.e 5 0 + f.e 18 12 > 64 || f.e 11 6 + f.e 18 12 > 64))

/-- A number of the CSR map of R320. -/
def csrKnown (n : Nat) : Bool :=
  n ≤ 0x00B || (0x010 ≤ n && n ≤ 0x013) || (0x018 ≤ n && n ≤ 0x022) || (0x028 ≤ n && n ≤ 0x02C) ||
  (0x100 ≤ n && n < 0x300)
/-- The CSR number check of R320 at decode: F96 only. -/
def csrIll (f : Fields) : Bool := f.isF96 && !csrKnown f.imm.toNat

/-- The operand tables; `none` for a reserved opcode, 0x00 and 0xFF (R74). -/
def opSpec (op : Nat) (f : Fields) : Option OpSpec :=
  let m := f.m
  let b := f.b
  match op with
  /- NOP -/
  | 0x01 => some ⟨0xFF, false, .zero, .zero, .zero, .zero⟩
  /- BRA -/
  | 0x02 => some ⟨0xFF, false, .zero, .zero, .reg, .zero⟩
  /- BRX -/
  | 0x03 => some ⟨0xFF, false, .zero, .reg, .zero, .zero⟩
  /- CALL -/
  | 0x04 => some ⟨0xFF, false, .pair, .zero, .reg, .zero⟩
  /- CALLX -/
  | 0x05 => some ⟨0xFF, false, .pair, .reg, .zero, .zero⟩
  /- RET -/
  | 0x06 => some ⟨0xFF, false, .zero, .pair, .zero, .zero⟩
  /- EXIT -/
  | 0x07 => some ⟨0xFF, false, .zero, .zero, .zero, .zero⟩
  /- RCVARM -/
  | 0x08 => some ⟨0xC0, false, .zero, .zero, .zero, .zero⟩
  /- RCVWAIT -/
  | 0x09 => some ⟨0xE0, false, .zero, .zero, .zero, .zero⟩
  /- RCVDROP -/
  | 0x0A => some ⟨0xE0, false, .zero, .zero, .zero, .zero⟩
  /- YIELD -/
  | 0x0B => some ⟨0xFF, false, .zero, .zero, .zero, .zero⟩
  /- LAUNCH -/
  | 0x0C => some ⟨0xFE, false, .regN, if f.isF128 then .zero else .pair, .zero, .zero⟩
  /- SHQ -/
  | 0x10 => some ⟨0xFF, false, .reg, .reg, .zero, .zero⟩
  /- SHASSERT -/
  | 0x11 => some ⟨0xF8, false, .zero, .reg, .zero, .zero⟩
  /- SHFORCE -/
  | 0x12 => some ⟨0xFC, m 1 0 = 3, .zero, .reg, .zero, .zero⟩
  /- SHNARROW -/
  | 0x13 => some ⟨0xFF, false, .pred, .reg, .zero, .zero⟩
  /- PLOP -/
  | 0x14 => some ⟨0xF0, false, .pred, .pred, .pred, .zero⟩
  /- P2V -/
  | 0x15 => some ⟨0xFF, false, .range 4, .pred, .zero, .zero⟩
  /- V2P -/
  | 0x16 => some ⟨0xFE, false, .pred, if b 0 then .range 4 else .reg, .zero, .zero⟩
  /- IADD -/
  | 0x18 => some ⟨0xF8, m 1 0 = 3 || (b 2 && m 1 0 != 0), .regN, .reg, .reg, if b 2 then .pred else .zero⟩
  /- ISUB -/
  | 0x19 => some ⟨0xFC, m 1 0 = 3, .regN, .reg, .reg, .zero⟩
  /- IMUL -/
  | 0x1A => some ⟨0xFF, false, .regN, .reg, .reg, .zero⟩
  /- IMULH -/
  | 0x1B => some ⟨0xFC, m 1 0 = 3, .regN, .reg, .reg, .zero⟩
  /- IMAD -/
  | 0x1C => some ⟨0xFF, false, .regN, .reg, .reg, .reg⟩
  /- IMAD64 -/
  | 0x1D => some ⟨0xFE, false, .pairN, .reg, .reg, .pair⟩
  /- IMIN -/
  | 0x1E => some ⟨0xFE, false, .regN, .reg, .reg, .zero⟩
  /- IMAX -/
  | 0x1F => some ⟨0xFE, false, .regN, .reg, .reg, .zero⟩
  /- IABS -/
  | 0x20 => some ⟨0xFE, false, .regN, .reg, .zero, .zero⟩
  /- IADDC -/
  | 0x21 => some ⟨0xFB, false, .regN, .reg, .reg, .pred⟩
  /- AND -/
  | 0x22 => some ⟨0xFF, false, .regN, .reg, .reg, .zero⟩
  /- OR -/
  | 0x23 => some ⟨0xFF, false, .regN, .reg, .reg, .zero⟩
  /- XOR -/
  | 0x24 => some ⟨0xFF, false, .regN, .reg, .reg, .zero⟩
  /- ANDN -/
  | 0x25 => some ⟨0xFF, false, .regN, .reg, .reg, .zero⟩
  /- SHL -/
  | 0x26 => some ⟨0xFE, false, .regN, .reg, .reg, .zero⟩
  /- SHR -/
  | 0x27 => some ⟨0xFE, false, .regN, .reg, .reg, .zero⟩
  /- SAR -/
  | 0x28 => some ⟨0xFE, false, .regN, .reg, .reg, .zero⟩
  /- ROTL -/
  | 0x29 => some ⟨0xFF, false, .regN, .reg, .reg, .zero⟩
  /- POPC -/
  | 0x2A => some ⟨0xFF, false, .regN, .reg, .zero, .zero⟩
  /- CLZ -/
  | 0x2B => some ⟨0xFF, false, .regN, .reg, .zero, .zero⟩
  /- BREV -/
  | 0x2C => some ⟨0xFF, false, .regN, .reg, .zero, .zero⟩
  /- BFE -/
  | 0x2D => some ⟨0xFE, false, .regN, .reg, .reg, .zero⟩
  /- BFI -/
  | 0x2E => some ⟨0xFF, false, .regN, .reg, .reg, .reg⟩
  /- SEL -/
  | 0x2F => some ⟨0xFF, false, .regN, .reg, .reg, .pred⟩
  /- ICMP -/
  | 0x30 => some ⟨0xC0, m 2 0 ≥ 6, .pred, .reg, .reg, if m 5 4 = 0 then .zero else .pred⟩
  /- IADD64 -/
  | 0x31 => some ⟨0xFF, false, .pairN, .pair, .pair, .zero⟩
  /- ISUB64 -/
  | 0x32 => some ⟨0xFF, false, .pairN, .pair, .pair, .zero⟩
  /- SHF -/
  | 0x33 => some ⟨0xFC, false, .regN, .reg, .reg, .reg⟩
  /- LEA -/
  | 0x34 => some ⟨0x80, b 6 && !b 5, if b 5 then .pairN else .regN, if b 5 then .pair else .reg, .reg, .zero⟩
  /- MOV -/
  | 0x35 => some ⟨0xFF, false, .regN, .zero, .reg, .zero⟩
  /- IDOT4 -/
  | 0x36 => some ⟨0xF8, false, .regN, .reg, .reg, .reg⟩
  /- LOP3 -/
  | 0x37 => some ⟨0x00, false, .regN, .reg, .reg, .reg⟩
  /- PRMT -/
  | 0x38 => some ⟨0xFF, false, .regN, .reg, .reg, .reg⟩
  /- SREAD -/
  | 0x39 => some ⟨0x00, !(m 7 0 ≤ 8 || m 7 0 = 0x10), if m 7 0 = 0x10 then .pairN else .regN, .zero, .zero, .zero⟩
  /- FADD -/
  | 0x40 => some ⟨0xF0, m 2 0 ≥ 4, .regN, .reg, .reg, .zero⟩
  /- FSUB -/
  | 0x41 => some ⟨0xF0, m 2 0 ≥ 4, .regN, .reg, .reg, .zero⟩
  /- FMUL -/
  | 0x42 => some ⟨0xF0, m 2 0 ≥ 4, .regN, .reg, .reg, .zero⟩
  /- FFMA -/
  | 0x43 => some ⟨0xF0, m 2 0 ≥ 4, .regN, .reg, .reg, .reg⟩
  /- FMIN -/
  | 0x44 => some ⟨0xE7, false, .regN, .reg, .reg, .zero⟩
  /- FMAX -/
  | 0x45 => some ⟨0xE7, false, .regN, .reg, .reg, .zero⟩
  /- FCMP -/
  | 0x46 => some ⟨0xC0, false, .pred, .reg, .reg, if m 5 4 = 0 then .zero else .pred⟩
  /- FRCP -/
  | 0x47 => some ⟨0xF0, m 2 0 ≥ 4, .regN, .reg, .zero, .zero⟩
  /- FRSQ -/
  | 0x48 => some ⟨0xF7, false, .regN, .reg, .zero, .zero⟩
  /- FSQRT -/
  | 0x49 => some ⟨0xF0, m 2 0 ≥ 4, .regN, .reg, .zero, .zero⟩
  /- FEXP2 -/
  | 0x4A => some ⟨0xF7, false, .regN, .reg, .zero, .zero⟩
  /- FLOG2 -/
  | 0x4B => some ⟨0xF7, false, .regN, .reg, .zero, .zero⟩
  /- FSIN -/
  | 0x4C => some ⟨0xF7, false, .regN, .reg, .zero, .zero⟩
  /- FCOS -/
  | 0x4D => some ⟨0xF7, false, .regN, .reg, .zero, .zero⟩
  /- FTANH -/
  | 0x4E => some ⟨0xF7, false, .regN, .reg, .zero, .zero⟩
  /- FRND -/
  | 0x4F => some ⟨0xF0, m 2 0 ≥ 4, .regN, .reg, .zero, .zero⟩
  /- FCLASS -/
  | 0x50 => some ⟨0xFF, false, .regN, .reg, .zero, .zero⟩
  /- PADD2 -/
  | 0x51 => some ⟨0xE0, m 2 0 ≥ 4, .regN, .reg, .reg, .zero⟩
  /- PMUL2 -/
  | 0x52 => some ⟨0xE0, m 2 0 ≥ 4, .regN, .reg, .reg, .zero⟩
  /- PFMA2 -/
  | 0x53 => some ⟨0xE0, m 2 0 ≥ 4, .regN, .reg, .reg, .reg⟩
  /- PMIN2 -/
  | 0x54 => some ⟨0xC7, false, .regN, .reg, .reg, .zero⟩
  /- PMAX2 -/
  | 0x55 => some ⟨0xC7, false, .regN, .reg, .reg, .zero⟩
  /- CVT -/
  | 0x56 => some ⟨0x00, m 7 4 ≥ 10 || m 3 0 ≥ 10 || cvtCtlIll f (m 7 4), .regN, .reg, .control, .zero⟩
  /- CVTP -/
  | 0x57 => some ⟨0xF0, !packType (m 3 0) || cvtCtlIll f (m 3 0), .regN, .range (packCount (m 3 0)), .control, .zero⟩
  /- CVTU -/
  | 0x58 => some ⟨0xF0, !packType (m 3 0), .range (packCount (m 3 0)), .reg, .zero, .zero⟩
  /- SCALE -/
  | 0x59 => some ⟨0x88, m 6 4 ≥ 4, .regN, .reg, .reg, .zero⟩
  /- FDOT2 -/
  | 0x5A => some ⟨0xE0, m 2 0 ≥ 4, .regN, .reg, .reg, .reg⟩
  /- QDEC -/
  | 0x5B => some ⟨0xC0, false, .range 4, .reg, .reg, .zero⟩
  /- SHFL -/
  | 0x70 => some ⟨0x40, m 2 0 ≥ 5, .reg, .reg, .reg, if b 7 then .zero else .range 4⟩
  /- VOTE -/
  | 0x71 => some ⟨0x78, m 2 0 ≥ 5, if m 2 0 = 3 then .range 4 else if m 2 0 = 4 then .reg else .pred, .pred, .zero, if b 7 then .zero else .range 4⟩
  /- REDUX -/
  | 0x72 => some ⟨0x70, m 3 0 ≥ 9, .reg, .reg, .zero, if b 7 then .zero else .range 4⟩
  /- MATCH -/
  | 0x73 => some ⟨0x7C, false, .range 4, if b 1 then .pair else .reg, .zero, if b 7 then .zero else .range 4⟩
  /- SCAN -/
  | 0x74 => some ⟨0x60, m 3 0 ≥ 9, .reg, .reg, .zero, if b 7 then .zero else .range 4⟩
  /- ELECT -/
  | 0x75 => some ⟨0x7E, false, .regN, .pred, .zero, if b 7 then .zero else .range 4⟩
  /- LD -/
  | 0x80 => some ⟨0x00, !(m 7 4 ≤ 5) || m 2 0 = 7, dataN (m 2 0), .zero, .pair, .zero⟩
  /- ST -/
  | 0x81 => some ⟨0x00, !(m 7 4 = 0 || (6 ≤ m 7 4 && m 7 4 ≤ 10)) || m 2 0 = 1 || m 2 0 = 3 || m 2 0 = 7, .zero, data (m 2 0), .pair, .zero⟩
  /- LDS -/
  | 0x82 => some ⟨0x00, !(m 7 4 ≤ 5) || m 2 0 = 7, dataN (m 2 0), .zero, .reg, .zero⟩
  /- STS -/
  | 0x83 => some ⟨0x00, !(m 7 4 = 0 || (6 ≤ m 7 4 && m 7 4 ≤ 10)) || m 2 0 = 1 || m 2 0 = 3 || m 2 0 = 7, .zero, data (m 2 0), .reg, .zero⟩
  /- LDX -/
  | 0x84 => some ⟨0x00, !(m 7 4 ≤ 5) || m 2 0 = 7, dataN (m 2 0), .zero, .reg, .reg⟩
  /- STX -/
  | 0x85 => some ⟨0x00, !(m 7 4 = 0 || (6 ≤ m 7 4 && m 7 4 ≤ 10)) || m 2 0 = 1 || m 2 0 = 3 || m 2 0 = 7, .zero, data (m 2 0), .reg, .reg⟩
  /- ATOM -/
  | 0x86 => some ⟨0x00, m 3 0 = 15, if 12 ≤ m 3 0 then .pairN else .regN, if 12 ≤ m 3 0 then .pair else .reg, .pair, .zero⟩
  /- ATOMCAS -/
  | 0x87 => some ⟨0x0C, m 1 0 = 3, casData true (m 1 0), casData false (m 1 0), .pair, casData false (m 1 0)⟩
  /- RED -/
  | 0x88 => some ⟨0x00, !(m 7 4 = 0 || (6 ≤ m 7 4 && m 7 4 ≤ 10)) || m 3 0 = 8 || m 3 0 = 13 || m 3 0 = 15, .zero, if 12 ≤ m 3 0 then .pair else .reg, .pair, .zero⟩
  /- PREF -/
  | 0x89 => some ⟨0xF8, m 2 0 ≥ 4, .zero, .zero, .pair, .zero⟩
  /- FENCE -/
  | 0x8A => some ⟨0x0F, m 7 4 = 0, .zero, .zero, .zero, .zero⟩
  /- SEAL -/
  | 0x8B => some ⟨0xFF, false, .zero, .pair, .reg, .zero⟩
  /- UNSEAL -/
  | 0x8C => some ⟨0xF8, m 2 0 ≥ 5, .zero, .pair, .reg, .zero⟩
  /- PIN -/
  | 0x8D => some ⟨0xFF, false, .regN, .pair, .reg, .zero⟩
  /- UNPIN -/
  | 0x8E => some ⟨0xFF, false, .regN, .pair, .reg, .zero⟩
  /- LDC -/
  | 0x8F => some ⟨0xF0, m 2 0 = 7, data (m 2 0), .zero, .reg, .zero⟩
  /- CCTL -/
  | 0x90 => some ⟨0xFC, false, .zero, .zero, .pair, .zero⟩
  /- PBINIT -/
  | 0xA0 => some ⟨0xFE, false, .zero, .reg, .reg, if b 0 then .reg else .zero⟩
  /- PBARRIVE -/
  | 0xA1 => some ⟨0xF0, b 3 && !b 1, .regN, .reg, if b 1 then .reg else .zero, if b 2 then .reg else .zero⟩
  /- PBWAIT -/
  | 0xA2 => some ⟨0xFC, false, if b 0 then .reg else .zero, .reg, .reg, if b 1 then .reg else .zero⟩
  /- PBTEST -/
  | 0xA3 => some ⟨0xFD, false, .reg, .reg, .reg, if b 1 then .reg else .zero⟩
  /- BSYNC -/
  | 0xA4 => some ⟨0x00, m 7 4 = 0, .zero, .zero, .zero, .zero⟩
  /- SBAR -/
  | 0xA5 => some ⟨0x18, m 7 5 ≥ 5, .regN, .zero, .reg, .zero⟩
  /- EVWAIT -/
  | 0xA6 => some ⟨0x0F, m 7 4 ≥ 6, .regN, .pair, .reg, .reg⟩
  /- CPY -/
  | 0xB0 => some ⟨0x3F, false, .regN, if b 7 then .reg else .pair, .reg, if b 6 then .reg else .pair⟩
  /- CPYQ -/
  | 0xB1 => some ⟨0xFF, false, .pairN, .zero, .reg, .zero⟩
  /- CPYWAIT -/
  | 0xB2 => some ⟨0xFE, false, .pairN, .zero, .reg, .zero⟩
  /- COLL -/
  | 0xB3 => some ⟨0x07, m 7 6 = 3 || m 5 3 ≥ 5, .regN, .pair, .reg, .pair⟩
  /- COLLQ -/
  | 0xB4 => some ⟨0xFF, false, .pairN, .zero, .reg, .zero⟩
  /- OSCLAIM -/
  | 0xC0 => some ⟨0xFF, false, .regN, .zero, .reg, .zero⟩
  /- OSREL -/
  | 0xC1 => some ⟨0xFF, false, .zero, .zero, .reg, .zero⟩
  /- OSLOAD -/
  | 0xC2 => some ⟨0x03, !osFormat (m 7 4), .slot, if b 2 then .reg else .pair, if m 7 4 = 15 then .zero else .reg, .zero⟩
  /- OSQ -/
  | 0xC3 => some ⟨0xFF, false, .reg, .zero, .reg, .zero⟩
  /- ACCGROW -/
  | 0xC4 => some ⟨0xFE, false, .regN, .zero, .reg, .zero⟩
  /- ACCFREE -/
  | 0xC5 => some ⟨0xFF, false, .zero, .zero, .reg, .zero⟩
  /- ACCZERO -/
  | 0xC6 => some ⟨0xFF, false, .tile, .zero, .zero, .zero⟩
  /- ACCLD -/
  | 0xC7 => some ⟨0x00, m 5 0 + accCount (m 7 6) > 64, .range (accCount (m 7 6)), .tile, .zero, .zero⟩
  /- ACCST -/
  | 0xC8 => some ⟨0x07, m 7 5 ≥ 5, .zero, .tile, .reg, if b 3 then .reg else .pair⟩
  /- ACCMV -/
  | 0xC9 => some ⟨0x00, accmvIll f, if m 7 6 = 2 then .range 4 else .tile, if m 7 6 = 1 then .range 4 else .tile, .zero, .zero⟩
  /- MMA -/
  | 0xCA => some ⟨0xE0, m 2 0 ≥ 5 || (b 4 && !f.isF128), .tile, .slot, .slot, if b 3 then .reg else .zero⟩
  /- MMAG -/
  | 0xCB => some ⟨0xE0, m 2 0 ≥ 5 || b 3 || (b 4 && !f.isF128), .tile, .slot, .slot, .reg⟩
  /- MRFENCE -/
  | 0xCC => some ⟨0xFF, false, .zero, .zero, .zero, .zero⟩
  /- MWAIT -/
  | 0xCD => some ⟨0xC0, false, .zero, .zero, .zero, .zero⟩
  /- BDSET -/
  | 0xE0 => some ⟨0xE0, false, .zero, .pair, .zero, .zero⟩
  /- BDGET -/
  | 0xE1 => some ⟨0xE0, false, .pairN, .zero, .zero, .zero⟩
  /- TTC -/
  | 0xE2 => some ⟨0xFF, false, .zero, .slot, if f.isF128 then .zero else .bond, .zero⟩
  /- TTRUN -/
  | 0xE3 => some ⟨0xFF, false, .zero, if f.isF128 then .zero else .pair, .reg, .zero⟩
  /- TTQ -/
  | 0xE4 => some ⟨0xFC, m 1 0 = 3, .regN, .zero, if m 1 0 = 1 then .bond else .zero, .zero⟩
  /- DLOAD -/
  | 0xE8 => some ⟨0xFC, false, .reg, if f.isF128 then .zero else .pair, .zero, .zero⟩
  /- DSWITCH -/
  | 0xE9 => some ⟨0xFC, false, .zero, .zero, .zero, .zero⟩
  /- DSYNC -/
  | 0xEA => some ⟨0xFF, false, .zero, .zero, .zero, .zero⟩
  /- DREAD -/
  | 0xEB => some ⟨0xF8, false, .range 6, .reg, .zero, .zero⟩
  /- DPATCH -/
  | 0xEC => some ⟨0xFC, false, .reg, .reg, if f.isF128 then .zero else .range 6, .zero⟩
  /- TRAP -/
  | 0xF0 => some ⟨0xFF, false, .zero, .zero, .reg, .zero⟩
  /- TRET -/
  | 0xF1 => some ⟨0xFE, false, .zero, if b 0 then .reg else .zero, .zero, .zero⟩
  /- CSRR -/
  | 0xF2 => some ⟨0xFF, csrIll f, .pairN, .zero, .reg, .zero⟩
  /- CSRW -/
  | 0xF3 => some ⟨0xFF, csrIll f, .zero, .pair, .reg, .zero⟩
  /- SYSQ -/
  | 0xF4 => some ⟨0xFF, false, .regN, .zero, .reg, .zero⟩
  /- REGION -/
  | 0xF5 => some ⟨0xFF, false, .zero, .zero, .zero, .zero⟩
  /- BRK -/
  | 0xF6 => some ⟨0x00, false, .zero, .zero, .zero, .zero⟩
  /- PCMP -/
  | 0xF7 => some ⟨0xF8, false, .zero, .range (m 2 0 + 1), .zero, .zero⟩
  | _ => none

/-- The opcodes F96 is not legal for (R71). -/
def noF96 (op : Nat) : Bool :=
  op ∈ [0x01, 0x03, 0x05, 0x06, 0x07, 0x09, 0x0A, 0x0B, 0xE8, 0xE9, 0xEA, 0xEB, 0xEC, 0xCC, 0xCD, 0xF1]
/-- The opcodes F128 is legal for (R71). -/
def hasF128 (op : Nat) : Bool :=
  op ∈ [0x0C, 0x80, 0x81, 0xC2, 0xC9, 0xCA, 0xCB, 0xE2, 0xE3, 0xB0, 0xB3, 0xE8, 0xEC]
/-- The format of `f` is legal for the opcode (R71, step 5 of R75). -/
def formatLegal (op : Nat) (f : Fields) : Bool :=
  match f.x with
  | .none => true
  | .imm _ => !noF96 op
  | .ext _ => hasF128 op
/-- The opcodes whose IMM32 is an offset added to the address in VB (R71). -/
def immIsOffset (op : Nat) : Bool := (0x80 ≤ op && op ≤ 0x89) || op = 0x8F || op = 0x90
/-- The long-latency opcodes (R73). -/
def longLatency (op : Nat) : Bool :=
  op ∈ [0x80, 0x82, 0x84, 0x8F, 0x86, 0x87, 0x47, 0x48, 0x49, 0x4A, 0x4B, 0x4C, 0x4D, 0x4E, 0x5B, 0xC7, 0xE4,
    0xB1, 0xB4, 0xF4]
/-- The long-latency opcodes whose waiters are swapped, not held (R130). -/
def swapClass (op : Nat) : Bool := op ∈ [0x80, 0x84, 0x86, 0x87, 0xB1, 0xB4, 0xF4]

/-- MOD bits that are unused under other MOD bits (SUB 0x2): the bond index with `.bnd` (R272), n with ACT (R91),
the column of ACCMV `.tt` (R255, R260) and op of COLL `.bcast` and `.allgather` (R376). -/
def modUnused (op : Nat) (f : Fields) : Bool :=
  match op with
  | 0xE0 | 0xE1 => f.b 4 && f.m 3 0 != 0
  | 0xEB => f.b 2 && f.m 1 0 != 0
  | 0xC9 => f.m 7 6 = 0 && f.m 5 0 != 0
  | 0xB3 => (f.m 7 6 = 1 || f.m 7 6 = 2) && f.m 5 3 != 0
  | _ => false

/-- EXT bits the definition does not use are non-zero (R71; R88, R92, R171, R260, R263, R264, R276, R292, R376). -/
def extUnused (op : Nat) (f : Fields) : Bool :=
  f.isF128 &&
  match op with
  | 0x0C | 0xE8 | 0xEC | 0xE3 => f.e 63 57 != 0
  | 0xC9 => f.m 7 6 = 0 && f.e 63 19 != 0
  | 0xCA | 0xCB =>
    f.e 62 56 != 0 || f.e 31 25 != 0 || f.e 15 9 != 0 || f.e 5 2 != 0 ||
    (f.e 63 63 = 0 && f.e 55 32 != 0) || (!f.b 4 && (f.e 24 16 != 0 || f.e 8 6 != 0)) ||
    (!f.b 3 && f.e 1 0 != 0) || (op = 0xCB && f.e 63 63 != 0)
  | 0xB0 => f.e 62 56 != 0 || f.e 31 0 != 0
  | 0xB3 =>
    f.e 62 56 != 0 || f.e 31 16 != 0 || f.e 7 4 != 0 || (f.e 63 63 = 0 && f.e 55 32 != 0) ||
    (f.m 7 6 != 1 && f.e 15 8 != 0)
  | _ => false

/-- IMM32 stands where the opcode has no use for it, or carries unused bits (SUB 0x2): R71, R114, R133, R202. -/
def immUnused (op : Nat) (k : FieldKind) (f : Fields) : Bool :=
  f.isF96 && !immIsOffset op &&
  match k with
  | .zero | .pred => f.imm != 0
  | .control => f.imm.toNat ≥ 16
  | _ => false

/-- The field is unused and not zero (step 6). -/
def FieldKind.dirty (k : FieldKind) (v : BitVec 9) : Bool :=
  match k with
  | .zero | .control => v != 0
  | _ => false
/-- The field names a reserved register index, or 511 where not allowed (step 7). -/
def FieldKind.reserved (k : FieldKind) (v : BitVec 9) : Bool :=
  match k with
  | .reg | .pair | .range _ => v.toNat ≥ 384
  | .regN | .pairN | .rangeN _ => v.toNat ≥ 384 && v.toNat != 511
  | .pred => v.toNat ≥ 8
  | _ => false
/-- The field breaks an operand rule (step 9): an odd pair, a range past `v383`, a tile, slot or bond beyond its
count. -/
def FieldKind.misfit (k : FieldKind) (v : BitVec 9) : Bool :=
  match k with
  | .pair => v.toNat % 2 = 1
  | .pairN => v.toNat != 511 && v.toNat % 2 = 1
  | .range n => v.toNat + n > 384
  | .rangeN n => v.toNat != 511 && v.toNat + n > 384
  | .tile => v.toNat > 15
  | .slot => v.toNat > 31
  | .bond => v.toNat > 15
  | _ => false

/-- IMM32 replaces the VB field of this word (R71). -/
def immReplaces (op : Nat) (f : Fields) : Bool := f.isF96 && !immIsOffset op

/-- Steps 5 to 9 of R75 for an opcode of the map: the ILLEGAL subcode of R76, or `none` when all pass. -/
def illegalSub (op : Nat) (f : Fields) : Option Nat :=
  match opSpec op f with
  | none => some 0x0
  | some k =>
    let rep := immReplaces op f
    if !formatLegal op f then some 0x1
    else if (f.mod &&& k.zeroMask) != 0 || modUnused op f || extUnused op f || immUnused op k.vb f ||
        k.vd.dirty f.vd || k.va.dirty f.va || (if rep then f.vb != 0 else k.vb.dirty f.vb) || k.vc.dirty f.vc then
      some 0x2
    else if k.vd.reserved f.vd || k.va.reserved f.va || (!rep && k.vb.reserved f.vb) || k.vc.reserved f.vc ||
        ((op = 0xCA || op = 0xCB) && f.isF128 && f.e 24 16 ≥ 384) then
      some 0x3
    else if f.la != 0 && !longLatency op then some 0x4
    else if k.ill || k.vd.misfit f.vd || k.va.misfit f.va || (!rep && k.vb.misfit f.vb) || k.vc.misfit f.vc ||
        (rep && k.vb = .slot && f.imm.toNat > 31) || (rep && k.vb = .bond && f.imm.toNat > 15) then
      some 0x8
    else none

/-- The registers a field names. -/
def FieldKind.regs (k : FieldKind) (v : BitVec 9) : List Nat :=
  match k with
  | .reg => [v.toNat]
  | .regN => if v.toNat = 511 then [] else [v.toNat]
  | .pair => [v.toNat, v.toNat + 1]
  | .pairN => if v.toNat = 511 then [] else [v.toNat, v.toNat + 1]
  | .range n => (List.range n).map (v.toNat + ·)
  | .rangeN n => if v.toNat = 511 then [] else (List.range n).map (v.toNat + ·)
  | _ => []
/-- The predicates a field names; `pt` is none. -/
def FieldKind.preds (k : FieldKind) (v : BitVec 9) : List Nat :=
  match k with
  | .pred => if v.toNat < 7 then [v.toNat] else []
  | _ => []

/-- The register an operand of a product's F128 form names: SBREG with `.sb` (R252). -/
def scaleRegs (op : Nat) (f : Fields) : List Nat := if (op = 0xCA || op = 0xCB) && f.isF128 && f.b 4 then [f.e 24 16] else []
/-- The registers an instruction reads or writes, pairs and ranges whole (R129). -/
def touchedRegs (op : Nat) (f : Fields) : List Nat :=
  match opSpec op f with
  | none => []
  | some k => k.vd.regs f.vd ++ k.va.regs f.va ++ (if immReplaces op f then [] else k.vb.regs f.vb) ++ k.vc.regs f.vc ++ scaleRegs op f
/-- The predicates an instruction reads or writes, its guard included (R129). -/
def touchedPreds (op : Nat) (f : Fields) : List Nat :=
  (if f.pg.toNat < 7 then [f.pg.toNat] else []) ++
  match opSpec op f with
  | none => []
  | some k => k.vd.preds f.vd ++ k.va.preds f.va ++ (if immReplaces op f then [] else k.vb.preds f.vb) ++ k.vc.preds f.vc
/-- The predicates an instruction reads, its guard included: an F96 has `p0` where IMM32 stands for one (R114), and VC of IADD is written. -/
def readPreds (op : Nat) (f : Fields) : List Nat :=
  (if f.pg.toNat < 7 then [f.pg.toNat] else []) ++
  match opSpec op f with
  | none => []
  | some k =>
    k.va.preds f.va ++ (if immReplaces op f then (if k.vb = .pred then [0] else []) else k.vb.preds f.vb) ++
    if op = 0x18 then [] else k.vc.preds f.vc
/-- The registers an instruction writes: the range its VD names. -/
def writtenRegs (op : Nat) (f : Fields) : List Nat :=
  match opSpec op f with
  | none => []
  | some k => k.vd.regs f.vd

end Sys2Proof
end

