-- ==== Sys2Proof/WellFormed.lean ====
section
/-! DEFINITION. Which instructions are well formed: the words that pass steps 4 to 9 of R75, and the ranges of the
arguments of events. -/
namespace Sys2Proof

/-- The opcode and fields of a major opcode's instruction; `none` for the short forms and for events. -/
def Instr.isa : Instr → Option (Nat × Fields)
  | .nop f => some (0x01, f)
  | .bra f => some (0x02, f)
  | .brx f => some (0x03, f)
  | .call f => some (0x04, f)
  | .callx f => some (0x05, f)
  | .ret f => some (0x06, f)
  | .exit f => some (0x07, f)
  | .rcvarm f => some (0x08, f)
  | .rcvwait f => some (0x09, f)
  | .rcvdrop f => some (0x0A, f)
  | .yield f => some (0x0B, f)
  | .launch f => some (0x0C, f)
  | .shq f => some (0x10, f)
  | .shassert f => some (0x11, f)
  | .shforce f => some (0x12, f)
  | .shnarrow f => some (0x13, f)
  | .plop f => some (0x14, f)
  | .p2v f => some (0x15, f)
  | .v2p f => some (0x16, f)
  | .iadd f => some (0x18, f)
  | .isub f => some (0x19, f)
  | .imul f => some (0x1A, f)
  | .imulh f => some (0x1B, f)
  | .imad f => some (0x1C, f)
  | .imad64 f => some (0x1D, f)
  | .imin f => some (0x1E, f)
  | .imax f => some (0x1F, f)
  | .iabs f => some (0x20, f)
  | .iaddc f => some (0x21, f)
  | .andL f => some (0x22, f)
  | .orL f => some (0x23, f)
  | .xorL f => some (0x24, f)
  | .andn f => some (0x25, f)
  | .shl f => some (0x26, f)
  | .shr f => some (0x27, f)
  | .sar f => some (0x28, f)
  | .rotl f => some (0x29, f)
  | .popc f => some (0x2A, f)
  | .clz f => some (0x2B, f)
  | .brev f => some (0x2C, f)
  | .bfe f => some (0x2D, f)
  | .bfi f => some (0x2E, f)
  | .sel f => some (0x2F, f)
  | .icmp f => some (0x30, f)
  | .iadd64 f => some (0x31, f)
  | .isub64 f => some (0x32, f)
  | .shf f => some (0x33, f)
  | .lea f => some (0x34, f)
  | .mov f => some (0x35, f)
  | .idot4 f => some (0x36, f)
  | .lop3 f => some (0x37, f)
  | .prmt f => some (0x38, f)
  | .sread f => some (0x39, f)
  | .fadd f => some (0x40, f)
  | .fsub f => some (0x41, f)
  | .fmul f => some (0x42, f)
  | .ffma f => some (0x43, f)
  | .fmin f => some (0x44, f)
  | .fmax f => some (0x45, f)
  | .fcmp f => some (0x46, f)
  | .frcp f => some (0x47, f)
  | .frsq f => some (0x48, f)
  | .fsqrt f => some (0x49, f)
  | .fexp2 f => some (0x4A, f)
  | .flog2 f => some (0x4B, f)
  | .fsin f => some (0x4C, f)
  | .fcos f => some (0x4D, f)
  | .ftanh f => some (0x4E, f)
  | .frnd f => some (0x4F, f)
  | .fclass f => some (0x50, f)
  | .padd2 f => some (0x51, f)
  | .pmul2 f => some (0x52, f)
  | .pfma2 f => some (0x53, f)
  | .pmin2 f => some (0x54, f)
  | .pmax2 f => some (0x55, f)
  | .cvt f => some (0x56, f)
  | .cvtp f => some (0x57, f)
  | .cvtu f => some (0x58, f)
  | .scale f => some (0x59, f)
  | .fdot2 f => some (0x5A, f)
  | .qdec f => some (0x5B, f)
  | .shfl f => some (0x70, f)
  | .vote f => some (0x71, f)
  | .redux f => some (0x72, f)
  | .matchL f => some (0x73, f)
  | .scan f => some (0x74, f)
  | .elect f => some (0x75, f)
  | .ld f => some (0x80, f)
  | .st f => some (0x81, f)
  | .lds f => some (0x82, f)
  | .sts f => some (0x83, f)
  | .ldx f => some (0x84, f)
  | .stx f => some (0x85, f)
  | .atom f => some (0x86, f)
  | .atomcas f => some (0x87, f)
  | .red f => some (0x88, f)
  | .pref f => some (0x89, f)
  | .fence f => some (0x8A, f)
  | .sealR f => some (0x8B, f)
  | .unsealR f => some (0x8C, f)
  | .pin f => some (0x8D, f)
  | .unpin f => some (0x8E, f)
  | .ldc f => some (0x8F, f)
  | .cctl f => some (0x90, f)
  | .pbinit f => some (0xA0, f)
  | .pbarrive f => some (0xA1, f)
  | .pbwait f => some (0xA2, f)
  | .pbtest f => some (0xA3, f)
  | .bsync f => some (0xA4, f)
  | .sbar f => some (0xA5, f)
  | .evwait f => some (0xA6, f)
  | .cpy f => some (0xB0, f)
  | .cpyq f => some (0xB1, f)
  | .cpywait f => some (0xB2, f)
  | .coll f => some (0xB3, f)
  | .collq f => some (0xB4, f)
  | .osclaim f => some (0xC0, f)
  | .osrel f => some (0xC1, f)
  | .osload f => some (0xC2, f)
  | .osq f => some (0xC3, f)
  | .accgrow f => some (0xC4, f)
  | .accfree f => some (0xC5, f)
  | .acczero f => some (0xC6, f)
  | .accld f => some (0xC7, f)
  | .accst f => some (0xC8, f)
  | .accmv f => some (0xC9, f)
  | .mma f => some (0xCA, f)
  | .mmag f => some (0xCB, f)
  | .mrfence f => some (0xCC, f)
  | .mwait f => some (0xCD, f)
  | .bdset f => some (0xE0, f)
  | .bdget f => some (0xE1, f)
  | .ttc f => some (0xE2, f)
  | .ttrun f => some (0xE3, f)
  | .ttq f => some (0xE4, f)
  | .dload f => some (0xE8, f)
  | .dswitch f => some (0xE9, f)
  | .dsync f => some (0xEA, f)
  | .dread f => some (0xEB, f)
  | .dpatch f => some (0xEC, f)
  | .trap f => some (0xF0, f)
  | .tret f => some (0xF1, f)
  | .csrr f => some (0xF2, f)
  | .csrw f => some (0xF3, f)
  | .sysq f => some (0xF4, f)
  | .region f => some (0xF5, f)
  | .brk f => some (0xF6, f)
  | .pcmp f => some (0xF7, f)
  | .dx _ _ => none
  | .fillWord => none
  | .tailReread _ => none
  | .recordTake _ _ => none
  | .delayedDelivery _ => none
  | .priorityAging _ _ => none
  | .placementDecision => none
  | .blockStarved _ _ => none
  | .prologueFill _ => none
  | .blockStart _ => none
  | .blockEnd _ => none
  | .holdTimeout _ _ _ => none
  | .activeSetExchange _ _ _ => none
  | .longLatencyWriteback _ _ => none
  | .pageWalk _ _ _ => none
  | .pageMigrateRequest _ => none
  | .migrationComplete _ _ => none
  | .shootdownAck _ _ => none
  | .shootdownTimeout _ _ => none
  | .enginePerform _ => none
  | .mmaHalf _ => none
  | .mmagMemberPart _ => none
  | .ttrunStep _ => none
  | .copyBurst _ => none
  | .evwaitReread _ _ => none
  | .evwaitTimeout _ _ => none
  | .watchdogExpiry _ _ => none
  | .watchdogGraceExpiry _ _ => none
  | .preemption _ => none
  | .errorDetected _ => none
  | .vigilBegin _ => none
  | .vigilDrainTimeout _ => none
  | .vigilScanComplete _ _ _ => none
  | .flitReceive _ _ => none
  | .linkRetrain _ _ => none
  | .idleFlit _ => none
  | .linkTimeout _ => none
  | .switchTimeout _ => none
  | .nodeLost _ _ _ => none
  | .fabricRequest _ => none
  | .collHeartbeat _ _ => none
  | .collContribution _ => none
  | .collResult _ => none
  | .groupTimeout _ _ _ => none
  | .spareAdmission _ _ _ _ => none
  | .ctxCreate _ => none
  | .ctxDestroy _ => none
  | .loadObject _ => none
  | .updateObject _ => none
  | .queueCreate _ => none
  | .queueReset _ => none
  | .cancel _ => none
  | .resume _ => none
  | .fail _ => none
  | .ctxRead _ => none
  | .switchOut _ => none
  | .restore _ => none
  | .migrate _ => none
  | .setXlate _ => none
  | .setWindow _ => none
  | .faultAnswer _ => none
  | .groupCreate _ => none
  | .groupJoin _ => none
  | .fenceCore _ => none
  | .release _ => none
  | .bankRead _ => none
  | .keyBind _ => none
  | .keyClear _ => none
  | .errinjSlotUe _ _ _ _ => none
  | .errinjMemUe _ _ => none
  | .errinjPairFlip _ _ => none
  | .errinjRowSoft _ _ _ => none
  | .errinjCeLog _ _ => none
  | .deviceReset _ => none
  | .thermalTrip _ => none
  | .thermalStepRise _ => none
  | .thermalStepFall _ => none
  | .powerStepRise => none
  | .powerStepFall => none
  | .badCommandRecord _ _ => none
  | .unmap _ _ _ => none
  | .portKeyRotation _ => none
  | .powerGating _ _ => none

/-- A core position (R50). -/
def coreOk (c : Nat) : Bool := c < 288
/-- A Vrelbusar port (R360). -/
def portOk (p : Nat) : Bool := p < 18

/-- Well formed: a major opcode's word passes steps 4 to 9 of R75; a short form is not the fill word (R72); an
event names a unit that exists. -/
def Instr.wellFormed (i : Instr) : Bool :=
  match i with
  | .dx h e => !(h = 0 && e = 0)
  | .fillWord => true
  | .holdTimeout c p n | .activeSetExchange c p n => coreOk c && p < 4 && n < 8
  | .pageWalk c _ _ | .shootdownAck _ c | .shootdownTimeout _ c | .enginePerform c | .mmaHalf c | .ttrunStep c
  | .vigilDrainTimeout c | .vigilScanComplete c _ _ | .powerGating c _ => coreOk c
  | .vigilBegin d | .thermalTrip d | .thermalStepRise d | .thermalStepFall d => d < 3
  | .flitReceive p _ | .linkRetrain p _ | .idleFlit p | .linkTimeout p | .portKeyRotation p => portOk p
  | .switchTimeout n => n < 1280
  | .collHeartbeat _ g => g < 16
  | .collContribution c => c.group < 16 && c.member < 256
  | .collResult r => r.group < 16
  | .groupTimeout _ g m => g < 16 && m < 256
  | .spareAdmission _ g m n => g < 16 && m < 256 && n < 1280
  | .errinjSlotUe _ n x p => n < 4096 && x < 512 && p < 4
  | .errinjMemUe _ n | .errinjPairFlip _ n | .errinjCeLog _ n => n < 4096
  | .errinjRowSoft _ n x => n < 4096 && x < 512
  | j =>
    match j.isa with
    | some (op, f) => illegalSub op f = none
    | none => true

end Sys2Proof
end

