-- ==== Sys2Proof/Decode.lean ====
section
/-! DEFINITION. Decoding, total on any word (R68, R69, R71, R72, R75 steps 4 to 9), and the encoder. -/
namespace Sys2Proof

/-- What a word decodes to: an instruction and its length in bytes, or the ILLEGAL subcode of R76. -/
inductive Decoded where
  | ok (i : Instr) (len : Nat)
  | illegal (sub : Nat) (len : Nat)
  deriving DecidableEq, Repr

/-- The length of an instruction from bits [1:0] of its first word (R68). -/
def lengthOf (w : BitVec 128) : Nat := 4 * (w.toNat % 4 + 1)

/-- Bits [h:l] of the word. -/
def wbits (w : BitVec 128) (l n : Nat) : BitVec n := w.extractLsb' l n

/-- The fields of R69 and the extra bits of R71, for a word of the given length. -/
def fieldsOf (w : BitVec 128) (len : Nat) : Fields where
  pg := wbits w 14 3
  pgn := w.getLsbD 17
  la := wbits w 10 4
  mod := wbits w 54 8
  vd := wbits w 18 9
  va := wbits w 27 9
  vb := wbits w 36 9
  vc := wbits w 45 9
  x := if len = 12 then .imm (wbits w 64 32) else if len = 16 then .ext (wbits w 64 64) else .none

/-- The constructor of a major opcode (R74). -/
def Instr.ofOp (op : Nat) (f : Fields) : Option Instr :=
  match op with
  | 0x01 => some (.nop f)
  | 0x02 => some (.bra f)
  | 0x03 => some (.brx f)
  | 0x04 => some (.call f)
  | 0x05 => some (.callx f)
  | 0x06 => some (.ret f)
  | 0x07 => some (.exit f)
  | 0x08 => some (.rcvarm f)
  | 0x09 => some (.rcvwait f)
  | 0x0A => some (.rcvdrop f)
  | 0x0B => some (.yield f)
  | 0x0C => some (.launch f)
  | 0x10 => some (.shq f)
  | 0x11 => some (.shassert f)
  | 0x12 => some (.shforce f)
  | 0x13 => some (.shnarrow f)
  | 0x14 => some (.plop f)
  | 0x15 => some (.p2v f)
  | 0x16 => some (.v2p f)
  | 0x18 => some (.iadd f)
  | 0x19 => some (.isub f)
  | 0x1A => some (.imul f)
  | 0x1B => some (.imulh f)
  | 0x1C => some (.imad f)
  | 0x1D => some (.imad64 f)
  | 0x1E => some (.imin f)
  | 0x1F => some (.imax f)
  | 0x20 => some (.iabs f)
  | 0x21 => some (.iaddc f)
  | 0x22 => some (.andL f)
  | 0x23 => some (.orL f)
  | 0x24 => some (.xorL f)
  | 0x25 => some (.andn f)
  | 0x26 => some (.shl f)
  | 0x27 => some (.shr f)
  | 0x28 => some (.sar f)
  | 0x29 => some (.rotl f)
  | 0x2A => some (.popc f)
  | 0x2B => some (.clz f)
  | 0x2C => some (.brev f)
  | 0x2D => some (.bfe f)
  | 0x2E => some (.bfi f)
  | 0x2F => some (.sel f)
  | 0x30 => some (.icmp f)
  | 0x31 => some (.iadd64 f)
  | 0x32 => some (.isub64 f)
  | 0x33 => some (.shf f)
  | 0x34 => some (.lea f)
  | 0x35 => some (.mov f)
  | 0x36 => some (.idot4 f)
  | 0x37 => some (.lop3 f)
  | 0x38 => some (.prmt f)
  | 0x39 => some (.sread f)
  | 0x40 => some (.fadd f)
  | 0x41 => some (.fsub f)
  | 0x42 => some (.fmul f)
  | 0x43 => some (.ffma f)
  | 0x44 => some (.fmin f)
  | 0x45 => some (.fmax f)
  | 0x46 => some (.fcmp f)
  | 0x47 => some (.frcp f)
  | 0x48 => some (.frsq f)
  | 0x49 => some (.fsqrt f)
  | 0x4A => some (.fexp2 f)
  | 0x4B => some (.flog2 f)
  | 0x4C => some (.fsin f)
  | 0x4D => some (.fcos f)
  | 0x4E => some (.ftanh f)
  | 0x4F => some (.frnd f)
  | 0x50 => some (.fclass f)
  | 0x51 => some (.padd2 f)
  | 0x52 => some (.pmul2 f)
  | 0x53 => some (.pfma2 f)
  | 0x54 => some (.pmin2 f)
  | 0x55 => some (.pmax2 f)
  | 0x56 => some (.cvt f)
  | 0x57 => some (.cvtp f)
  | 0x58 => some (.cvtu f)
  | 0x59 => some (.scale f)
  | 0x5A => some (.fdot2 f)
  | 0x5B => some (.qdec f)
  | 0x70 => some (.shfl f)
  | 0x71 => some (.vote f)
  | 0x72 => some (.redux f)
  | 0x73 => some (.matchL f)
  | 0x74 => some (.scan f)
  | 0x75 => some (.elect f)
  | 0x80 => some (.ld f)
  | 0x81 => some (.st f)
  | 0x82 => some (.lds f)
  | 0x83 => some (.sts f)
  | 0x84 => some (.ldx f)
  | 0x85 => some (.stx f)
  | 0x86 => some (.atom f)
  | 0x87 => some (.atomcas f)
  | 0x88 => some (.red f)
  | 0x89 => some (.pref f)
  | 0x8A => some (.fence f)
  | 0x8B => some (.sealR f)
  | 0x8C => some (.unsealR f)
  | 0x8D => some (.pin f)
  | 0x8E => some (.unpin f)
  | 0x8F => some (.ldc f)
  | 0x90 => some (.cctl f)
  | 0xA0 => some (.pbinit f)
  | 0xA1 => some (.pbarrive f)
  | 0xA2 => some (.pbwait f)
  | 0xA3 => some (.pbtest f)
  | 0xA4 => some (.bsync f)
  | 0xA5 => some (.sbar f)
  | 0xA6 => some (.evwait f)
  | 0xB0 => some (.cpy f)
  | 0xB1 => some (.cpyq f)
  | 0xB2 => some (.cpywait f)
  | 0xB3 => some (.coll f)
  | 0xB4 => some (.collq f)
  | 0xC0 => some (.osclaim f)
  | 0xC1 => some (.osrel f)
  | 0xC2 => some (.osload f)
  | 0xC3 => some (.osq f)
  | 0xC4 => some (.accgrow f)
  | 0xC5 => some (.accfree f)
  | 0xC6 => some (.acczero f)
  | 0xC7 => some (.accld f)
  | 0xC8 => some (.accst f)
  | 0xC9 => some (.accmv f)
  | 0xCA => some (.mma f)
  | 0xCB => some (.mmag f)
  | 0xCC => some (.mrfence f)
  | 0xCD => some (.mwait f)
  | 0xE0 => some (.bdset f)
  | 0xE1 => some (.bdget f)
  | 0xE2 => some (.ttc f)
  | 0xE3 => some (.ttrun f)
  | 0xE4 => some (.ttq f)
  | 0xE8 => some (.dload f)
  | 0xE9 => some (.dswitch f)
  | 0xEA => some (.dsync f)
  | 0xEB => some (.dread f)
  | 0xEC => some (.dpatch f)
  | 0xF0 => some (.trap f)
  | 0xF1 => some (.tret f)
  | 0xF2 => some (.csrr f)
  | 0xF3 => some (.csrw f)
  | 0xF4 => some (.sysq f)
  | 0xF5 => some (.region f)
  | 0xF6 => some (.brk f)
  | 0xF7 => some (.pcmp f)
  | _ => none

/-- Steps 4 to 9 of R75 on an F-format word: the reserved bits [63:62] belong to step 6. -/
def decodeF (w : BitVec 128) : Decoded :=
  let len := lengthOf w
  let f := fieldsOf w len
  let op := (wbits w 2 8).toNat
  match Instr.ofOp op f with
  | none => .illegal 0x0 len
  | some i =>
    match illegalSub op f with
    | some 0x0 => .illegal 0x0 len
    | some 0x1 => .illegal 0x1 len
    | some n => if wbits w 62 2 != 0 then .illegal 0x2 len else .illegal n len
    | none => if wbits w 62 2 != 0 then .illegal 0x2 len else .ok i len

/-- Decode a word whose bits beyond its length do not count (R68, R72). -/
def decodeWord (w : BitVec 128) : Decoded :=
  let len := lengthOf w
  if len = 4 then
    if wbits w 0 32 = 0 then .ok .fillWord 4 else .ok (.dx (wbits w 10 22) (wbits w 2 8)) 4
  else decodeF w

/-- The bytes of memory as one word, little-endian (R4), at most 16 of them. -/
def wordOfBytes : List Byte → BitVec 128
  | [] => 0
  | b :: bs => (wordOfBytes bs <<< 8) ||| b.setWidth 128

/-- Decode the instruction at the front of a list of bytes; `none` when the list is shorter than the
instruction. -/
def decodeBytes (bs : List Byte) : Option Decoded :=
  let w := wordOfBytes (bs.take 16)
  if bs.length < 4 || bs.length < lengthOf w then none else some (decodeWord w)

/-- The first two words of a major opcode with its fields (R69), as a number: each field at its place, and the length code. -/
def placeFields (op : Nat) (f : Fields) (code : Nat) : Nat :=
  code + 2 ^ 2 * op + 2 ^ 10 * f.la.toNat + 2 ^ 14 * f.pg.toNat + 2 ^ 17 * f.pgn.toNat + 2 ^ 18 * f.vd.toNat +
  2 ^ 27 * f.va.toNat + 2 ^ 36 * f.vb.toNat + 2 ^ 45 * f.vc.toNat + 2 ^ 54 * f.mod.toNat
/-- The word of a major opcode with its fields (R69, R71), and its length in bytes. -/
def encodeF (op : Nat) (f : Fields) : BitVec 128 × Nat :=
  match f.x with
  | .none => (BitVec.ofNat 128 (placeFields op f 1), 8)
  | .imm w => (BitVec.ofNat 128 (placeFields op f 2 + 2 ^ 64 * w.toNat), 12)
  | .ext w => (BitVec.ofNat 128 (placeFields op f 3 + 2 ^ 64 * w.toNat), 16)

/-- The encoder: the word of an instruction that has one, and its length in bytes. -/
def encode (i : Instr) : Option (BitVec 128 × Nat) :=
  match i with
  | .dx h e => some (BitVec.ofNat 128 (2 ^ 2 * e.toNat + 2 ^ 10 * h.toNat), 4)
  | .fillWord => some (0, 4)
  | j => j.isa.map fun p => encodeF p.1 p.2

/-- Byte `k` of a word (R4). -/
def byteOf (w : Nat) (k : Nat) : Byte := BitVec.ofNat 8 (w >>> (8 * k))

/-- The instruction the decoder reads from an instruction whose bits are `w`, bit 0 the least significant bit of
its first word and every bit above `nbits` zero. -/
def decodeTableWord (nbits w : Nat) : Option Instr :=
  let v := w % 2 ^ nbits
  match decodeBytes ((List.range 16).map (byteOf v)) with
  | some (.ok i _) => some i
  | _ => none

end Sys2Proof
end

