-- ==== Sys2Proof/Config.lean ====
section
/-! DEFINITION. What an implementation fixes and the values the manual leaves open. An opaque constant has no body:
nothing can evaluate it or prove a value of it. -/
namespace Sys2Proof.Config

/-- The free value number `i` of the draw `n` (R11): the value of a lane or a memory piece the manual calls
unpredictable. -/
opaque freeWord (n i : Nat) : Word

/-- The cycles of the main clock that pass in step `n` on a die (R132): time between steps is not fixed. -/
opaque elapsed (n die : Nat) : Nat

/-- Which of the two neighbours a faithful function returns (R197): `true` is the greater. `op` is the opcode. -/
opaque faithfulUp (op : Nat) (a : Word) : Bool

/-- The bytes a key blob unwraps to under the package's fused key-wrapping key, or nothing when the wrap check
fails (R369 KEY_BIND, R382). -/
opaque unwrapKey (blob : List Byte) : Option (BitVec 512)

/-- What a byte of memory reads as through a key under which it was not written (R215): by the key its unit stands under and
how often that has changed, the key of the reader, the address, the byte, and the 16 bytes of its block as they stand, which
AES-256-XTS enciphers together. -/
opaque garble (key changes reader pa : Nat) (x : Byte) (block : List Byte) : Byte

/-- A party catches up with every write made before a turn, or looks afresh at the pieces of accesses that start at an address: when
a write becomes visible to it is not fixed (R301, R308, R309). -/
opaque catchesUp (blk warp turn : Nat) : Bool
opaque looksAt (blk warp piece turn : Nat) : Bool
/-- How many of the last writes of a piece an engine read that no rule orders after them misses, in each 4-byte piece it reads (R249,
R304), by a draw. -/
opaque engineAge (n word piece : Nat) : Nat

/-- Which entry of a malformed contiguous group translates an address (R211), by a draw. -/
opaque groupPick (n va : Nat) : Nat

/-- The CRC-16 of a flit over its 28 payload bytes and bits [31:16] of its trailer (R360): the manual gives no polynomial. -/
opaque crc16 (x : BitVec 240) : BitVec 16

/-- The SEQ that the payload of an acknowledgement names, and the payload that names a SEQ (R361): the manual gives no
layout. -/
opaque ackSeq (payload : BitVec 224) : BitVec 12
opaque ackPayload (seq : BitVec 12) : BitVec 224

/-- The header flit of a packet (R360), by what it answers, the node it goes to, an address and a length: the manual gives no layout. -/
opaque packetHead (kind dest addr len : Nat) : BitVec 224
/-- AES-256-GCM of R365 under a port's key, by its generation: the nonce is the sender and its transmit counter, the additional
data CHDR, the logical address and the page generation. Sealing gives the ciphertext and the tag, opening the plaintext or
nothing when the tag fails. -/
opaque gcmSeal (key sender counter : Nat) (chdr : DWord) (addr gen : Nat) (plain : List Byte) : List Byte × BitVec 128
opaque gcmOpen (key sender counter : Nat) (chdr : DWord) (addr gen : Nat) (payload : List Byte) (tag : BitVec 128) : Option (List Byte)
/-- What the management core has configured: the ports inside the trust boundary (R365), the nodes listed as administrators (R367),
and the memory granted to the host node that commands the device queue (R369 KEY_BIND). -/
opaque portInside (port : Nat) : Bool
opaque administrator (node : Nat) : Bool
opaque hostGranted (addr n : Nat) : Bool

/-- What a donor of GROUP_JOIN holds on another node (R375): a byte of its membership table by offset (`space` 0), of its
journal by offset (1), or of its context's memory by virtual address (2). -/
opaque donorByte (node gid space addr : Nat) : Byte

/-- The verdict of a vigil (R343), by a draw and the core: nothing when every pattern passes, else the pattern that fails. -/
opaque scanVerdict (n core : Nat) : Option Nat

/-- VIGILCFG as the configuration of the management core's firmware has it (R387). -/
opaque firmwareVigil : DWord

/-- The feature level of a context (R325), and what fixes the packages of its load-store domain, of which there are 1 to 1,024
(R20). -/
opaque featureLevel : Nat
opaque levelOf (package : Nat) : Nat
opaque domainSize : Nat
def packages : Nat := domainSize % 1024 + 1

/-- Scratch bytes per core (R2, R20 SCRMAX). -/
def scratchBytes : Nat := 393216
/-- Rows of the row store per core (R2). -/
def rowsPerCore : Nat := 2048
/-- Resident warps per core and per pipe (R52). -/
def warpsPerCore : Nat := 48
def warpsPerPipe : Nat := 12
/-- Tiles, operand slots and larder slots per core (R2). -/
def tilesPerCore : Nat := 16
def slotsPerCore : Nat := 32
def larderSlots : Nat := 16
/-- Physical core positions: 96 on each of 3 dies (R2, R50). -/
def corePositions : Nat := 288
/-- Node table and credit table entries (R38). -/
def nodeEntries : Nat := 16384
def creditEntries : Nat := 4096
/-- Bytes of local memory of a package: 768 GiB (R2). -/
def localBytes : Nat := 768 * 2 ^ 30
/-- Lines of 128 bytes in a cache (R218): an L1, a home L2, an RDC, a slice of the base-die cache. -/
def cacheLines (level : Nat) : Nat := [1024, 524288, 196608, 1572864].getD level 0
/-- Entries of a core's TLB and of a die's last-level TLB (R212). -/
def coreTlb : Nat := 256
def dieTlb : Nat := 8192
/-- Contexts that can be resident (R2). -/
def residentContexts : Nat := 64
/-- Lanes of a warp (R96). -/
def lanes : Nat := 128
/-- Cycles of the 2.25 GHz main clock in a microsecond and a millisecond (R5). -/
def cyclesPerUs : Nat := 2250
def cyclesPerMs : Nat := 2250000

end Sys2Proof.Config
end

