-- ==== Sys2Proof/Machine/Lanes.lean ====
section
/-! DEFINITION. The 128 lanes of a warp (R96): rows, masks and lane-wise construction. -/
namespace Sys2Proof

/-- One value for each home lane. -/
abbrev Lanes (α : Type) := Vector α 128

/-- The value of lane `l`. -/
def Lanes.at {α : Type} [Inhabited α] (r : Lanes α) (l : Nat) : α := r.toList.getD l default
/-- Build the 128 lanes from a function of the lane. -/
def Lanes.of {α : Type} (f : Nat → α) : Lanes α := ⟨((List.range 128).map f).toArray, by simp⟩
/-- Apply a function of the index to each element, counting from `k`. -/
def mapFrom {α : Type} (f : Nat → α → α) (k : Nat) : List α → List α
  | [] => []
  | x :: xs => f k x :: mapFrom f (k + 1) xs
theorem length_mapFrom {α : Type} (f : Nat → α → α) (k : Nat) (xs : List α) : (mapFrom f k xs).length = xs.length := by
  induction xs generalizing k <;> simp_all [mapFrom]
/-- Change every lane. -/
def Lanes.mapIdx {α : Type} (r : Lanes α) (f : Nat → α → α) : Lanes α :=
  ⟨(mapFrom f 0 r.toList).toArray, by simp [length_mapFrom]⟩

/-- The number whose bit `i` is `f i`, for the `n` lowest bits. -/
def bitsOf (f : Nat → Bool) : Nat → Nat
  | 0 => 0
  | n + 1 => bitsOf f n + (if f n then 2 ^ n else 0)

/-- The mask of the lanes `f` holds for. -/
def maskOf (f : Nat → Bool) : Mask := BitVec.ofNat 128 (bitsOf f 128)
/-- The number whose bit `i` says whether element `i` of a list has a property. -/
def bitsOfList {α : Type} (p : α → Bool) : List α → Nat
  | [] => 0
  | x :: xs => 2 * bitsOfList p xs + (if p x then 1 else 0)
/-- The mask of the lanes whose value has a property. -/
def Lanes.mask {α : Type} (r : Lanes α) (p : α → Bool) : Mask := BitVec.ofNat 128 (bitsOfList p r.toList)
/-- Lane `l` is in the mask. -/
def Mask.has (m : Mask) (l : Nat) : Bool := m.getLsbD l
/-- The lanes of a mask, ascending. -/
def Mask.lanes (m : Mask) : List Nat := (List.range 128).filter m.has
/-- The lowest lane of a mask; 0 for the empty one. -/
def Mask.low (m : Mask) : Nat := (Mask.lanes m).headD 0
/-- The number of lanes in a mask. -/
def Mask.count (m : Mask) : Nat := (Mask.lanes m).length
/-- Every lane. -/
def Mask.all : Mask := BitVec.allOnes 128

/-- Bits `[lo + n - 1 : lo]` of a number. -/
def bits (x lo n : Nat) : Nat := (x >>> lo) % 2 ^ n
/-- Bit `i` of a number. -/
def bit (x i : Nat) : Bool := x.testBit i

/-- Little-endian bytes of a number (R4). -/
def bytesOf (x : Nat) : Nat → List Byte
  | 0 => []
  | n + 1 => BitVec.ofNat 8 x :: bytesOf (x / 256) n
/-- The number whose little-endian bytes these are. -/
def ofBytes : List Byte → Nat
  | [] => 0
  | b :: bs => b.toNat + 256 * ofBytes bs

/-- Change the element of a list at an index. -/
def setAt {α : Type} (xs : List α) (i : Nat) (f : α → α) : List α := xs.modify i f
/-- Sum of a list. -/
def sumBy {α : Type} (f : α → Nat) (xs : List α) : Nat := xs.foldl (fun a x => a + f x) 0

end Sys2Proof
end

