-- ==== Sys2Proof/Machine/Numbers.lean ====
section
/-! DEFINITION. Number formats (R176-R178), rounding (R183, R184), conversion (R187) and exact arithmetic with one
rounding (R190). Every operation computes an exact value and rounds it once. -/
namespace Sys2Proof.Machine

/-! ## Flags (R188) -/

/-- Flags of FPSTAT (R188). -/
abbrev FpFlags := BitVec 7
def flagNX : FpFlags := 0x01
def flagUF : FpFlags := 0x02
def flagOF : FpFlags := 0x04
def flagDZ : FpFlags := 0x08
def flagIV : FpFlags := 0x10
def flagSAT : FpFlags := 0x20
def flagNC : FpFlags := 0x40
/-- A flag under a condition. -/
def flagIf (c : Bool) (x : FpFlags) : FpFlags := if c then x else 0

/-! ## Formats -/

/-- A floating-point format (R176). -/
structure Fmt where
  ebits  : Nat
  mbits  : Nat
  bias   : Nat
  hasInf : Bool
  hasNan : Bool
  deriving DecidableEq, Repr

def fp32 : Fmt := ⟨8, 23, 127, true, true⟩
def fp16 : Fmt := ⟨5, 10, 15, true, true⟩
def bf16 : Fmt := ⟨8, 7, 127, true, true⟩
def e4m3 : Fmt := ⟨4, 3, 7, false, true⟩
def e5m2 : Fmt := ⟨5, 2, 15, true, true⟩
def e2m1 : Fmt := ⟨2, 1, 1, false, false⟩

/-- The bit of the sign. -/
def Fmt.signBit (k : Fmt) (neg : Bool) : Nat := if neg then 2 ^ (k.ebits + k.mbits) else 0
/-- The encoding of infinity, where the format has it. -/
def Fmt.infBits (k : Fmt) : Nat := (2 ^ k.ebits - 1) * 2 ^ k.mbits
/-- The encoding of the maximum finite value (R176). -/
def Fmt.maxBits (k : Fmt) : Nat :=
  if k.hasInf then k.infBits - 1 else if k.hasNan then 2 ^ (k.ebits + k.mbits) - 2 else 2 ^ (k.ebits + k.mbits) - 1
/-- The canonical NaN (R177). -/
def Fmt.nanBits (k : Fmt) : Nat :=
  if k.hasInf then k.infBits + 2 ^ (k.mbits - 1) else 2 ^ (k.ebits + k.mbits) - 1
/-- The exponent of the least significant bit of a subnormal. -/
def Fmt.emin (k : Fmt) : Int := 1 - (k.bias : Int) - (k.mbits : Int)

/-- The exact value of an encoding; a finite value is `(-1)^neg * m * 2^e`. -/
inductive Num where
  | nan (signalling : Bool)
  | inf (neg : Bool)
  | fin (neg : Bool) (m : Nat) (e : Int)
  deriving DecidableEq, Repr

/-- The value of an encoding (R176); with `flush` a subnormal is a zero of its sign. -/
def Fmt.decode (k : Fmt) (flush : Bool) (x : Nat) : Num :=
  let neg := bit x (k.ebits + k.mbits)
  let e := bits x k.mbits k.ebits
  let f := bits x 0 k.mbits
  let top := 2 ^ k.ebits - 1
  if k.hasInf && e = top then if f = 0 then .inf neg else .nan (!bit f (k.mbits - 1))
  else if !k.hasInf && k.hasNan && e = top && f = 2 ^ k.mbits - 1 then .nan false
  else if e = 0 then .fin neg (if flush then 0 else f) k.emin
  else .fin neg (f + 2 ^ k.mbits) (k.emin + (e - 1 : Nat))

/-- The value is a signalling NaN. -/
def Num.isSignalling : Num → Bool
  | .nan s => s
  | _ => false
def Num.isNan : Num → Bool
  | .nan _ => true
  | _ => false
def Num.isInf : Num → Bool
  | .inf _ => true
  | _ => false
def Num.isZero : Num → Bool
  | .fin _ m _ => m = 0
  | _ => false
/-- The sign. -/
def Num.neg : Num → Bool
  | .nan _ => false
  | .inf n => n
  | .fin n _ _ => n
/-- The value with its sign changed. -/
def Num.flip : Num → Num
  | .nan s => .nan s
  | .inf n => .inf (!n)
  | .fin n m e => .fin (!n) m e
/-- The magnitude of a finite value times `2 ^ k`, exact when `k` is at least minus its exponent. -/
def Num.scaled (x : Num) (k : Int) : Int :=
  match x with
  | .fin n m e => let y : Nat := m <<< (e + k).toNat; if n then -(y : Int) else y
  | _ => 0
/-- The exponent of a finite value. -/
def Num.exp : Num → Int
  | .fin _ _ e => e
  | _ => 0

/-! ## Rounding -/

/-- Round the magnitude `m * 2 ^ e` to a multiple of `2 ^ q` (R183, R184): the count and whether it differs. `q16` is
the stochastic draw of mode 4. -/
def roundAt (neg : Bool) (mode q16 m : Nat) (e q : Int) : Nat × Bool :=
  if e ≥ q then (m <<< (e - q).toNat, false)
  else
    let sh := (q - e).toNat
    let n := m >>> sh
    let rem := m % 2 ^ sh
    let up : Bool :=
      match mode with
      | 0 => 2 * rem > 2 ^ sh || (2 * rem = 2 ^ sh && n % 2 = 1)
      | 1 => false
      | 2 => neg && rem != 0
      | 3 => !neg && rem != 0
      | _ => (rem <<< 16) >>> sh + q16 ≥ 2 ^ 16
    (if up then n + 1 else n, rem != 0)
/-- The exponent of the last place of the magnitude `m * 2 ^ e` in a format (R183). -/
def Fmt.lastPlace (k : Fmt) (m : Nat) (e : Int) : Int := max (e + (Nat.log2 m : Int) - (k.mbits : Int)) k.emin
/-- `n * 2 ^ q` exceeds the maximum finite value. -/
def Fmt.exceeds (k : Fmt) (n : Nat) (q : Int) : Bool :=
  match k.decode false k.maxBits with
  | .fin _ m e => if q ≥ e then n <<< (q - e).toNat > m else n > m <<< (e - q).toNat
  | _ => false
/-- The encoding of a magnitude that is a multiple of its last place and does not exceed the maximum. -/
def Fmt.pack (k : Fmt) (n : Nat) (q : Int) : Nat := (q - k.emin).toNat * 2 ^ k.mbits + n
/-- `n * 2 ^ q` is below the minimum normal (R183). -/
def Fmt.isTiny (k : Fmt) (n : Nat) (q : Int) : Bool := q = k.emin && n < 2 ^ k.mbits

/-- What an overflow gives (R183, R187 step 6): the encoding and SAT. -/
def Fmt.overflow (k : Fmt) (neg : Bool) (mode : Nat) (sat : Bool) : Nat × FpFlags :=
  let s := k.signBit neg
  if !k.hasInf then (s + k.maxBits, flagSAT)
  else if mode = 1 || (mode = 2 && !neg) || (mode = 3 && neg) then (s + k.maxBits, 0)
  else if sat then (s + k.maxBits, flagSAT)
  else (s + k.infBits, 0)

/-- Round a finite value to a format (R183, R184, R187): the encoding and its flags. With `ftz` a subnormal result is
flushed (R190). -/
def Fmt.round (k : Fmt) (mode q16 : Nat) (sat ftz : Bool) (neg : Bool) (m : Nat) (e : Int) : Nat × FpFlags :=
  if m = 0 then (k.signBit neg, 0)
  else
    let q := k.lastPlace m e
    let (n, inexact) := roundAt neg mode q16 m e q
    if k.exceeds n q then
      let (x, fl) := k.overflow neg mode sat
      (x, fl ||| flagOF ||| flagNX)
    else
      let tiny := k.isTiny n q
      if tiny && ftz && n != 0 then (k.signBit neg, flagUF ||| flagNX)
      else (k.signBit neg + k.pack n q, flagIf inexact flagNX ||| flagIf (tiny && inexact) flagUF)

/-- Round any value to a format by the rules of a conversion (R187). -/
def Fmt.ofNum (k : Fmt) (mode q16 : Nat) (sat : Bool) (x : Num) : Nat × FpFlags :=
  match x with
  | .nan s => (k.nanBits, flagIf s flagIV ||| flagIf (!k.hasNan) flagNC)
  | .inf neg => if k.hasInf && !sat then (k.signBit neg + k.infBits, 0) else (k.signBit neg + k.maxBits, flagSAT)
  | .fin neg m e => k.round mode q16 sat false neg m e

/-! ## Integer formats and conversion types (R178, R202) -/

/-- A type of R202. -/
inductive CvType where
  | float (k : Fmt) (wide : Bool)
  | int (width : Nat) (signed : Bool)
  deriving DecidableEq, Repr

/-- The type with a code of R202. Codes 10-15 do not decode. -/
def cvType (code : Nat) : CvType :=
  match code with
  | 0 => .float fp32 true
  | 1 => .float fp16 true
  | 2 => .float bf16 true
  | 3 => .float e4m3 false
  | 4 => .float e5m2 false
  | 5 => .float e2m1 false
  | 6 => .int 32 true
  | 7 => .int 32 false
  | 8 => .int 8 true
  | _ => .int 4 true
/-- The width of a value of a type. -/
def CvType.width : CvType → Nat
  | .float k _ => 1 + k.ebits + k.mbits
  | .int w _ => w
/-- The exact value of a source (R187 step 1, R202). -/
def CvType.value (t : CvType) (x : Nat) : Num :=
  match t with
  | .float k wide => k.decode wide (bits x 0 t.width)
  | .int w signed =>
    let v := bits x 0 w
    if signed && bit v (w - 1) then .fin true (2 ^ w - v) 0 else .fin false v 0
/-- The least and the greatest integer of a type. -/
def intMin (w : Nat) (signed : Bool) : Int := if signed then -(2 ^ (w - 1) : Nat) else 0
def intMax (w : Nat) (signed : Bool) : Int := if signed then (2 ^ (w - 1) - 1 : Nat) else (2 ^ w - 1 : Nat)
/-- An integer in `w` bits. -/
def intBits (w : Nat) (x : Int) : Nat := (BitVec.ofInt w x).toNat
/-- Convert to an integer type (R187 steps 4-7). `flt` says that the source is a float. -/
def toInteger (w : Nat) (signed flt : Bool) (mode q16 : Nat) (x : Num) : Nat × FpFlags :=
  match x with
  | .nan _ => (intBits w (intMax w signed), flagIV ||| flagNC)
  | .inf neg => (intBits w (if neg then intMin w signed else intMax w signed), flagIV ||| flagSAT)
  | .fin neg m e =>
    let (n, inexact) := roundAt neg mode q16 m e 0
    let v : Int := if neg then -(n : Int) else n
    let c : Int := if v < intMin w signed then intMin w signed else if v > intMax w signed then intMax w signed else v
    (intBits w c, flagIf inexact flagNX ||| flagIf (c != v) (flagSAT ||| flagIf flt flagIV))
/-- Convert one value (R202): source type, destination type, control and stochastic draw. -/
def convert (src dst : CvType) (mode q16 : Nat) (sat : Bool) (x : Nat) : Nat × FpFlags :=
  let flt := match src with | .float _ _ => true | .int _ _ => false
  match dst with
  | .float k _ => k.ofNum mode q16 sat (src.value x)
  | .int w signed => toInteger w signed flt mode q16 (src.value x)

/-! ## Exact arithmetic with one rounding (R190, R194) -/

/-- The exact sum of finite values; an exact zero has the sign IEEE 754-2019 gives it: that of zeros of one sign, else
`+0` except under `.rd`. -/
def sumNums (mode : Nat) (xs : List Num) : Num :=
  let e := xs.foldl (fun a x => min a x.exp) 0
  let t : Int := xs.foldl (fun a x => a + x.scaled (-e)) 0
  if t = 0 then
    .fin (if xs.all fun x => x.isZero && x.neg then true
          else if xs.all fun x => x.isZero && !x.neg then false else mode = 2) 0 0
  else .fin (t < 0) t.natAbs e
/-- The sum of values that are not NaN; `none` for infinities of both signs. -/
def addNums (mode : Nat) (xs : List Num) : Option Num :=
  let pos := xs.any fun x => x.isInf && !x.neg
  let neg := xs.any fun x => x.isInf && x.neg
  if pos && neg then none else if pos then some (.inf false) else if neg then some (.inf true)
  else some (sumNums mode xs)
/-- The exact product of values that are not NaN; `none` for `0 × ∞`. -/
def mulNums (x y : Num) : Option Num :=
  match x, y with
  | .fin n m e, .fin p k f => some (.fin (n != p) (m * k) (e + f))
  | _, _ => if x.isZero || y.isZero then none else some (.inf (x.neg != y.neg))
/-- Round a result; nothing is an invalid operation (R188). -/
def Fmt.result (k : Fmt) (mode : Nat) (ftz : Bool) (x : Option Num) : Nat × FpFlags :=
  match x with
  | some (.fin neg m e) => k.round mode 0 false ftz neg m e
  | some (.inf neg) => (k.signBit neg + k.infBits, 0)
  | some (.nan _) => (k.nanBits, 0)
  | none => (k.nanBits, flagIV)
/-- The flag of signalling operands, and whether any operand is NaN. -/
def nanFlags (xs : List Num) : FpFlags := flagIf (xs.any Num.isSignalling) flagIV
def anyNan (xs : List Num) : Bool := xs.any Num.isNan

/-- The operations that round once. -/
inductive FpOp where
  | add
  | sub
  | mul
  | fma
  deriving DecidableEq, Repr

/-- FADD, FSUB, FMUL and FFMA in a format (R194, R200). -/
def Fmt.arith (k : Fmt) (op : FpOp) (mode : Nat) (ftz : Bool) (a b c : Nat) : Nat × FpFlags :=
  let x := k.decode ftz a
  let y := k.decode ftz b
  let z := k.decode ftz c
  match op with
  | .add => if anyNan [x, y] then (k.nanBits, nanFlags [x, y]) else k.result mode ftz (addNums mode [x, y])
  | .sub => if anyNan [x, y] then (k.nanBits, nanFlags [x, y]) else k.result mode ftz (addNums mode [x, y.flip])
  | .mul => if anyNan [x, y] then (k.nanBits, nanFlags [x, y]) else k.result mode ftz (mulNums x y)
  | .fma =>
    if anyNan [x, y] then (k.nanBits, nanFlags [x, y, z])
    else match mulNums x y with
      | none => (k.nanBits, flagIV)
      | some p => if z.isNan then (k.nanBits, nanFlags [z]) else k.result mode ftz (addNums mode [p, z])

/-- Order of values that are not NaN, with `-0` below `+0` (R195): `x` is at most `y`. -/
def numLe (x y : Num) : Bool :=
  match x, y with
  | .inf true, _ => true
  | _, .inf false => true
  | .inf false, _ => false
  | _, .inf true => false
  | _, _ =>
    let e := min x.exp y.exp
    x.scaled (-e) < y.scaled (-e) || (x.scaled (-e) = y.scaled (-e) && (x.neg || !y.neg))
/-- Equality of values that are not NaN (R196). -/
def numEq (x y : Num) : Bool :=
  match x, y with
  | .fin _ _ _, .fin _ _ _ => let e := min x.exp y.exp; x.scaled (-e) = y.scaled (-e)
  | .inf n, .inf p => n = p
  | _, _ => false
/-- An operand whose subnormals read as zeros with `.ftz`. -/
def Fmt.flush (k : Fmt) (ftz : Bool) (x : Nat) : Nat :=
  if ftz && bits x k.mbits k.ebits = 0 then k.signBit (bit x (k.ebits + k.mbits)) else x
/-- FMIN and FMAX in a format (R195, R200). -/
def Fmt.minmax (k : Fmt) (greater nan ftz : Bool) (a b : Nat) : Nat × FpFlags :=
  let a := k.flush ftz a
  let b := k.flush ftz b
  let x := k.decode false a
  let y := k.decode false b
  let r :=
    if (x.isNan && y.isNan) || (nan && (x.isNan || y.isNan)) then k.nanBits
    else if x.isNan then b
    else if y.isNan then a
    else if numLe x y != greater then a else b
  (r, nanFlags [x, y])
/-- FCMP's condition (R196): its truth and flags. -/
def fcmpWord (cond : Nat) (ftz : Bool) (a b : Nat) : Bool × FpFlags :=
  let x := fp32.decode ftz a
  let y := fp32.decode ftz b
  let un := x.isNan || y.isNan
  let le := numLe x y || numEq x y
  let ge := numLe y x || numEq x y
  let ord (q : Bool) : Bool × FpFlags := (!un && q, flagIf un flagIV ||| nanFlags [x, y])
  match cond with
  | 0 => (!un && numEq x y, nanFlags [x, y])
  | 1 => (un || !numEq x y, nanFlags [x, y])
  | 2 => ord (!ge)
  | 3 => ord le
  | 4 => ord (!le)
  | 5 => ord ge
  | 6 => (!un, nanFlags [x, y])
  | _ => (un, nanFlags [x, y])
/-- FDOT2 (R201): FP32 plus the exact dot product of two packed pairs. With a NaN among the operands no sum is made: infinity minus infinity
raises no IV beside it. DESIGN CHOICE (log 165). -/
def fdot2Word (k : Fmt) (mode : Nat) (ftz : Bool) (a b c : Nat) : Nat × FpFlags :=
  let h (x i : Nat) : Num := k.decode ftz (bits x (16 * i) 16)
  let z := fp32.decode ftz c
  let ops := [h a 0, h a 1, h b 0, h b 1]
  let prod (i : Nat) : Option Num := if anyNan [h a i, h b i] then some (.nan false) else mulNums (h a i) (h b i)
  match prod 0, prod 1 with
  | some p, some q =>
    if anyNan [p, q, z] then (fp32.nanBits, nanFlags (z :: ops)) else fp32.result mode ftz (addNums mode [p, q, z])
  | _, _ => (fp32.nanBits, flagIV)
/-- FRND (R199). -/
def frndWord (mode : Nat) (ftz : Bool) (a : Nat) : Nat × FpFlags :=
  match fp32.decode ftz a with
  | .nan s => (fp32.nanBits, flagIf s flagIV)
  | .inf neg => (fp32.signBit neg + fp32.infBits, 0)
  | .fin neg m e =>
    let n := (roundAt neg mode 0 m e 0).1
    if e ≥ 0 then ((fp32.round 0 0 false false neg m e).1, 0) else ((fp32.round 0 0 false false neg n 0).1, 0)
/-- FCLASS (R199). -/
def fclassWord (a : Nat) : Nat :=
  match fp32.decode false a with
  | .nan true => 2 ^ 8
  | .nan false => 2 ^ 9
  | .inf neg => if neg then 2 ^ 0 else 2 ^ 7
  | .fin neg m _ =>
    if m = 0 then if neg then 2 ^ 3 else 2 ^ 4
    else if bits a 23 8 = 0 then if neg then 2 ^ 2 else 2 ^ 5
    else if neg then 2 ^ 1 else 2 ^ 6
/-- SCALE (R204). -/
def scaleWord (mode : Nat) (inv : Bool) (a e : Nat) : Nat × FpFlags :=
  if e = 255 then (fp32.nanBits, flagIV)
  else match fp32.decode true a with
    | .fin neg m x => fp32.round mode 0 false false neg m (x + (if inv then 127 - (e : Int) else (e : Int) - 127))
    | x => fp32.ofNum mode 0 false x

/-! ## LQ2 (R180) -/

/-- Element `j` of an LQ2 index before scaling, in quarters: its sign and `2 m + h` (R180). -/
def lq2Element (idx c j : Nat) : Bool × Nat :=
  let sign (i : Nat) : Bool := bit idx (i + 1)
  let s := if j < 7 then sign j else (List.range 7).foldl (fun p i => p != sign i) false
  let n := 2 * bits c (4 * j) 4 + idx % 2
  (s && n != 0, n)
/-- Element `j` of an index scaled to BF16 (R205): RNE, overflow to infinity, NaN for the NaN scale. -/
def lq2Scaled (idx c scale j : Nat) : Nat × FpFlags :=
  if scale = 255 then (bf16.nanBits, flagIV)
  else
    let x := lq2Element idx c j
    bf16.round 0 0 false false x.1 x.2 ((scale : Int) - 129)

/-! ## Stochastic state (R185) -/

/-- One step of the stochastic state. -/
def srStep (x : Word) : Word := if x.getLsbD 0 then (x >>> 1) ^^^ 0x80200003 else x >>> 1
/-- Sixteen steps. -/
def srNext (x : Word) : Word := (List.range 16).foldl (fun x _ => srStep x) x
/-- The 16 bits a draw gives: of the state after the steps. -/
def srDraw (x : Word) : Nat := (srNext x).toNat % 2 ^ 16
/-- The seed of a thread at the start of its warp. -/
def srSeed (seed : Word) (block warp lane : Nat) : Word :=
  let x := seed ^^^ BitVec.ofNat 32 (((48 * block + warp) * 128 + lane + 1) * 0x9E3779B9)
  if x = 0 then 1 else x

end Sys2Proof.Machine
end

