-- ==== Sys2Proof/Machine/Elementary.lean ====
section
/-! DEFINITION. The unary functions of R197 and R198. FRCP and FSQRT are rounded from exact values; a faithful function is
enclosed in fixed point of 320 places, and `Config.faithfulUp` chooses between the two neighbours. -/
namespace Sys2Proof.Machine

/-- One in fixed point. -/
def fxOne : Nat := 2 ^ 320
/-- π in fixed point, truncated. -/
def fxPi : Nat := 6710401180212168915155840974220003240804194089427148950727106424351713218671805380099500388914039
/-- The natural logarithm of 2 in fixed point, truncated. -/
def fxLn2 : Nat := 1480553391661173448385607439722553250922680800745876974795605978609098082859138712941075737848984

/-- The partial sum of a series from its first term and the rule for the next. -/
def seriesSum (next : Nat → Int → Int) : Nat → Nat → Int → Int
  | 0, _, _ => 0
  | n + 1, k, t => t + seriesSum next n (k + 1) (next k t)
/-- sin x (`alt`) or sinh x. -/
def fxSin (alt : Bool) (x : Nat) : Int :=
  let x2 : Int := (x * x / fxOne : Nat)
  seriesSum (fun k t => (if alt then -t else t) * x2 / (fxOne * ((2 * k + 2) * (2 * k + 3)) : Nat)) 60 0 x
/-- cos x (`alt`) or cosh x. -/
def fxCos (alt : Bool) (x : Nat) : Int :=
  let x2 : Int := (x * x / fxOne : Nat)
  seriesSum (fun k t => (if alt then -t else t) * x2 / (fxOne * ((2 * k + 1) * (2 * k + 2)) : Nat)) 60 0 fxOne
/-- e to the x. -/
def fxExp (x : Nat) : Int := seriesSum (fun k t => t * x / (fxOne * (k + 1) : Nat)) 80 0 fxOne
/-- The sum of `p / (2 k + 1)` over the powers `p` of z. -/
def fxAtanhFrom (z2 : Int) : Nat → Nat → Int → Int
  | 0, _, _ => 0
  | n + 1, k, p => p / (2 * k + 1 : Nat) + fxAtanhFrom z2 n (k + 1) (p * z2 / fxOne)
/-- The inverse hyperbolic tangent. -/
def fxAtanh (z : Int) : Int := fxAtanhFrom (z * z / fxOne) 60 0 z
/-- A bound on the error of a result. -/
def fxErr (x : Int) : Nat := 1024 + x.natAbs / 2 ^ 150
/-- The integer square root, from bit `n` down. -/
def isqrtFrom (x : Nat) : Nat → Nat → Nat
  | 0, r => r
  | n + 1, r => isqrtFrom x n (if (r + 2 ^ n) * (r + 2 ^ n) ≤ x then r + 2 ^ n else r)
/-- The integer square root of a number below `2 ^ 640`. -/
def isqrt (x : Nat) : Nat := isqrtFrom x 320 0

/-- A faithful result (R197): the exact magnitude lies from `lo * 2 ^ e` to `hi * 2 ^ e` and is not representable. -/
def faithful (up ftz neg : Bool) (lo hi : Nat) (e : Int) : Nat × FpFlags :=
  let q := fp32.lastPlace lo e
  let n := (roundAt neg 1 0 lo e q).1
  let inside := if e ≥ q then hi <<< (e - q).toNat ≤ n + 1 else hi ≤ (n + 1) <<< (q - e).toNat
  let n := if inside && up = neg then n else n + 1
  if fp32.exceeds n q then (fp32.signBit neg + fp32.infBits, flagOF ||| flagNX)
  else
    let tiny := fp32.isTiny n q
    if tiny && ftz then (fp32.signBit neg, flagUF ||| flagNX)
    else (fp32.signBit neg + fp32.pack n q, flagNX ||| flagIf tiny flagUF)

/-- The exact value `± m * 2 ^ e` as FP32. -/
def fpExact (ftz neg : Bool) (m : Nat) (e : Int) : Nat × FpFlags := fp32.round 0 0 false ftz neg m e
/-- FP32 constants. -/
def fpInf (neg : Bool) : Nat := fp32.signBit neg + fp32.infBits
def fpOne (neg : Bool) : Nat := fp32.signBit neg + 0x3F800000
def fpInvalid : Nat × FpFlags := (fp32.nanBits, flagIV)

/-- 1/a under a mode. -/
def frcpNum (mode : Nat) (ftz neg : Bool) (m : Nat) (e : Int) : Nat × FpFlags :=
  let k := Nat.log2 m + 61
  let n := 2 ^ k / m
  fp32.round mode 0 false ftz neg (2 * n + (if n * m = 2 ^ k then 0 else 1)) (-e - (k : Int) - 1)
/-- √a under a mode. -/
def fsqrtNum (mode : Nat) (ftz : Bool) (m : Nat) (e : Int) : Nat × FpFlags :=
  let (m, e) := if e % 2 = 0 then (m, e) else (2 * m, e - 1)
  let r := isqrt (m * 2 ^ 80)
  fp32.round mode 0 false ftz false (2 * r + (if r * r = m * 2 ^ 80 then 0 else 1)) (e / 2 - 41)
/-- 1/√a. -/
def frsqNum (up ftz : Bool) (m : Nat) (e : Int) : Nat × FpFlags :=
  let (m, e) := if e % 2 = 0 then (m, e) else (2 * m, e - 1)
  let r := isqrt (2 ^ 320 / m)
  if r * r * m = 2 ^ 320 then fpExact ftz false r (-160 - e / 2) else faithful up ftz false r (r + 1) (-160 - e / 2)
/-- 2 to the a: whole part and fraction, then the fraction's power. -/
def fexp2Num (up ftz neg : Bool) (m : Nat) (e : Int) : Nat × FpFlags :=
  let a := m <<< (320 + e).toNat
  let f := a % fxOne
  let i : Int := if neg then -((a / fxOne : Nat) : Int) - (if f = 0 then 0 else 1) else ((a / fxOne : Nat) : Int)
  let i : Int := if i > 400 then 400 else if i < -400 then -400 else i
  if f = 0 then
    if i ≥ -149 then fpExact ftz false 1 i else faithful up ftz false fxOne fxOne (i - 320)
  else
    let x := fxExp ((if neg then fxOne - f else f) * fxLn2 / fxOne)
    faithful up ftz false (max (x.toNat - fxErr x) fxOne) (min (x.toNat + fxErr x) (2 * fxOne)) (i - 320)
/-- log₂ a. -/
def flog2Num (up ftz : Bool) (m : Nat) (e : Int) : Nat × FpFlags :=
  let l := Nat.log2 m
  let k : Int := e + (l : Int)
  if m = 2 ^ l then fpExact ftz (k < 0) k.natAbs 0
  else
    let x := m * 2 ^ (320 - l)
    let high := 2 * x ≥ 3 * fxOne
    let y : Int := if high then (x : Int) / 2 else x
    let k := if high then k + 1 else k
    let ln := 2 * fxAtanh ((y - fxOne) * fxOne / (y + fxOne))
    let t := k * fxOne + ln * fxOne / fxLn2
    faithful up ftz (t < 0) (t.natAbs - fxErr t) (t.natAbs + fxErr t) (-320)
/-- The sine of π times a number of half-turns in fixed point, below 2: nothing for a zero. -/
def sinPi (up ftz flip : Bool) (r : Nat) : Option (Nat × FpFlags) :=
  let neg := (r ≥ fxOne) != flip
  let r1 := r % fxOne
  let r2 := if 2 * r1 > fxOne then fxOne - r1 else r1
  if r2 = 0 then none
  else if 2 * r2 = fxOne then some (fpOne neg, 0)
  else
    let x := if 4 * r2 ≤ fxOne then fxSin true (fxPi * r2 / fxOne) else fxCos true (fxPi * (fxOne / 2 - r2) / fxOne)
    some (faithful (up) ftz neg (x.toNat - fxErr x) (min (x.toNat + fxErr x) fxOne) (-320))
/-- sin(π a). -/
def fsinNum (up ftz neg : Bool) (m : Nat) (e : Int) : Nat × FpFlags :=
  (sinPi up ftz neg (m <<< (320 + e).toNat % (2 * fxOne))).getD (fp32.signBit neg, 0)
/-- cos(π a). -/
def fcosNum (up ftz : Bool) (m : Nat) (e : Int) : Nat × FpFlags :=
  (sinPi up ftz false ((m <<< (320 + e).toNat + fxOne / 2) % (2 * fxOne))).getD (0, 0)
/-- tanh a. -/
def ftanhNum (up ftz neg : Bool) (m : Nat) (e : Int) : Nat × FpFlags :=
  let a := m <<< (320 + e).toNat
  if a ≥ 16 * fxOne then faithful up ftz neg (fxOne - 2 ^ 290) fxOne (-320)
  else
    let sh := (fxSin false a).toNat
    let ch := (fxCos false a).toNat
    let es := fxErr sh
    let ec := fxErr ch
    faithful up ftz neg ((sh - es) * fxOne / (ch + ec)) (min (min a fxOne) ((sh + es) * fxOne / (ch - ec))) (-320)

/-- The unary float instructions. -/
inductive Unary where
  | rcp
  | rsq
  | sqrt
  | exp2
  | log2
  | sin
  | cos
  | tanh
  deriving DecidableEq, Repr

/-- The result of a unary function (R197, R198). `op` is its opcode. -/
def Unary.apply (u : Unary) (op mode : Nat) (ftz : Bool) (a : Nat) : Nat × FpFlags :=
  let up := Config.faithfulUp op (BitVec.ofNat 32 a)
  match fp32.decode ftz a with
  | .nan s => (fp32.nanBits, flagIf s flagIV)
  | .inf neg =>
    match u with
    | .rcp => (fp32.signBit neg, 0)
    | .rsq => if neg then fpInvalid else (0, 0)
    | .sqrt => if neg then fpInvalid else (fpInf false, 0)
    | .exp2 => if neg then (0, 0) else (fpInf false, 0)
    | .log2 => if neg then fpInvalid else (fpInf false, 0)
    | .sin => fpInvalid
    | .cos => fpInvalid
    | .tanh => (fpOne neg, 0)
  | .fin neg m e =>
    if m = 0 then
      match u with
      | .rcp => (fpInf neg, flagDZ)
      | .rsq => (fpInf neg, flagDZ)
      | .sqrt => (fp32.signBit neg, 0)
      | .exp2 => (fpOne false, 0)
      | .log2 => (fpInf true, flagDZ)
      | .sin => (fp32.signBit neg, 0)
      | .cos => (fpOne false, 0)
      | .tanh => (fp32.signBit neg, 0)
    else
      match u with
      | .rcp => frcpNum mode ftz neg m e
      | .rsq => if neg then fpInvalid else frsqNum up ftz m e
      | .sqrt => if neg then fpInvalid else fsqrtNum mode ftz m e
      | .exp2 => fexp2Num up ftz neg m e
      | .log2 => if neg then fpInvalid else flog2Num up ftz m e
      | .sin => fsinNum up ftz neg m e
      | .cos => fcosNum up ftz m e
      | .tanh => ftanhNum up ftz neg m e

end Sys2Proof.Machine
end

