-- ==== Sys2Proof/Machine/Crc.lean ====
section
/-! DEFINITION. CRC-32C (R15, R32, R79, R350). -/
namespace Sys2Proof

/-- One bit of the reflected CRC-32C division. -/
def crcStep (c : Nat) : Nat := (c / 2) ^^^ (c % 2 * 0x82F63B78)
/-- One byte. -/
def crcByte (c : Nat) (b : Byte) : Nat :=
  crcStep (crcStep (crcStep (crcStep (crcStep (crcStep (crcStep (crcStep (c ^^^ b.toNat))))))))
/-- CRC-32C of bytes, continuing from the CRC `c` of what came before. -/
def crc32cFrom (c : Nat) (bs : List Byte) : Nat := bs.foldl crcByte (c ^^^ 0xFFFFFFFF) ^^^ 0xFFFFFFFF
/-- CRC-32C of bytes. -/
def crc32c (bs : List Byte) : Nat := crc32cFrom 0 bs

end Sys2Proof
end

