-- ==== Sys2Proof/Machine/Tab.lean ====
section
/-! DEFINITION. A sparse table keyed by numbers, in one canonical form: keys strictly rising, and no entry equal to
what an unlisted key reads as. Memory, scratch, registers and tile cells are held so. -/
namespace Sys2Proof

/-- A sparse table. -/
abbrev Tab (α : Type) := List (Nat × α)

namespace Tab
variable {α : Type} [DecidableEq α]

/-- Read key `n`; an unlisted key reads as `d`. -/
def get (d : α) : Tab α → Nat → α
  | [], _ => d
  | (k, v) :: t, n => if n = k then v else if n < k then d else get d t n

/-- Write `v` at key `n`; writing `d` removes the entry. -/
def set (d : α) : Tab α → Nat → α → Tab α
  | [], n, v => if v = d then [] else [(n, v)]
  | (k, x) :: t, n, v =>
    if n < k then (if v = d then (k, x) :: t else (n, v) :: (k, x) :: t)
    else if n = k then (if v = d then t else (n, v) :: t)
    else (k, x) :: set d t n v

/-- Every key is at least `lo`, the keys rise strictly and no entry is the default. -/
def wfFrom (d : α) : Nat → Tab α → Bool
  | _, [] => true
  | lo, (k, v) :: t => decide (lo ≤ k) && decide (v ≠ d) && wfFrom d (k + 1) t

/-- The canonical form. -/
def wf (d : α) (t : Tab α) : Bool := wfFrom d 0 t

/-- A table without its first entry, when that is key `n`. -/
def skip (n : Nat) : Tab α → Tab α
  | [] => []
  | (k, x) :: t => if k = n then t else (k, x) :: t
/-- Write consecutive keys from `n` in one pass over the table; `acc` holds, last first, what stands before the rest of it. -/
def setAcc (d : α) : List α → Nat → Tab α → Tab α → Tab α
  | [], _, t, acc => acc.reverse ++ t
  | v :: vs, n, t, acc =>
    let front := (t.takeWhile fun p => p.1 < n).reverse ++ acc
    setAcc d vs (n + 1) (skip n (t.dropWhile fun p => p.1 < n)) (if v = d then front else (n, v) :: front)
/-- Write consecutive keys. -/
def setMany (d : α) (t : Tab α) (n : Nat) (vs : List α) : Tab α := setAcc d vs n t []
/-- Read `len` consecutive keys from `n` in one pass; `acc` holds the values read before, last first. -/
def getAcc (d : α) : Nat → Nat → Tab α → List α → List α
  | 0, _, _, acc => acc.reverse
  | len + 1, n, t, acc =>
    let rest := t.dropWhile fun p => p.1 < n
    getAcc d len (n + 1) rest (get d rest n :: acc)
/-- Read consecutive keys. -/
def getMany (d : α) (t : Tab α) (n len : Nat) : List α := getAcc d len n t []

end Tab
end Sys2Proof
end

