-- ==== Sys2Proof/Machine/State.lean ====
section
/-! DEFINITION. The state of the machine: every piece of state the manual gives it, as plain data (INVENTORY.md lists
each with its rule and reset value), the reasons a step stops, and the state after reset. -/
namespace Sys2Proof.Machine

/-! ## Registers, threads and warps -/

/-- The value of a register of a warp by its shape (R102). -/
inductive RegVal where
  /-- One value for every lane. -/
  | u (x : Word)
  /-- Base and stride: lane `l` holds `b + l * s`. The stride is never 0. -/
  | a (b s : Word)
  /-- One row: a value for each lane. -/
  | v (r : Row)
  deriving DecidableEq, Repr

/-- A register: its value, whether a V value stands in the cellar instead of a row (R110, R111), and when it was last
written (R110). -/
structure Reg where
  val     : RegVal
  spilled : Bool
  stamp   : Nat
  deriving DecidableEq, Repr

/-- A register at warp start: U with value 0 (R18, R112). -/
def Reg.zero : Reg := ⟨.u 0, false, 0⟩

/-- Why a thread waits (R96). -/
inductive Wait where
  /-- At reconvergence entry `k` (R158); `len` is the fetched length of the waiting instruction, here and below. -/
  | rcv (k len : Nat)
  /-- At a warp-wide operation (R161). -/
  | meet
  /-- At a BSYNC of an id (R287). -/
  | bsync (id len : Nat)
  /-- At a ring barrier (R288). -/
  | sbar (scope id len : Nat)
  /-- For the shoot-down of a SEAL to complete (R237). -/
  | shoot (id len : Nat)
  /-- For a TTRUN to complete (R271). -/
  | chain (len : Nat)
  /-- For the grant of ACCGROW `.wait` (R245). -/
  | grant (len : Nat)
  /-- At an EVWAIT (R289). -/
  | evwait
  /-- At a PBWAIT whose phase has not completed (R286). -/
  | pb
  /-- At a CPYWAIT whose copy runs (R295). -/
  | copy
  /-- Released from a PBWAIT that found POISON set, or from a CPYWAIT whose copy failed: it has this trap to take, with its cause and TRAPADDR
  (R286, R295). -/
  | trapping (cause addr : Nat)
  /-- Its instruction is tested again when the group is next offered. -/
  | retry
  /-- Holds at its PC with a pending trap (R312). -/
  | trap
  deriving DecidableEq, Repr

/-- Why a thread is parked (R96). -/
inductive Park where
  /-- Split off by a serviceable page fault with this token (R214). -/
  | fault (token : Nat)
  /-- Removed from TRAPMASK by a handler (R314). -/
  | tret
  deriving DecidableEq, Repr

/-- The state of a thread (R96). -/
inductive Status where
  | eligible
  | waiting (w : Wait)
  | parked (p : Park)
  | exited
  deriving DecidableEq, Repr, Inhabited

/-- A thread of a warp (R96). -/
structure Thread where
  pc      : BitVec 57
  status  : Status
  /-- `p0`-`p6` (R113). -/
  preds   : BitVec 7
  /-- Dictionary stale bit (R83). -/
  stale   : Bool
  /-- A handler thread (R312). -/
  handler : Bool
  /-- Stochastic state (R185). -/
  sr      : Word
  /-- Its next instruction is exempt from breakpoint matches (R317). -/
  exempt  : Bool
  deriving DecidableEq, Repr, Inhabited

/-- Trap causes are numbers of R310. A trap record or report (R311, R312). -/
structure TrapRec where
  cause : BitVec 8
  pc    : BitVec 57
  word  : BitVec 128
  addr  : DWord
  mask  : Mask
  deriving DecidableEq, Repr

/-- The writes a long-latency instruction has still to make (R128, R129). -/
structure Pending where
  /-- Destinations and the values they take. -/
  dests : List (Nat × RegVal)
  /-- The enabled threads that issued it. -/
  lanes : Mask
  /-- Every thread that issued it, and how many more instructions of each lie in its window (R129). -/
  issuers : Mask
  left  : Lanes Nat
  /-- Its class: swapped, or held (R130). -/
  swap  : Bool
  /-- FPSTAT flags its results set (R189). -/
  flags : BitVec 7
  /-- It is the instruction that issues now. -/
  fresh : Bool
  deriving DecidableEq, Repr

/-- A write of a context register by a warp (R321): its number, what stood in it before and after, who wrote it, when, and when its writer
first made a release at `.pod` after it. -/
structure CsrWrite where
  csr  : Nat
  old  : DWord
  new  : DWord
  blk  : Nat
  warp : Nat
  turn : Nat
  out  : Option Nat
  deriving DecidableEq, Repr

/-- A warp-wide meeting (R161). -/
structure Meet where
  op      : Nat
  f       : Fields
  pc      : BitVec 57
  len     : Nat
  arrived : Mask
  /-- M(t) of each arrived lane (R160), less the lanes that have passed with the guard false since (R162). -/
  members : Lanes Mask
  /-- For each lane, those that arrived, completed and moved on before it (R161). -/
  gone    : Lanes Mask
  deriving DecidableEq, Repr

/-- What REGION snapshots (R322). -/
structure Snapshot where
  sr    : Lanes Word
  preds : Lanes (BitVec 7)
  rcv   : List Mask
  deriving DecidableEq, Repr

/-- What a warp has done since its restart point, by which a misplaced REGION is known (R322): registers it has read before it wrote them,
written in every live lane, and written; ranges of memory it has read before it wrote them, and written, each by 0 for generic memory or the
block of a scratch window, its address and its length; and whether it has overwritten what it had read. -/
structure RegionTrace where
  exposed : List Nat
  covered : List Nat
  wrote   : List Nat
  memRead : List (Nat × Nat × Nat)
  memWrote : List (Nat × Nat × Nat)
  broken  : Bool
  deriving DecidableEq, Repr

/-- Nothing yet. -/
def RegionTrace.empty : RegionTrace := ⟨[], [], [], [], [], false⟩

/-- A warp (R96): its threads, registers and warp-scope registers. -/
structure Warp where
  /-- %warp (R18). -/
  idx       : Nat
  role      : Nat
  vmax      : Nat
  /-- The pipe it stays on (R56). -/
  pipe      : Nat
  /-- Its slot in the slot set of its core (R111). -/
  slot      : Nat
  threads   : Lanes Thread
  /-- `v0`-`v383`; an unlisted register is `Reg.zero`. -/
  regs      : Tab Reg
  /-- Reconvergence entries 0 to DEPTH-1 (R155). -/
  rcv       : List Mask
  pending   : List Pending
  meets     : List Meet
  /-- FPSTAT flags (R188). -/
  fpstat    : BitVec 7
  trap      : TrapRec
  trapBase  : DWord
  entryMask : Mask
  /-- Pending traps in order of raising, each with its group (R312). -/
  trapQueue : List (TrapRec × Mask)
  progIdx   : DWord
  regionPc  : BitVec 57
  regionCnt : DWord
  rvalid    : Bool
  /-- It has been restarted and has issued no REGION since (R357). -/
  restarted : Bool
  snapshot  : Option Snapshot
  trace     : RegionTrace
  /-- The turn of its last acquire, from which on it sees every write made before, and of its last read (R297, R298). -/
  synced    : Nat
  readAt    : Nat
  /-- The turn of its last acquire at `.pod` (R321). -/
  podAt     : Nat
  deriving DecidableEq, Repr

/-! ## Kernels, code objects and versions -/

/-- A role descriptor (R17). -/
structure Role where
  entry : Nat
  kind  : Nat
  vmax  : Nat
  warps : Nat
  deriving DecidableEq, Repr

/-- A kernel header as checked at load (R15). -/
structure Header where
  stepping : Nat
  codeSize : Nat
  flags    : Nat
  scratch  : Nat
  depth    : Nat
  gang     : Nat
  accMin   : Nat
  accMax   : Nat
  slots    : Nat
  roles    : List Role
  /-- Offsets of the dictionary images. -/
  dicts    : List Nat
  consts   : List Nat
  cbOff    : Nat
  cbSize   : Nat
  deriving DecidableEq, Repr

/-- FLAGS bits (R16). -/
def Header.gather (h : Header) : Bool := bit h.flags 0
def Header.paired (h : Header) : Bool := bit h.flags 1
def Header.retain (h : Header) : Bool := bit h.flags 2
def Header.preemptOk (h : Header) : Bool := bit h.flags 3

/-- A code version (R21): its tag, its header, its constant bank 0 (R19) and the bytes, by offset in the object, of
the pages an update changed. The bytes of every other page stand in memory at the object's address. -/
structure Version where
  tag    : Nat
  header : Header
  bank0  : List Byte
  /-- Offsets of the bytes of bank 0 that came poisoned (R333). -/
  bad0   : List Nat
  /-- Changed pages: page number within the object and its 4,096 bytes. -/
  pages  : List (Nat × List Byte)
  deriving DecidableEq, Repr

/-- A code object loaded in a context (R14): its address, its size in bytes, the tag of its current version and its
retained versions (R23). -/
structure CodeObj where
  addr     : Nat
  size     : Nat
  current  : Nat
  versions : List Version
  deriving DecidableEq, Repr

/-- A dictionary of 256 entries of 192 bits (R77). Undefined entries are unlisted. -/
abbrev Dict := Tab (BitVec 192)

/-- A slot of the larder (R81). -/
structure LarderSlot where
  ctx      : Nat
  obj      : Nat
  tag      : Nat
  /-- The image index it was filled from. -/
  image    : Option Nat
  modified : Bool
  /-- Blocks bound to it. -/
  count    : Nat
  entries  : Dict
  /-- An uncorrectable error lies in it (R333). -/
  poisoned : Bool
  deriving DecidableEq, Repr

/-! ## Launch queues, nodes and credits -/

/-- A launch record as read (R32). -/
structure Record where
  seq      : Nat
  kind     : Nat
  ctrl     : Nat
  preds    : Nat
  nsucc    : Nat
  nxform   : Nat
  nodeid   : Nat
  nsuccx   : Nat
  /-- OBJ or SRC. -/
  src      : Nat
  /-- ARGPTR or DST. -/
  dst      : Nat
  /-- BLOCKS or LENGTH. -/
  blocks   : Nat
  argsize  : Nat
  doneaddr : Nat
  succptr  : Nat
  xfptr    : Nat
  succ     : List Nat
  deriving DecidableEq, Repr

/-- A launch queue (R28, R30, R326). -/
structure LaunchQ where
  id     : Nat
  base   : Nat
  log2   : Nat
  watch  : Nat
  wdcfg  : DWord
  head   : Nat
  /-- TAIL as last read. -/
  tail   : Nat
  error  : Bool
  /-- BAD_RECORD counter (R33). -/
  bad    : Nat
  deriving DecidableEq, Repr

/-- The state of a node of the dependence graph (R38, R327). -/
inductive NodeState where
  | waiting
  | ready
  | running
  /-- Suspended by the watchdog. -/
  | suspended
  | finished
  deriving DecidableEq, Repr

/-- A node (R38): an entry of the node table while it is live; kept after it finishes until DONE_CONFIRMED or SUSPECT
(R47). -/
structure Node where
  /-- The model's name of the entry. -/
  key      : Nat
  record   : Record
  state    : NodeState
  /-- The queue it came from, and its record index; none for a child of LAUNCH. -/
  queue    : Option Nat
  wdcfg    : DWord
  /-- Deliveries still expected. -/
  count    : Nat
  failures : Nat
  /-- Order of becoming ready, and the time. -/
  readyAt  : Nat
  readyClk : Nat
  /-- Whole milliseconds added to the priority (R41). -/
  aged     : Nat
  /-- Binding of R22 and R25. -/
  tag      : Nat
  ilock    : Bool
  retained : Bool
  xforms   : List (BitVec 128)
  bank1    : List Byte
  /-- Offsets of the bytes of bank 1 that came poisoned (R333). -/
  bad1     : List Nat
  /-- Next block to place. -/
  next     : Nat
  /-- When the next block became next; whether other nodes have placed since (R58). -/
  nextClk  : Nat
  passed   : Bool
  starved  : Bool
  /-- Counts of R34. -/
  done     : Nat
  fail     : Nat
  kill     : Nat
  rel      : Nat
  firstBlk : Option Nat
  firstCause : Nat
  reason   : Nat
  /-- What has been counted failed or killed, in order: index, cause, reason (0 for killed). -/
  fails    : List (Nat × Nat × Nat)
  /-- A gang could not be relaunched for idempotence (R338). -/
  nonIdem  : Bool
  cancelled : Bool
  ctxKilled : Bool
  /-- %clk of its die when its first block started and when it finished (R34). -/
  tstart   : Option Nat
  tend     : Nat
  /-- The die that took the record. -/
  die      : Nat
  /-- Final status written, 0 while PENDING. -/
  final    : Nat
  /-- Copy node: bursts begun. -/
  copyPos  : Nat
  /-- A violation froze its copy channel (R352). -/
  frozen   : Bool
  /-- Last advance of the progress counter (R326) and the watchdog's expiry. -/
  progress : Nat
  wdExpired : Option Nat
  /-- Relaunches of each unit: first block index and count (R339). -/
  relaunched : List (Nat × Nat)
  /-- Units to be placed again before the unstarted blocks, by first block index (R64, R339). -/
  redo     : List Nat
  /-- Cores and times on which its blocks ran, for the vigils (R343): block, core, start, end. -/
  ranOn    : List (Nat × Nat × Nat × Nat)
  deriving DecidableEq, Repr

/-- A delivery to a NODEID: from which node, and whether it is a failure (R38, R39). -/
structure Delivery where
  dest : Nat
  src  : Nat
  /-- The key of the delivering node. -/
  from_ : Nat
  fail : Bool
  /-- The address of the overflow-list entry that names the destination when the delivery is made. -/
  listed : Option Nat
  deriving DecidableEq, Repr

/-- An entry of the credit table (R38). -/
structure Credit where
  nodeid : Nat
  decs   : Nat
  fails  : Nat
  deriving DecidableEq, Repr

/-- The instruction that issues now. The lanes are one sub-group (R98): threads of one warp at one PC. -/
structure Issue where
  lanes : Mask
  pc    : BitVec 57
  /-- Fetched length (R68). -/
  len   : Nat
  /-- The instruction as fetched, or the expansion of a D32. -/
  word  : BitVec 128
  /-- The D32 word, and whether `word` is its expansion (R76). -/
  d32   : Option Word
  exp   : Bool
  /-- Registers the instruction names (R110). -/
  named : List Nat
  /-- The group has not issued for good: it waits and is tested again. -/
  stays : Bool
  deriving DecidableEq, Repr

/-! ## Operand slots, tiles, the engine queue and chains -/

/-- Slot states (R241). -/
inductive SlotState where
  | free
  | claimed
  | ready
  deriving DecidableEq, Repr

/-- The logical state of a slot (R241, R246): its state, layout (true for B) and format code (R242). -/
structure Slot where
  state   : SlotState
  layoutB : Bool
  fmt     : Nat
  deriving DecidableEq, Repr

/-- The operand image a slot holds (R242): its rows as encoded bytes, as the engine has loaded them, with the 16 resolved
scales of each row and the codebook copy of an LQ2 image; whether an error has poisoned it (R333). -/
structure Image where
  layoutB  : Bool
  fmt      : Nat
  /-- The rows: 64 bytes each, 32 for B1 and LQ2. -/
  rows     : List (List Byte)
  /-- Resolved scales of each row (R242); empty unless LQ2. -/
  scales   : List (List Byte)
  /-- The codebook table (R181), 1,024 bytes; empty unless LQ2. -/
  codebook : List Byte
  poisoned : Bool
  deriving DecidableEq, Repr, Inhabited

/-- The cells of a tile by row; an unlisted row is 64 zeros (R244). -/
abbrev Tile := Tab (List Word)

/-- A physical tile: its cells, and whether an error has poisoned it (R333). -/
structure TileCell where
  cells    : Tile
  poisoned : Bool
  deriving DecidableEq, Repr, Inhabited

/-- Scales a product carries, fixed at issue: the registers the engine reads (R252). `a` and `b` hold, per home lane,
the register values. -/
structure Scales where
  sa    : Bool
  sb    : Bool
  abyte : Nat
  bbyte : Nat
  bhalf : Bool
  areg  : Nat
  breg  : Nat
  a     : Row
  b     : Row
  deriving DecidableEq, Repr

/-- A bond as a step uses it (R267). -/
abbrev Bond := DWord

/-- A queued instruction in the engine queue (R246, R271). -/
inductive EngineOp where
  | osclaim (slot : Option Nat)
  | osrel (slot : Nat)
  /-- Generic or scratch source, base, stride, layout B, format; the window of `.win`. -/
  | osload (slot : Nat) (scratch : Bool) (base stride : Nat) (layoutB : Bool) (fmt : Nat) (win : Option Nat)
  | accgrow (n : Nat)
  | accfree (n : Nat)
  | acczero (tile : Nat) (rows : Mask)
  | accst (tile : Nat) (rows : Mask) (scratch : Bool) (base stride : Nat) (fmt : Nat) (sat : Bool)
  | accmvTT (dst src : Nat) (rows : Mask) (sc dc cnt : Nat)
  | mma (tile a b : Nat) (semi : Nat) (scales : Scales) (rows : Mask) (arv : Option Nat)
  /-- A member's part of an MMAG (R254): the leader's format of B, the barrier offset, the leader block, the member's partner
  index, and the leader's image B once it has been multicast. -/
  | mmag (tile a b bfmt : Nat) (semi : Nat) (scales : Scales) (rows : Mask) (off leader member : Nat) (bimg : Option Image)
  | bdset (idx : Option Nat) (value : DWord)
  /-- A step: slot, bond, the descriptor before it, rows. -/
  | ttc (slot : Nat) (bond : Bond) (desc : DWord) (rows : Mask)
  /-- A chain program: its address, count, next step, rows, and the slot, bond and descriptor before the current step once it
  has been checked. -/
  | ttrun (addr count step : Nat) (rows : Mask) (cur : Option (Nat × Bond × DWord))
  deriving DecidableEq, Repr

/-- An entry of the engine queue: its block, the home warp and the issue that entered it, the operation, the halves done
(R253), the registers it reads, and the rows that the touches of R248 have made unpredictable. -/
structure EngineEntry where
  /-- Order of entry on the device; the parts of one MMAG share it. -/
  id     : Nat
  blk    : Nat
  warp   : Nat
  iss    : Issue
  op     : EngineOp
  half   : Nat
  regs   : List Nat
  spoil  : Mask
  /-- The turn up to which an MRFENCE had made stores visible when it was entered (R249). -/
  known  : Nat
  deriving DecidableEq, Repr

/-- What an engine read of the leading copy forwards to the trailing copy (R345): what was read, or a failed check by its cause, KIND
and address. -/
inductive Fed where
  | image (i : Image)
  | failed (cause kind addr : Nat)
  deriving DecidableEq, Repr

/-- A waiting ACCGROW (R245). -/
structure TileWait where
  blk  : Nat
  n    : Nat
  warp : Nat
  mask : Mask
  vd   : Nat
  deriving DecidableEq, Repr

/-- A deferred failure of an MMAG member (R254): the MMAG's order of entry, the warp that issued it, cause and TRAPADDR. -/
structure Deferred where
  id    : Nat
  warp  : Nat
  cause : BitVec 8
  addr  : DWord
  deriving DecidableEq, Repr

/-! ## Copies, barriers, collectives of a block -/

/-- The result of a copy (R295). -/
inductive CopyStatus where
  | running
  | ok
  /-- A code of R294 and its KIND. -/
  | failed (code kind : Nat)
  deriving DecidableEq, Repr

/-- A copy in a handle (R291, R293). -/
structure Copy where
  dst       : Nat
  dstScr    : Bool
  src       : Nat
  srcScr    : Bool
  len       : Nat
  cursor    : Nat
  bar       : Option Nat
  status    : CopyStatus
  /-- It waits for the fault service with this token (R293). -/
  fault     : Option Nat
  /-- A violation froze its channel (R352). -/
  frozen    : Bool
  /-- The warp that issued it, and the registers its CPY names (R110). -/
  warp      : Nat
  named     : List Nat
  deriving DecidableEq, Repr

/-- A BSYNC instance being gathered (R287): its id, role mask, and the threads that have arrived, by warp. -/
structure BsyncInst where
  id      : Nat
  roles   : Nat
  /-- Arrived and waiting, then passed with a false guard: a mask for each %warp. -/
  arrived : List (Nat × Mask)
  passed  : List (Nat × Mask)
  deriving DecidableEq, Repr

/-- Threads of a warp that wait at a PBWAIT with one token (R286); kept with the block whose barrier it is. -/
structure PbWait where
  blk  : Nat
  warp : Nat
  mask : Mask
  off  : Nat
  tok  : Bool
  /-- The destination of `.status`, the fetched length, and TRAPADDR of BARRIER_POISON. -/
  vd   : Option Nat
  len  : Nat
  addr : Nat
  deriving DecidableEq, Repr

/-- A block's arrival at an SBAR in progress (R288): threads of each warp that have executed it. -/
structure SbarArr where
  scope   : Nat
  id      : Nat
  /-- The count its first enabled thread named, and whether another named a different one. -/
  count   : Option Nat
  mismatch : Bool
  /-- Waiting threads with their VD field, by warp. -/
  waiting : List (Nat × Mask × Nat)
  passed  : List (Nat × Mask)
  /-- The block has been counted in its instance. -/
  counted : Bool
  /-- The status of the completed instance, held while the block is saved. -/
  result  : Option Word
  deriving DecidableEq, Repr

/-- Threads of a warp that wait at a CPYWAIT for the copy of a handle (R295): the VD field, the fetched length, and whether `.status` is set. -/
structure CpyWait where
  warp   : Nat
  mask   : Mask
  handle : Nat
  vd     : Nat
  len    : Nat
  status : Bool
  deriving DecidableEq, Repr

/-- An SBAR instance of a scope (R288): the launch, the core, quad, die or package, and the blocks arrived. -/
structure SbarInst where
  ctx      : Nat
  node     : Nat
  scope    : Nat
  place    : Nat
  id       : Nat
  count    : Option Nat
  mismatch : Bool
  arrived  : List Nat
  deriving DecidableEq, Repr

/-- A collective handle of a block (R379). -/
structure CollHandle where
  group  : Nat
  seq    : Nat
  /-- The status word when complete. -/
  status : Option Word
  /-- The warp that issued it, and the registers its COLL names (R110). -/
  warp   : Nat
  named  : List Nat
  deriving DecidableEq, Repr

/-- An EVWAIT in progress (R289): the group waits until no enabled thread has still to see its word differ. -/
structure EvWait where
  warp  : Nat
  /-- Its enabled threads, and every thread of the group. -/
  mask  : Mask
  group : Mask
  /-- Enabled threads whose word has not differed, and the words the others read. -/
  left  : Mask
  vals  : Row
  vd    : Nat
  ord   : Nat
  /-- Compact: one read for the warp. -/
  once  : Bool
  addr  : Lanes DWord
  cmp   : Row
  /-- Timeout in cycles, 0 for none, the start time, and when the word was last read. -/
  limit : Nat
  start : Nat
  seen  : Nat
  len   : Nat
  deriving DecidableEq, Repr

/-! ## Paired execution -/

/-- An entry of the compare buffer (R346, R348, R350): its warp, its kind of R349 (1 store, 2 atomic, 3 PCMP, 4 CPY and
the like), what is compared, its addresses, the store a match performs, whether it has matched, and whether it has been performed and
waits for those before it to retire. -/
structure PairEntry where
  warp    : Nat
  kind    : Nat
  key     : List Nat
  addrs   : List Nat
  store   : Option (Nat × List Byte)
  matched : Bool
  done    : Bool
  deriving DecidableEq, Repr

/-- What the leading copy forwards to the trailing copy (R345, R348): results for some lanes of a warp, or the trap the
leading access took. -/
inductive Forward where
  | values (lanes : Mask) (vals : List RegVal)
  | trap (cause : BitVec 8) (addr : DWord) (lanes : Mask)
  deriving DecidableEq, Repr

/-- Which copy of a pair a block is (R62). -/
inductive CopyRole where
  | single
  | leading
  | trailing
  deriving DecidableEq, Repr

/-! ## Blocks -/

/-- A write of a byte that a party may still miss (R298, R301): its turn; the turn before which every access that happens before it
was made; its writer, a warp of a block, with block 0 for the device; the piece of an access that it is part of, by address and length
(R221, R309); and the byte before it. -/
structure Late where
  turn  : Nat
  dep   : Nat
  blk   : Nat
  warp  : Nat
  piece : Nat
  len   : Nat
  old   : Byte
  deriving DecidableEq, Repr

/-- How a block ended (R34, R36). -/
inductive Ending where
  | done
  /-- FAILED with a reason of R35 and a trap cause, 0 for none. -/
  | failed (reason cause : Nat)
  | killed
  /-- Its unit consumed an uncorrectable error and was killed (R337); the TRAPADDR of the consumption and the core. -/
  | consumed (addr : DWord) (core : Nat)
  deriving DecidableEq, Repr

/-- Where a block stands. -/
inductive BlockState where
  /-- Reserved; the prologue engine fills its scratch (R45). -/
  | prologue
  /-- Its prologue is done; it starts with its gang (R45). -/
  | filled
  | running
  /-- Stopped by an unhandled trap with HALTUT set (R313). -/
  | halted
  /-- Ended; its scratch is still reserved for its gang (R61). -/
  | ended (e : Ending)
  deriving DecidableEq, Repr

/-- A block, resident on a core or saved (R52, R328, R329). -/
structure Block where
  /-- Order of admission; the block's name in the model. -/
  id      : Nat
  ctx     : Nat
  /-- Key of its node. -/
  node    : Nat
  /-- %block (R42). -/
  index   : Nat
  core    : Nat
  copy    : CopyRole
  obj     : Nat
  tag     : Nat
  header  : Header
  /-- Interlocked mode (R25). -/
  ilock   : Bool
  /-- Launch age (R245): order of its node's take. -/
  age     : Nat
  state   : BlockState
  /-- Its scratch range on the core (R52). -/
  base    : Nat
  /-- Its scratch window; unlisted bytes are 0 (R65). -/
  scratch : Tab Byte
  /-- Poisoned 64-byte granules of the window, by number (R333). -/
  scrPoison : List Nat
  warps   : List Warp
  /-- Active dictionary number and the larder slots numbers 0-3 are bound to (R81, R83). -/
  active  : Nat
  binds   : List (Option Nat)
  /-- Slots: the logical state (R246) and the image the engine has loaded. -/
  slots   : List Slot
  images  : List (Option Image)
  /-- Tiles held in the logical state, h (R244), and the cells of the tiles the engine has for it. -/
  held    : Nat
  tiles   : List TileCell
  bonds   : List DWord
  desc    : DWord
  copies  : List (Option Copy)
  cpywaits : List CpyWait
  colls   : List (Option CollHandle)
  pbwaits : List PbWait
  bsyncs  : List BsyncInst
  sbars   : List SbarArr
  evwaits : List EvWait
  deferred : List Deferred
  /-- Parts of the leader's MMAGs still to enter this member's engine queue (R254). -/
  parts   : List EngineEntry
  /-- Queued instructions no MWAIT has covered (R247, R248). -/
  uncov   : List EngineEntry
  /-- Queued instructions whose arrive has been delivered or that an MWAIT has covered, and when (R248). -/
  past    : List (Nat × EngineEntry)
  /-- The turn of its start or of its last MRFENCE (R249); the writes of bytes of its scratch window that an engine read may still miss,
  the last of each byte first, and the turn up to which none is missed (R304). -/
  fenced  : Nat
  scrLate : Tab (List Late)
  scrSettled : Nat
  /-- Engine reads forwarded by the leading copy to this one, by warp (R345). -/
  fed     : List (Nat × Fed)
  /-- The non-idempotent bit of its unit (R338). -/
  nonIdem : Bool
  /-- Restarts made from each warp's restart point (R340, R349). -/
  restarts : List (Nat × Nat)
  /-- A lost store still to be reported: warp and address (R364). -/
  lost    : Option (Nat × Nat)
  /-- Paired execution: the compare buffer, values forwarded by the leading copy to this one by warp, and instructions
  retired by warp (R345-R348). -/
  compare : List PairEntry
  /-- Groups whose ST has passed its checks and has not yet room for all its stores: warp, the threads that wait, and those whose store has
  still to enter the buffer (R346). -/
  entering : List (Nat × Mask × Mask)
  forward : List (Nat × Forward)
  retired : List (Nat × Nat)
  /-- How it was counted in its node, once its end has been (R36). -/
  counted : Option Ending
  /-- When it last began to run on this core (R342). -/
  since   : Nat
  /-- When it last retired an instruction or had engine work performed on this core (R342). -/
  worked  : Option Nat
  started : Bool
  /-- ERRINJ counts events of this block (R351): started after the CSRW. -/
  inject  : Bool
  /-- While saved: its engine entries, and for each dictionary number its image reference and modified contents (R85,
  R329); whether it is stopped by a watchdog pre-emption. -/
  queued  : List EngineEntry
  dicts   : List (Option (Option Nat × Dict))
  /-- While halted: the cause of the trap that halted it, 0 when a violation froze it (R313, R352). -/
  haltCause : Nat
  /-- An access to the cellar for it has failed: its context is about to be killed (R111). -/
  cellarFail : Bool
  deriving DecidableEq, Repr

/-! ## Contexts -/

/-- An event of the event ring (R371). -/
structure Event where
  code   : Nat
  nodeid : Nat
  arg0   : DWord
  arg1   : DWord
  clk    : DWord
  deriving DecidableEq, Repr

/-- The event ring (R371). -/
structure EventRing where
  base : Nat
  tail : Nat
  held : List Event
  lost : Nat
  deriving DecidableEq, Repr

/-- The regions of the region descriptor (R370). -/
structure Regions where
  cellar   : Nat
  cellarSz : Nat
  attic    : Nat
  atticN   : Nat
  save     : Nat
  saveSz   : Nat
  suspect  : Nat
  suspectSz : Nat
  deriving DecidableEq, Repr

/-- The feature record of a context (R325). -/
structure Features where
  stepping : Nat
  featLo   : Nat
  featHi   : Nat
  cores    : Nat
  quads    : Nat
  dies     : Nat
  pkgs     : Nat
  level    : Nat
  deriving DecidableEq, Repr

/-- Who made the access that waits for the fault service (R214). -/
inductive FaultOwner where
  | threads (blk warp : Nat) (lanes : Mask)
  | copy (blk handle : Nat)
  | copyNode (node : Nat)
  /-- The prologue engine at a binding of a block (R45). -/
  | prologue (blk : Nat)
  deriving DecidableEq, Repr

/-- A serviceable fault posted and not yet answered (R214, R371). -/
structure FaultReq where
  token : Nat
  va    : Nat
  kind  : Nat
  owner : FaultOwner
  /-- The answer, while its block is saved and cannot take it. -/
  answer : Option Nat
  deriving DecidableEq, Repr

/-- STATE of a group's membership table (R372). -/
inductive MemberState where
  | active
  | joining
  | expelled
  deriving DecidableEq, Repr

/-- This member's own part of a collective (R377): block, handle, destination, barrier, and its contribution, kept to be sent
again to a new folding member. -/
structure OwnPart where
  blk    : Nat
  handle : Nat
  dst    : Nat
  bar    : Option Nat
  sent   : Contribution
  deriving DecidableEq, Repr

/-- A collective this member takes part in or folds (R373, R377). -/
structure Collective where
  seq      : Nat
  /-- None while its block has not issued. -/
  own      : Option OwnPart
  /-- The members of its season. -/
  members  : BitVec 256
  /-- At the folding member: contributions in arrival order, and members whose unit was killed before it contributed (R337). -/
  contribs : List Contribution
  absent   : BitVec 256
  deriving DecidableEq, Repr

/-- A collective group (R372). -/
structure Group where
  index    : Nat
  gid      : Nat
  season   : Nat
  nmem     : Nat
  self     : Nat
  state    : MemberState
  nextSeq  : Nat
  table    : Nat
  journal  : Nat
  live     : BitVec 256
  nodes    : List Nat
  /-- The season from which on each member index belongs to its holder (R374, R375). -/
  since    : List Nat
  /-- Time of the last contribution or heartbeat of each member (R363). -/
  heard    : List Nat
  colls    : List Collective
  /-- Spares whose replay is over, by member index and node: they are admitted when the next collective begins (R375). -/
  spares   : List (Nat × Nat)
  deriving DecidableEq, Repr

/-- An attic entry (R43): its place in the attic region, where its bytes stand, and its node. -/
structure AtticEntry where
  slot : Nat
  node : Nat
  deriving DecidableEq, Repr

/-- Where a context stands. -/
inductive CtxState where
  | running
  /-- Switched out (R330). -/
  | out
  /-- Killed (R327, R333, R353): nothing of it runs again. -/
  | killed
  deriving DecidableEq, Repr

/-- A context (R12). -/
structure Ctx where
  id       : Nat
  state    : CtxState
  grant    : List Nat
  feat     : Features
  slack    : Nat
  regions  : Regions
  /-- The core positions that have a slot set in the cellar region, in its order (R111). -/
  slotSets : List Nat
  ring     : EventRing
  srseed   : Word
  ctxcfg   : DWord
  bpa      : List DWord
  errinj   : DWord
  /-- Writes of the context's registers by warps, oldest first (R321). -/
  csrLog   : List CsrWrite
  errCount : Nat
  ptroot   : DWord
  heapcfg  : DWord
  heapbase : DWord
  heaplimit : DWord
  heapoff  : DWord
  queues   : List LaunchQ
  objects  : List CodeObj
  nodes    : List Node
  credits  : List Credit
  /-- Deliveries that wait for a credit entry (R40). -/
  delayed  : List Delivery
  attic    : List AtticEntry
  faults   : List FaultReq
  nextToken : Nat
  /-- Blocks saved by a pre-emption (R328). -/
  saved    : List Block
  /-- Bytes of the suspect-list region used (R344). -/
  suspectUsed : Nat
  groups   : List Group
  /-- Block lists written: node key, block indices, address (R344). -/
  lists    : List (Nat × List Nat × Nat)
  /-- Nodes named administrators of the context's queue (R367). -/
  masters  : List Nat
  deriving DecidableEq, Repr

/-! ## Cores and the device -/

/-- Whether a core serves (R50, R63, R341). -/
inductive CoreCond where
  | serving
  /-- A fused spare that has not been enabled. -/
  | spare
  | fenced
  deriving DecidableEq, Repr

/-- The vigil of a core (R341). -/
inductive VigilState where
  | none
  /-- Stopped taking blocks at a time; it drains. -/
  | draining (start : Nat)
  | scanning (start : Nat)
  deriving DecidableEq, Repr

/-- A position of a pipe's active set (R126): the group that has it, by a lane of it, and since when it is held. -/
structure Position where
  pipe : Nat
  pos  : Nat
  blk  : Nat
  warp : Nat
  lane : Nat
  held : Option Nat
  deriving DecidableEq, Repr

/-- Since when the next instruction of a group is ready (R126): its block and warp, a lane of it, and its PC. -/
structure GroupClock where
  blk   : Nat
  warp  : Nat
  lane  : Nat
  pc    : BitVec 57
  since : Nat
  deriving DecidableEq, Repr

/-- A translation a TLB holds (R212). -/
structure TlbEntry where
  ctx  : Nat
  page : Nat
  size : Nat
  deriving DecidableEq, Repr

/-- A core position (R50). -/
structure Core where
  cond    : CoreCond
  vigil   : VigilState
  /-- Time of its last passed vigil's start and end (R342, R343). -/
  passed  : Nat
  gated   : Bool
  larder  : List (Option LarderSlot)
  queue   : List EngineEntry
  tileWaits : List TileWait
  actives : List Position
  /-- Ready groups of the core, and the position that issued last in each pipe (R126). -/
  clocks  : List GroupClock
  lastPos : List Nat
  tlb     : List TlbEntry
  deriving DecidableEq, Repr

/-- A line a cache holds (R218, R219). `level`: 0 L1, 1 home L2, 2 RDC, 3 base-die cache; `unit` its core, die, die or
slice; the name of the key under which it was deciphered as it entered (R215); the format window it was tagged with (R226); the
32-byte sectors it holds, which are all four but in an L1; and its dirty bytes, which the memory of the model has already. -/
structure CacheLine where
  level   : Nat
  unit    : Nat
  ctx     : Nat
  line    : Nat
  sealed  : Bool
  key     : Nat
  window  : Option Nat
  sectors : BitVec 4
  dirty   : Mask
  deriving DecidableEq, Repr

/-- A shoot-down in progress (R217): cores that have not acknowledged, and the block and warp that asked for it. -/
structure Shootdown where
  id     : Nat
  owner  : Option (Nat × Nat)
  ctx    : Nat
  va     : Nat
  len    : Nat
  start  : Nat
  owing  : List Nat
  deriving DecidableEq, Repr

/-- A range that UNSEAL has made writable and no FENCE of the threads that executed it has covered yet (R237). -/
structure Unfenced where
  ctx   : Nat
  va    : Nat
  len   : Nat
  scope : Nat
  blk   : Nat
  warp  : Nat
  lanes : Mask
  deriving DecidableEq, Repr

/-- A page migration in progress (R216). -/
structure Migration where
  ctx    : Nat
  va     : Nat
  /-- The frame it leaves, its bytes, the frame it takes, and the node it moves towards. -/
  old    : Nat
  size   : Nat
  frame  : Nat
  toward : Nat
  /-- Every translation of the page: where its leaf stands, and the leaf before. -/
  leaves : List (Nat × DWord)
  /-- The shoot-downs of its translations. -/
  shoots : List Nat
  /-- Contexts and tokens of requests held until it completes. -/
  held   : List (Nat × Nat)
  token  : Option Nat
  deriving DecidableEq, Repr

/-- A pinned 128-byte line (R222). -/
structure Pin where
  ctx  : Nat
  va   : Nat
  line : Nat
  deriving DecidableEq, Repr

/-- An error bank (R334). -/
structure Bank where
  kind   : Nat
  index  : Nat
  status : DWord
  addr   : DWord
  deriving DecidableEq, Repr

/-- A key slot that is not empty (R215). -/
structure KeySlot where
  slot  : Nat
  owner : Nat
  key   : BitVec 512
  deriving DecidableEq, Repr

/-- A format window (R225). -/
structure FmtWin where
  index    : Nat
  ctl      : DWord
  range    : DWord
  codebook : DWord
  scale    : DWord
  bitmap   : DWord
  deriving DecidableEq, Repr

/-- A Vrelbusar port (R360-R365). -/
structure Port where
  up       : Bool
  lanes    : Nat
  inside   : Bool
  /-- SEQ of the next flit to send and of the next expected. -/
  seqOut   : Nat
  seqIn    : Nat
  /-- Flits sent and not acknowledged. -/
  replay   : List (BitVec 256)
  /-- TYPE and payload of the flits of packets that wait for room in the replay buffer. -/
  outbox   : List (BitVec 4 × BitVec 224)
  /-- Consecutive replays of the flit at the front. -/
  replays  : Nat
  /-- A negative acknowledgement was sent; flits are discarded until the replay. -/
  waiting  : Bool
  /-- The packets delivered, in order: a header flit and the data flits that follow it. -/
  received : List (List (BitVec 256))
  lastSent : Nat
  lastHeard : Nat
  keyGen   : Nat
  txCount  : Nat
  deriving DecidableEq, Repr

/-- A management queue (R367). -/
structure MgmtQueue where
  q     : MgmtQ
  base  : Nat
  log2  : Nat
  watch : Nat
  head  : Nat
  tail  : Nat
  error : Bool
  /-- The shoot-down that the command at HEAD waits for, and the command (R14). -/
  hold  : Option (Nat × Instr)
  deriving DecidableEq, Repr

/-- A die: its clock, almanac, throttling and power (R132, R341, R383-R385). -/
structure Die where
  clk       : Nat
  /-- Position in the almanac: the next core position to take. -/
  almanac   : Nat
  /-- Its thermal and power steps, and when each last changed (R385). -/
  thermal   : Nat
  power     : Nat
  thermalAt : Nat
  powerAt   : Nat
  /-- A change of each step that is due at the next window boundary: a rise, or a fall (R385). -/
  thermalDue : Option Bool
  powerDue  : Option Bool
  powered   : Bool
  /-- Its last-level TLB (R212). -/
  tlb       : List TlbEntry
  deriving DecidableEq, Repr

/-- Why a step stops for good. -/
inductive Fault where
  /-- Power is removed from the compute dies at the thermal trip until reset (R383). Raised by `step` alone; safe: the
  manual gives the device no further step. -/
  | powerRemoved
  deriving DecidableEq, Repr

/-- Why an instruction has no meaning in the model. -/
inductive Refusal where
  /-- An instruction whose meaning is not written; raised by `exec` alone; safe. -/
  | notModelled (mnemonic : String)
  deriving DecidableEq, Repr

/-- A context that MIGRATE has moved to another package (R331): the package, the context with its code versions and saved blocks, and the bytes
of its memory that are not 0, by virtual address. -/
structure Departed where
  node : Nat
  ctx  : Ctx
  mem  : List (Nat × Byte)
  deriving DecidableEq, Repr

/-- The state of the machine. -/
structure State where
  /-- Domain physical memory (R211, R218): the bytes that are not 0. -/
  mem       : List Host.Cell
  /-- The key under which each 256-byte unit of memory stands, 0 for plaintext, with the number of times it has changed; and
  the number at which each byte was last written (R215). -/
  units     : Tab (Nat × Nat)
  written   : Tab Nat
  /-- Writes of each byte that a party may still miss, the last first (R301, R308), and the turn up to which no write is missed. -/
  late      : Tab (List Late)
  settled   : Nat
  /-- Poisoned 64-byte granules, by number (R333), rising. -/
  poison    : List Nat
  /-- Guard tags that came with a 256-byte block over the fabric (R290, R366), by block; the tag of every other block is the
  one formed from its bytes, its address and the generation of its page. -/
  tags      : List (Nat × GuardTag)
  /-- Page generations (R290), by frame number. -/
  pageGen   : Tab Nat
  caches    : List CacheLine
  pins      : List Pin
  keys      : List KeySlot
  windows   : List FmtWin
  shootdowns : List Shootdown
  nextShoot : Nat
  unfenced  : List Unfenced
  migrations : List Migration
  /-- Requests to migrate a page that the home directory has refused (R216): context, page, and a status of R368. -/
  pageReplies : List (Nat × Nat × Nat)
  dies      : List Die
  cores     : List Core
  /-- The fuses (R382): each die's spare cores, HBM channels mapped out at test, the firmware public key. -/
  spareMap  : List Nat
  fusedChannels : List Nat
  firmwareKey : Nat
  stepping  : Nat
  node      : Nat
  /-- Boot phase completed, 0 to 6 (R381). -/
  boot      : Nat
  vigilcfg  : DWord
  health    : Nat
  /-- HBM channels that are mapped out, and the base-die cache ways that are, which are fuses (R382). -/
  badChannels : List Nat
  badWays   : Nat
  banks     : List Bank
  ports     : List Port
  lostNodes : List Nat
  mgmt      : List MgmtQueue
  frozenNodes : List Nat
  /-- Contexts that a violation froze, each with its core (R352). -/
  frozenCtxs : List (Nat × Nat)
  ctxs      : List Ctx
  departed  : List Departed
  sbarInsts : List SbarInst
  blocks    : List Block
  /-- Names of blocks start from 1. -/
  nextBlock : Nat
  /-- Orders of taking, of becoming ready (R41) and of entering an engine queue. -/
  nextOrder : Nat
  /-- The context the placement unit placed for last on each core, and for each priority the order of becoming
  ready of the node it placed last (R57). -/
  lastPlaced : List (Nat × Nat)
  lastNode  : List (Nat × Nat)
  /-- Register writes made so far, the time of R110. -/
  writes    : Nat
  /-- The issuing block and warp, taken out while an instruction is performed. -/
  blk       : Block
  wp        : Warp
  iss       : Issue
  /-- Events and inputs that wait to be performed, oldest first. -/
  agenda    : List Instr
  /-- Choices among the moves a step has; when empty the step takes the default. -/
  sched     : List Nat
  turn      : Nat
  /-- Free values drawn so far. -/
  free      : Nat
  deriving DecidableEq, Repr

/-! ## After reset -/

/-- No trap recorded (R18). -/
def TrapRec.zero : TrapRec := ⟨0, 0, 0, 0, 0⟩

/-- The warp that stands in `State.wp` while nothing issues. -/
def Warp.empty : Warp where
  idx := 0
  role := 0
  vmax := 0
  pipe := 0
  slot := 0
  threads := Lanes.of fun _ => ⟨0, .exited, 0, false, false, 0, false⟩
  regs := []
  rcv := []
  pending := []
  meets := []
  fpstat := 0
  trap := TrapRec.zero
  trapBase := 0
  entryMask := 0
  trapQueue := []
  progIdx := 0
  regionPc := 0
  regionCnt := 0
  rvalid := false
  restarted := false
  snapshot := .none
  trace := RegionTrace.empty
  synced := 0
  readAt := 0
  podAt := 0

/-- A header of zeros. -/
def Header.empty : Header := ⟨0, 0, 0, 0, 0, 1, 0, 0, 0, [], [], [], 0, 0⟩

/-- The block that stands in `State.blk` while nothing issues. -/
def Block.empty : Block where
  id := 0
  ctx := 0
  node := 0
  index := 0
  core := 0
  copy := .single
  obj := 0
  tag := 0
  header := Header.empty
  ilock := false
  age := 0
  state := .ended .done
  base := 0
  scratch := []
  scrPoison := []
  warps := []
  active := 0
  binds := [.none, .none, .none, .none]
  slots := []
  images := []
  held := 0
  tiles := []
  bonds := List.replicate 16 0
  desc := 0
  copies := List.replicate 16 .none
  cpywaits := []
  colls := List.replicate 4 .none
  pbwaits := []
  bsyncs := []
  sbars := []
  evwaits := []
  deferred := []
  parts := []
  uncov := []
  past := []
  fenced := 0
  scrLate := []
  scrSettled := 0
  fed := []
  nonIdem := false
  restarts := []
  lost := .none
  compare := []
  entering := []
  forward := []
  retired := []
  counted := .none
  since := 0
  worked := .none
  started := false
  inject := false
  queued := []
  dicts := []
  haltCause := 0
  cellarFail := false

/-- Nothing issues. -/
def Issue.idle : Issue := ⟨0, 0, 0, 0, .none, false, [], false⟩

/-- A core after reset: a fused spare or serving; its larder, queue and TLB empty (R381). -/
def Core.reset (spare : Bool) : Core where
  cond := if spare then .spare else .serving
  vigil := .none
  passed := 0
  gated := false
  larder := List.replicate 16 .none
  queue := []
  tileWaits := []
  actives := []
  clocks := []
  lastPos := [7, 7, 7, 7]
  tlb := []

/-- A die after reset: its clock restarts from 0 (R132, R381); no throttling. -/
def Die.reset : Die where
  clk := 0
  almanac := 0
  thermal := 0
  power := 0
  thermalAt := 0
  powerAt := 0
  thermalDue := none
  powerDue := none
  powered := true
  tlb := []

/-- A port after reset. -/
def Port.reset : Port := ⟨true, 16, true, 0, 0, [], [], 0, false, [], 0, 0, 0, 0⟩

/-- The spare cores of each die. DESIGN CHOICE (log 3): one core in each of the last four quads. -/
def spareReset : List Nat := [83, 87, 91, 95, 179, 183, 187, 191, 275, 279, 283, 287]

/-- The machine right after device reset (R381), before bring-up's phase 1: no context, empty caches, larders and
banks, clocks at 0. What the manual gives no reset value is named in the assumption log. -/
def State.reset : State where
  mem := []
  units := []
  written := []
  late := []
  settled := 0
  poison := []
  tags := []
  pageGen := []
  caches := []
  pins := []
  keys := []
  windows := []
  shootdowns := []
  nextShoot := 0
  unfenced := []
  migrations := []
  pageReplies := []
  dies := List.replicate 3 Die.reset
  cores := (List.range 288).map fun c => Core.reset (spareReset.contains c)
  spareMap := spareReset
  fusedChannels := []
  firmwareKey := 0
  stepping := 0x0100
  node := 0
  boot := 0
  vigilcfg := 0x1400F11
  health := 12 * 2 ^ 30 + 276 * 2 ^ 21
  badChannels := []
  badWays := 0
  banks := []
  ports := List.replicate 18 Port.reset
  lostNodes := []
  mgmt := []
  frozenNodes := []
  frozenCtxs := []
  ctxs := []
  departed := []
  sbarInsts := []
  blocks := []
  nextBlock := 1
  nextOrder := 0
  lastPlaced := []
  lastNode := []
  writes := 0
  blk := Block.empty
  wp := Warp.empty
  iss := Issue.idle
  agenda := []
  sched := []
  turn := 0
  free := 0

end Sys2Proof.Machine
end

