-- ==== Sys2Proof/Machine/Regs.lean ====
section
/-! DEFINITION. The shared operations over warps, registers, rows and blocks. -/
namespace Sys2Proof.Machine

/-! ## Values and shapes -/

/-- The value of home lane `l` (R102). -/
def RegVal.at (r : RegVal) (l : Nat) : Word :=
  match r with
  | .u x => x
  | .a b s => b + BitVec.ofNat 32 l * s
  | .v row => Lanes.at row l
/-- The shape code (R102). -/
def RegVal.shape : RegVal → Nat
  | .u _ => 0
  | .a _ _ => 1
  | .v _ => 2
/-- The value is compact (R101). -/
def RegVal.compact (r : RegVal) : Bool := r.shape != 2
/-- An affine value in canonical form (R102). -/
def RegVal.affine (b s : Word) : RegVal := if s = 0 then .u b else .a b s
/-- A value in V shape from a function of the lane. -/
def RegVal.lanes (f : Nat → Word) : RegVal := .v (Lanes.of f)

/-- A register of the warp. -/
def Warp.reg (w : Warp) (i : Nat) : Reg := Tab.get Reg.zero w.regs i
/-- The shaped value of a register. -/
def Warp.rv (w : Warp) (i : Nat) : RegVal := (w.reg i).val
/-- The value of a register in lane `l`. -/
def Warp.val (w : Warp) (i l : Nat) : Word := (w.rv i).at l
/-- The 64-bit value of a pair in lane `l` (R97). -/
def Warp.pair (w : Warp) (i l : Nat) : DWord := w.val (i + 1) l ++ w.val i l
/-- The thread of lane `l`. -/
def Warp.thread (w : Warp) (l : Nat) : Thread := Lanes.at w.threads l
/-- Threads that have not exited (R96). -/
def Warp.live (w : Warp) : Mask := w.threads.mask fun t => t.status != .exited
/-- Handler threads (R312). -/
def Warp.handlers (w : Warp) : Mask := w.threads.mask fun t => t.handler && t.status != .exited
/-- Predicate `p` of lane `l`; `pt` reads true (R113). -/
def Warp.pred (w : Warp) (p l : Nat) : Bool := p = 7 || (w.thread l).preds.getLsbD p
/-- Change the threads of a mask. -/
def Warp.mapThreads (w : Warp) (m : Mask) (f : Nat → Thread → Thread) : Warp :=
  { w with threads := Lanes.mapIdx w.threads fun l t => if Mask.has m l then f l t else t }
/-- Rows the warp holds, H (R108). -/
def Warp.rows (w : Warp) : Nat := (w.regs.filter fun p => !p.2.val.compact && !p.2.spilled).length

/-- A warp at its start (R18, R185): every thread eligible at the role's entry, registers U 0, predicates false. -/
def Warp.start (idx role vmax pipe depth : Nat) (entry : BitVec 57) (sr : Nat → Word) : Warp :=
  { Warp.empty with
    idx := idx, role := role, vmax := vmax, pipe := pipe
    threads := Lanes.of fun l => ⟨entry, .eligible, 0, false, false, sr l, false⟩
    rcv := List.replicate depth 0 }

/-! ## Blocks and warps of the state -/

/-- A warp of a block. -/
def Block.warp? (b : Block) (idx : Nat) : Option Warp := b.warps.find? fun w => w.idx = idx
/-- The issuing block as it stands, its issuing warp included. -/
def State.blkNow (s : State) : Block :=
  { s.blk with warps := s.blk.warps.map fun w => if w.idx = s.wp.idx then s.wp else w }
/-- Every resident block as it stands. -/
def State.blocksNow (s : State) : List Block := s.blocks.map fun b => if b.id = s.blk.id then s.blkNow else b
/-- A block by name, as it stands. -/
def State.block? (s : State) (id : Nat) : Option Block := s.blocksNow.find? fun b => b.id = id
/-- Change the parts of a block other than its warps. -/
def State.modBlk (s : State) (id : Nat) (f : Block → Block) : State :=
  if id = s.blk.id then { s with blk := f s.blk }
  else { s with blocks := s.blocks.map fun b => if b.id = id then f b else b }
/-- Change a warp of a block. -/
def State.modWarp (s : State) (id idx : Nat) (f : Warp → Warp) : State :=
  if id = s.blk.id then
    if idx = s.wp.idx then { s with wp := f s.wp }
    else { s with blk := { s.blk with warps := s.blk.warps.map fun w => if w.idx = idx then f w else w } }
  else { s with blocks := s.blocks.map fun b =>
    if b.id = id then { b with warps := b.warps.map fun w => if w.idx = idx then f w else w } else b }
/-- Change every warp of a block. -/
def State.modWarps (s : State) (id : Nat) (f : Warp → Warp) : State :=
  if id = s.blk.id then { s with wp := f s.wp, blk := { s.blk with warps := s.blk.warps.map f } }
  else { s with blocks := s.blocks.map fun b => if b.id = id then { b with warps := b.warps.map f } else b }
/-- Put the issuing block back. -/
def State.checkin (s : State) : State :=
  { s with blocks := s.blocksNow, blk := Block.empty, wp := Warp.empty, iss := Issue.idle }
/-- Take out a block and a warp of it; nothing changes when there is none. -/
def State.checkout (s : State) (id idx : Nat) (iss : Issue) : State :=
  match s.blocks.find? fun b => b.id = id with
  | none => s
  | some b =>
    match b.warps.find? fun w => w.idx = idx with
    | none => s
    | some w => { s with blk := b, wp := w, iss := iss }

/-- Perform something as a warp of a block, then go on as the issuing warp; nothing when it is not resident. -/
def State.withWarp (s : State) (id idx : Nat) (iss : Issue) (k : State → State) : State :=
  if id = s.blk.id && idx = s.wp.idx then { k { s with iss := iss } with iss := s.iss }
  else
    let s1 := s.checkin.checkout id idx iss
    if s1.blk.id != id then s else ((k s1).checkin).checkout s.blk.id s.wp.idx s.iss
/-- A context by ID. -/
def State.ctx? (s : State) (id : Nat) : Option Ctx := s.ctxs.find? fun c => c.id = id
/-- Change a context. -/
def State.modCtx (s : State) (id : Nat) (f : Ctx → Ctx) : State :=
  { s with ctxs := s.ctxs.map fun c => if c.id = id then f c else c }
/-- Change a core. -/
def State.modCore (s : State) (c : Nat) (f : Core → Core) : State := { s with cores := setAt s.cores c f }
/-- A core by number. -/
def State.core (s : State) (c : Nat) : Core := s.cores.getD c (Core.reset false)
/-- A die by number. -/
def State.die (s : State) (d : Nat) : Die := s.dies.getD d Die.reset
/-- The die of a core (R50). -/
def dieOf (core : Nat) : Nat := core / 96
/-- The physical quad of a core (R50). -/
def quadOf (core : Nat) : Nat := 24 * (core / 96) + core % 96 / 4
/-- %clk of a core's die (R132). -/
def State.clk (s : State) (core : Nat) : Nat := (s.die (dieOf core)).clk
/-- The device's time for package-wide bounds: the clock of die 0. -/
def State.now (s : State) : Nat := (s.die 0).clk
/-- Add an event to those that wait to be performed. -/
def State.push (s : State) (i : Instr) : State := { s with agenda := s.agenda ++ [i] }
/-- Change a node of a context. -/
def State.modNode (s : State) (ctx key : Nat) (f : Node → Node) : State :=
  s.modCtx ctx fun c => { c with nodes := c.nodes.map fun n => if n.key = key then f n else n }
/-- A node by key. -/
def State.node? (s : State) (ctx key : Nat) : Option Node :=
  (s.ctx? ctx).bind fun c => c.nodes.find? fun n => n.key = key
/-- The version a block runs (R22). -/
def State.version? (s : State) (ctx obj tag : Nat) : Option Version :=
  ((s.ctx? ctx).bind fun c => c.objects.find? fun o => o.addr = obj).bind fun o =>
    o.versions.find? fun v => v.tag = tag

/-! ## The issuing group -/

/-- Lanes of the group the guard enables. -/
def State.en (s : State) (f : Fields) : Mask :=
  maskOf fun l => Mask.has s.iss.lanes l && (s.wp.pred f.pg.toNat l != f.pgn)
/-- Every thread of the group goes on after the instruction (R68). -/
def State.advance (s : State) : State :=
  { s with wp := s.wp.mapThreads s.iss.lanes fun _ t => { t with pc := s.iss.pc + BitVec.ofNat 57 s.iss.len } }
/-- Some lanes of the group go on after the instruction. -/
def State.advanceLanes (s : State) (m : Mask) : State :=
  { s with wp := s.wp.mapThreads m fun _ t => { t with pc := s.iss.pc + BitVec.ofNat 57 s.iss.len } }
/-- The lanes of the group that stand eligible at the instruction go on after it; those that wait, are parked or were
sent elsewhere do not. -/
def State.goOn (s : State) : State :=
  s.advanceLanes (maskOf fun l => Mask.has s.iss.lanes l && (s.wp.thread l).status = .eligible &&
    (s.wp.thread l).pc = s.iss.pc)
/-- Set the status of some lanes. -/
def State.setStatus (s : State) (m : Mask) (st : Status) : State :=
  { s with wp := s.wp.mapThreads m fun _ t => { t with status := st } }
/-- The lanes wait, and their instruction is tested again when they are next offered (R96). -/
def State.waitRetry (s : State) (m : Mask) : State :=
  { s.setStatus m (.waiting .retry) with iss := { s.iss with stays := true } }

/-- The thread has not issued its instruction: it is parked at it, or waits to test it again. -/
def Thread.stands (t : Thread) : Bool :=
  match t.status with
  | .parked (.fault _) => true
  | .waiting .retry => true
  | _ => false
/-- The trap a thread has still to take: cause and TRAPADDR. -/
def Thread.owed (t : Thread) : Option (Nat × Nat) := match t.status with | .waiting (.trapping c a) => some (c, a) | _ => none
/-- The lanes of the group that have issued the instruction. -/
def State.issuers (s : State) : Mask := s.iss.lanes &&& s.wp.threads.mask fun t => !t.stands

/-- The warp has made an acquire at a turn: it sees every write made before (R300). -/
def Warp.sync (w : Warp) (turn : Nat) : Warp := { w with synced := turn, readAt := turn }
/-- The warp has made an acquire at `.pod` (R321). -/
def Warp.syncPod (w : Warp) (turn : Nat) : Warp := { w.sync turn with podAt := turn }
/-- The issuing warp has made an acquire. -/
def State.sync (s : State) : State := { s with wp := s.wp.sync s.turn }

/-! ## Reconvergence entries -/

/-- The thread waits at entry `k`. -/
def Thread.at (t : Thread) (k : Nat) : Bool :=
  match t.status with
  | .waiting (.rcv j _) => j = k
  | _ => false
/-- Threads of a warp that wait at entry `k`. -/
def Warp.waitingAt (w : Warp) (k : Nat) : Mask := w.threads.mask fun t => t.at k
/-- A waiting thread goes on after the instruction it waited at. -/
def Thread.resume (t : Thread) (len : Nat) : Thread := { t with status := .eligible, pc := t.pc + BitVec.ofNat 57 len }
/-- A thread released from a reconvergence entry goes on after its RCVWAIT (R158). -/
def Thread.leave (t : Thread) : Thread :=
  match t.status with
  | .waiting (.rcv _ len) => t.resume len
  | _ => t
/-- The release test of R158 at entry `k`. -/
def Warp.release (w : Warp) (k : Nat) : Warp :=
  let e := w.rcv.getD k 0
  if e != 0 && (e &&& w.live) &&& ~~~(w.waitingAt k) = 0 then
    { w.mapThreads (w.waitingAt k) (fun _ t => t.leave) with rcv := w.rcv.set k 0 }
  else w
/-- The release test at every entry. -/
def Warp.releaseAll (w : Warp) : Warp := (List.range w.rcv.length).foldl (fun w k => w.release k) w

end Sys2Proof.Machine
end

