-- ==== Sys2Proof/Machine/Memory.lean ====
section
/-! DEFINITION. Domain physical memory, translation (R208-R215) and the checks of R213. -/
namespace Sys2Proof.Machine

/-! ## Physical memory -/

/-- The node a domain physical address lies on, and its local address there (R211). -/
def nodeOf (pa : Nat) : Nat := bits pa 40 11
def localOf (pa : Nat) : Nat := bits pa 0 40

/-- The canonical form of memory. -/
def Memory.wf (m : List Host.Cell) : Bool := Tab.wf (0 : Byte) m

/-- A byte of domain physical memory. -/
def State.readPa (s : State) (pa : Nat) : Byte := Tab.get 0 s.mem pa
/-- Bytes of domain physical memory. -/
def State.readPas (s : State) (pa n : Nat) : List Byte := Tab.getMany 0 s.mem pa n
/-- A little-endian number of `n` bytes. -/
def State.readNum (s : State) (pa n : Nat) : Nat := ofBytes (s.readPas pa n)
/-- A granule is poisoned (R333). -/
def State.poisoned (s : State) (pa : Nat) : Bool := s.poison.contains (pa / 64)
/-- Poison the granule of an address. -/
def insertNat (x : Nat) : List Nat → List Nat
  | [] => [x]
  | y :: ys => if x < y then x :: y :: ys else if x = y then y :: ys else y :: insertNat x ys
def State.setPoison (s : State) (pa : Nat) : State := { s with poison := insertNat (pa / 64) s.poison }

/-! ## Translation -/

/-- What an access does at a page (R213). -/
inductive Acc where
  | load
  | store
  | fetch
  deriving DecidableEq, Repr

/-- A translated address and the rights of its leaf or of the heap window. -/
structure Leaf where
  pa     : Nat
  w      : Bool
  x      : Bool
  sealed : Bool
  key    : Nat
  heap   : Bool
  /-- Where its table entry stands, and its level. -/
  entry  : Nat
  level  : Nat
  /-- It belongs to a contiguous group (R211). -/
  contig : Bool
  /-- It names a key slot for a frame of another node, which R211 forbids to software. -/
  stray  : Bool
  deriving DecidableEq, Repr
/-- Bytes of the page a TLB entry of the leaf holds: 4 KiB, 64 KiB, 2 MiB or 64 MiB (R211, R212). -/
def Leaf.span (l : Leaf) : Nat :=
  if l.level = 2 then (if l.contig then 2 ^ 26 else 2 ^ 21) else if l.contig then 2 ^ 16 else 2 ^ 12

/-- The outcome of a translation. -/
inductive Xlat where
  | ok (l : Leaf)
  /-- XLATE with its KIND (R213). -/
  | fail (kind : Nat)
  /-- The leaf is on demand (R214). -/
  | demand
  /-- A walk met an uncorrectable error (R333). -/
  | fatal
  deriving DecidableEq, Repr

/-- A reserved bit of an entry is set (R211). -/
def entryReserved (e : Nat) : Bool := bits e 52 2 != 0 || bit e 51 || bits e 7 4 != 0 || bit e 4
/-- FRAME of an entry, as an address. -/
def entryFrame (e : Nat) : Nat := bits e 12 40 * 4096
/-- An entry of a contiguous group at `level`: 16 of level 1 form 64 KiB, 32 of level 2 form 64 MiB (R211). -/
def groupEntries (level : Nat) : Nat := if level = 2 then 32 else 16
/-- The group entry `i` of a table belongs to: the numbers and entries of its valid leaves marked C. -/
def State.groupOf (s : State) (table i level : Nat) : List (Nat × Nat) :=
  let g := groupEntries level
  ((List.range g).map fun j => (i / g * g + j, s.readNum (table + 8 * (i / g * g + j)) 8)).filter fun p =>
    bit p.2 0 && bit p.2 6 && bit p.2 11 && !entryReserved p.2
/-- A contiguous group is as software must make it: whole, aligned, with equal attributes and consecutive frames. -/
def groupGood (g : List (Nat × Nat)) (level : Nat) : Bool :=
  match g with
  | [] => false
  | (i0, e0) :: _ =>
    let size := 2 ^ (9 * level + 3)
    g.length = groupEntries level && entryFrame e0 % (size * groupEntries level) = 0 &&
    g.all fun p => entryFrame p.2 = entryFrame e0 + (p.1 - i0) * size && p.2 - entryFrame p.2 = e0 - entryFrame e0
/-- The address that entry `e` of a table gives as a leaf, with the size of the page it stands for. -/
def State.leafOfEntry (s : State) (va level at_ e size : Nat) : Leaf :=
  let pa := entryFrame e / 2 ^ size * 2 ^ size + bits va 0 size
  ⟨pa, bit e 1, bit e 2, bit e 5, bits e 54 10, false, at_, level, bit e 11, bits e 54 10 != 0 && nodeOf pa != s.node⟩
/-- The leaf an address takes from its own entry, or, in a malformed contiguous group, either from it or from another entry
of the group (R211, R10). -/
def State.leafFor (s : State) (va level table i e : Nat) : Leaf :=
  let own := s.leafOfEntry va level (table + 8 * i) e (9 * level + 3)
  if !bit e 11 then own
  else
    let g := s.groupOf table i level
    if groupGood g level then own
    else match g[Config.groupPick s.turn va % (g.length + 1)]? with
      | some (j, x) => s.leafOfEntry va level (table + 8 * j) x (9 * level + 3 + if level = 2 then 5 else 4)
      | none => own
/-- The walk from level `n`, whose table stands at `table` (R211). -/
def State.walk (s : State) (va : Nat) : Nat → Nat → Xlat
  | 0, _ => .fail 3
  | n + 1, table =>
    let at_ := table + 8 * bits va (12 + 9 * n) 9
    let e := s.readNum at_ 8
    if s.poisoned at_ then .fatal
    else if !bit e 0 && !bit e 3 then .fail 0
    else if entryReserved e then .fail 3
    else
      let leaf := bit e 6
      if (n = 0 && !leaf) || (n ≥ 2 && leaf) || (!leaf && !bit e 0) then .fail 3
      else if leaf then
        if !bit e 0 then .demand else .ok (s.leafFor va (n + 1) table (bits va (12 + 9 * n) 9) e)
      else s.walk va n (bits e 12 40 * 4096)

/-- The address lies in the heap window (R210). -/
def Ctx.inHeap (c : Ctx) (va : Nat) : Bool :=
  c.heapcfg.getLsbD 0 && c.heapbase.toNat ≤ va && va < c.heaplimit.toNat
/-- Translate a generic address of a context (R208-R211). -/
def State.xlat (s : State) (c : Ctx) (va : Nat) : Xlat :=
  if va ≥ 2 ^ 57 then .fail 1
  else if c.inHeap va then
    .ok ⟨(va + c.heapoff.toNat) % 2 ^ 51, c.heapcfg.getLsbD 1, false, false, bits c.heapcfg.toNat 32 10, true, 0, 0, false, false⟩
  else s.walk va 5 (bits c.ptroot.toNat 12 40 * 4096)

/-- A key slot is usable by a context: slot 0, or one it owns (R215). -/
def State.keyOk (s : State) (ctx slot : Nat) : Bool :=
  slot = 0 || s.keys.any fun k => k.slot = slot && k.owner = ctx
/-- The address lies in a region only the device reaches (R370). -/
def Ctx.inRegions (c : Ctx) (va : Nat) : Bool :=
  let r := c.regions
  (r.cellar ≤ va && va < r.cellar + r.cellarSz) || (r.attic ≤ va && va < r.attic + 4352 * r.atticN) ||
  (r.save ≤ va && va < r.save + r.saveSz)

/-! ## The checks of R213 -/

/-- The first failure of an access (R213): a trap cause of R310 with its KIND and address, a serviceable fault, or a
walk that met an uncorrectable error, or a violation. -/
inductive Fail where
  | trap (cause kind addr : Nat)
  | demand (addr : Nat)
  | fatal
  /-- The access reaches memory of a management queue: a violation with its address (R352, R367). -/
  | violation (addr : Nat)
  deriving DecidableEq, Repr

/-- TRAPADDR of the generic causes (R213). -/
def Fail.addr : Fail → DWord
  | .trap _ kind a => BitVec.ofNat 64 (kind * 2 ^ 60 + a % 2 ^ 57)
  | .demand a => BitVec.ofNat 64 a
  | .fatal => 0
  | .violation _ => 0

/-- An access of `n` bytes at `va` (modulo 2^64) cut where pages end: each part's address and length. -/
def chunks (va : Nat) : Nat → Nat → List (Nat × Nat)
  | 0, _ => []
  | fuel + 1, n =>
    if n = 0 then [] else
    let v := va % 2 ^ 64
    let k := min n (4096 - v % 4096)
    (v, k) :: chunks (v + k) fuel (n - k)
/-- The parts of an access. -/
def parts (va n : Nat) : List (Nat × Nat) := chunks va (n / 4096 + 2) n

/-- Step 5 of R213 for one page: the lowest PROTECTION kind that fails. -/
def State.protKind (s : State) (c : Ctx) (acc : Acc) (va : Nat) (l : Leaf) : Option Nat :=
  if acc = .store && !l.w then some 0
  else if acc = .fetch && !l.x then some 1
  else if !s.keyOk c.id l.key then some 2
  else if c.inRegions va then some 3
  else none

/-- The bytes from a physical address belong to a management queue: its ring or its watched line (R367). -/
def MgmtQueue.holds (m : MgmtQueue) (pa n : Nat) : Bool :=
  (m.base < pa + n && pa < m.base + 64 * 2 ^ m.log2) || (m.watch < pa + n && pa < m.watch + 64)
/-- Steps 2 to 6 of R213 over the parts of an access, in the order of the steps. -/
def State.checkParts (s : State) (c : Ctx) (acc : Acc) (ps : List (Nat × Nat)) : Option Fail :=
  let xs := ps.map fun p => (p.1, s.xlat c p.1)
  let pick (f : Nat × Xlat → Option Fail) : Option Fail := (xs.filterMap f).head?
  (pick fun p => if p.1 ≥ 2 ^ 57 then some (.trap 0x0B 1 p.1) else none).orElse fun _ =>
  (pick fun p => match p.2 with
    | .fail k => some (.trap 0x0B k p.1)
    | .fatal => some .fatal
    | _ => none).orElse fun _ =>
  (pick fun p => match p.2 with | .demand => some (.demand p.1) | _ => none).orElse fun _ =>
  (pick fun p => match p.2 with
    | .ok l => (s.protKind c acc p.1 l).map fun k => .trap 0x0C k p.1
    | _ => none).orElse fun _ =>
  (pick fun p => match p.2 with
    | .ok l => if acc = .store && l.sealed then some (.trap 0x0A 0 p.1) else none
    | _ => none).orElse fun _ =>
  (ps.find? fun p => match s.xlat c p.1 with
    | .ok l => s.mgmt.any fun m => m.holds l.pa p.2
    | _ => false).map fun p => .violation p.1

/-- Steps 1 to 6 of R213: `need` is the natural alignment required, 1 for none. -/
def State.check (s : State) (c : Ctx) (acc : Acc) (va n need : Nat) : Option Fail :=
  if va % need != 0 then some (.trap 0x08 0 va) else s.checkParts c acc (parts va n)

/-- The physical parts of an access that passed its checks: address and length. -/
def State.segs (s : State) (c : Ctx) (va n : Nat) : List (Nat × Nat) :=
  (parts va n).filterMap fun p => match s.xlat c p.1 with | .ok l => some (l.pa, p.2) | _ => none
/-- The granules of a physical part. -/
def granules (pa n : Nat) : List Nat :=
  if n = 0 then [] else (List.range ((pa + n - 1) / 64 - pa / 64 + 1)).map (pa / 64 + ·)
/-- Step 7 of R213: the lowest byte of a load whose granule is poisoned or whose node is lost (R364). -/
def State.consumed (s : State) (c : Ctx) (va n : Nat) : Option Nat :=
  ((parts va n).flatMap fun p =>
    match s.xlat c p.1 with
    | .ok l => (granules l.pa p.2).filterMap fun g =>
        if s.poison.contains g || s.lostNodes.contains (nodeOf (g * 64)) then
          some (p.1 + (max (g * 64) l.pa - l.pa)) else none
    | _ => []).head?

/-- The offsets of the bytes of a range that are poisoned, or lie on a lost node. -/
def State.badBytes (s : State) (c : Ctx) (va n : Nat) : List Nat :=
  if (s.consumed c va n).isNone then [] else (List.range n).filter fun i => (s.consumed c (va + i) 1).isSome

/-! ## Reading and writing generic memory -/

/-- The name of the key in a slot: 0 for plaintext (R215). -/
def State.keyName (s : State) (slot : Nat) : Nat :=
  if slot = 0 then 0 else ((s.keys.find? fun k => k.slot = slot).map fun (k : KeySlot) => k.key.toNat + 1).getD 0
/-- The key under which a context reads a byte: that of its own copy of the line, which stands in a cache as it was deciphered when it
entered (R215, R219), else that of the translation. -/
def State.cachedKey (s : State) (ctx key pa : Nat) : Nat :=
  ((s.caches.find? fun x => x.ctx = ctx && x.line = pa / 128).map CacheLine.key).getD key
/-- What a byte of memory that stands as `x` reads as for a context through a key (R215): plaintext when it was last written under
the key it is deciphered with. -/
def State.keyed (s : State) (ctx key pa : Nat) (x : Byte) : Byte :=
  if s.units.isEmpty && key = 0 then x
  else
    let u := Tab.get (0, 0) s.units (pa / 256)
    let k := Tab.get 0 s.written pa
    let by_ := s.cachedKey ctx key pa
    if k = u.2 && u.1 = by_ then x else Config.garble u.1 (u.2 - k) by_ pa x (s.readPas (pa / 16 * 16) 16)
/-- A byte of memory as a context reads it through a key. -/
def State.readKey (s : State) (ctx key pa : Nat) : Byte := s.keyed ctx key pa (s.readPa pa)
/-- Unpredictable bytes at an address (R11). -/
def State.freeBytes (s : State) (va n : Nat) : List Byte :=
  (List.range n).map fun i => (Config.freeWord s.free (s.turn * 2 ^ 64 + va + i)).setWidth 8
/-- The bytes a context reads at a leaf: unpredictable at one that R211 forbids (R9). -/
def State.readLeaf (s : State) (ctx n : Nat) (l : Leaf) : List Byte :=
  if l.stray then s.freeBytes l.pa n
  else
    let key := s.keyName l.key
    (List.range n).map fun i => s.readKey ctx key (l.pa + i)
/-- Read `n` bytes of generic memory that passed their checks. -/
def State.loadVa (s : State) (c : Ctx) (va n : Nat) : List Byte :=
  (parts va n).flatMap fun p => match s.xlat c p.1 with | .ok l => s.readLeaf c.id p.2 l | _ => []

/-- The watched lines a store of `n` bytes at `pa` touches (R29, R367). -/
def State.touchedQueues (s : State) (pa n : Nat) : List QueueRef :=
  let hit (w : Nat) : Bool := w < pa + n && pa < w + 64
  (s.ctxs.flatMap fun c => c.queues.filterMap fun q =>
    match s.xlat c q.watch with
    | .ok l => if hit l.pa then some (.launch c.id q.id) else none
    | _ => none) ++
  s.mgmt.filterMap fun m => if hit m.watch then some (.mgmt m.q) else none

/-- An EVWAIT of a context waits for a word of a line that a write of `n` bytes at `pa` touches (R289). -/
def State.evTouched (s : State) (c : Ctx) (e : EvWait) (pa n : Nat) : Bool :=
  (Mask.lanes e.left).any fun l => match s.xlat c (e.addr.at l).toNat with
    | .ok x => x.pa / 64 * 64 < pa + n && pa < x.pa / 64 * 64 + 64
    | _ => false
/-- What a write of `n` bytes at `pa` brings about: the device reads TAIL of the queues whose watched line it touches again, and
the EVWAITs whose line it touches read again. -/
def State.written_ (s : State) (pa n : Nat) : List Instr :=
  ((s.touchedQueues pa n).map Instr.tailReread) ++
  s.blocksNow.flatMap fun b => match s.ctx? b.ctx with
    | some c => (b.evwaits.filter fun e => s.evTouched c e pa n).map fun e => .evwaitReread b.id e.warp
    | none => []
/-- The units of a range stand under a key from now on, and its bytes were written under it (R215). -/
def State.rekey (s : State) (key pa n : Nat) : State :=
  if s.units.isEmpty && key = 0 then s
  else
    let us := (List.range ((pa + n - 1) / 256 - pa / 256 + 1)).map (pa / 256 + ·)
    let step (t : Tab (Nat × Nat)) (u : Nat) : Tab (Nat × Nat) :=
      let x := Tab.get (0, 0) t u
      if x.1 = key then t else Tab.set (0, 0) t u (key, x.2 + 1)
    let t := us.foldl step s.units
    { s with
      units := t
      written := (List.range n).foldl (fun w i => Tab.set 0 w (pa + i) (Tab.get (0, 0) t ((pa + i) / 256)).2) s.written }
/-- Who writes: a warp of a block, or the device with block 0; and the turn before which all that happens before the write was made. -/
structure Writer where
  blk  : Nat
  warp : Nat
  dep  : Nat
/-- The device writes, and no access happens before its write in this sense. -/
def Writer.device : Writer := ⟨0, 0, 0⟩
/-- The piece of an access of `n` bytes at `pa` that byte `a` lies in, by address and length (R221): an access that is aligned is one
piece; one of up to 16 bytes that is not is cut at every multiple of 8, and a longer one at every multiple of 16 (R290). -/
def pieceOf (pa n a : Nat) : Nat × Nat :=
  if [1, 2, 4, 8, 16].contains n && pa % n = 0 then (pa, n)
  else
    let k := if n ≤ 16 then 8 else 16
    let lo := max pa (a / k * k)
    (lo, min (pa + n) (a / k * k + k) - lo)
/-- The writes of a byte that a party may miss once another has been made: it joins those made in the same piece, and makes every party
know the others. -/
def Late.join (x : Late) (xs : List Late) : List Late := if xs.all fun y => y.piece = x.piece && y.len = x.len then x :: xs else [x]
/-- The turn up to which a write of a byte makes every party know what was written. -/
def Late.settles (x : Late) (xs : List Late) : Nat :=
  if xs.all fun y => y.piece = x.piece && y.len = x.len then 0 else (xs.map Late.turn).foldl max 0
/-- What `n` bytes at `pa`, which were `old`, can be missed as once they have been written in a turn; and the turn up to which no write is
missed. -/
def lateAfter (turn : Nat) (w : Writer) (pa : Nat) (old : List Byte) (t : Tab (List Late)) (settled : Nat) : Tab (List Late) × Nat :=
  let n := old.length
  let x (q : (Byte × List Late) × Nat) : Late :=
    let p := pieceOf pa n (pa + q.2)
    ⟨turn, w.dep, w.blk, w.warp, p.1, p.2, q.1.1⟩
  let was := (old.zip (Tab.getMany [] t pa n)).zipIdx
  (Tab.setMany [] t pa (was.map fun q => (x q).join q.1.2), was.foldl (fun a q => max a ((x q).settles q.1.2)) settled)
/-- Write bytes at a physical address under a key: a party that nothing orders after it may miss the write (R301); a granule it covers
whole loses its poison (R333), the guard tags of the blocks are formed afresh (R290), and a write to a watched line makes the device
read TAIL again (R29). -/
def State.writeKey (s : State) (w : Writer) (key pa : Nat) (bs : List Byte) : State :=
  let n := bs.length
  let l := lateAfter s.turn w pa (s.readPas pa n) s.late s.settled
  let s1 := { s.rekey key pa n with
    mem := Tab.setMany 0 s.mem pa bs
    late := l.1
    settled := l.2
    tags := s.tags.filter fun t => !(t.1 * 256 < pa + n && pa < t.1 * 256 + 256)
    poison := s.poison.filter fun g => !(pa ≤ g * 64 && g * 64 + 64 ≤ pa + n) }
  (s1.written_ pa n).foldl State.push s1
/-- Write bytes as plaintext, as the device writes its own structures. -/
def State.writePa (s : State) (pa : Nat) (bs : List Byte) : State := s.writeKey .device 0 pa bs
/-- Write bytes at a leaf: unpredictable ones at a leaf that R211 forbids (R9). -/
def State.writeLeaf (s : State) (w : Writer) (l : Leaf) (bs : List Byte) : State :=
  s.writeKey w (s.keyName l.key) l.pa (if l.stray then s.freeBytes l.pa bs.length else bs)
/-- Write the parts of a store in ascending order. -/
def State.writeLeaves (s : State) (w : Writer) : List (Leaf × Nat) → List Byte → State
  | [], _ => s
  | (l, n) :: rest, bs => (s.writeLeaf w l (bs.take n)).writeLeaves w rest (bs.drop n)
/-- The leaves of the parts of an access that passed its checks, with the length of each. -/
def State.leaves (s : State) (c : Ctx) (va n : Nat) : List (Leaf × Nat) :=
  (parts va n).filterMap fun p => match s.xlat c p.1 with | .ok l => some (l, p.2) | _ => none
/-- Write bytes to generic memory of a context; parts whose address does not translate are not written. -/
def State.storeBy (s : State) (w : Writer) (c : Ctx) (va : Nat) (bs : List Byte) : State := s.writeLeaves w (s.leaves c va bs.length) bs
/-- The device writes generic memory of a context. -/
def State.storeVa (s : State) (c : Ctx) (va : Nat) (bs : List Byte) : State := s.storeBy .device c va bs
/-- Write a little-endian number of `n` bytes. -/
def State.storeNum (s : State) (c : Ctx) (va x n : Nat) : State := s.storeVa c va (bytesOf x n)
/-- Every page of a range has a valid leaf: an address of the heap window has none (R210, R211). -/
def State.leafed (s : State) (c : Ctx) (va n : Nat) : Bool :=
  (parts va n).all fun p => match s.xlat c p.1 with | .ok l => !l.heap | _ => false
/-- Every byte of a range translates and can be reached by the device. -/
def State.mapped (s : State) (c : Ctx) (va n : Nat) : Bool :=
  (parts va n).all fun p => match s.xlat c p.1 with | .ok _ => true | _ => false

/-- The node is live (R47): a compute node until DONE_CONFIRMED or SUSPECT, another until its final status. -/
def Node.isLive (n : Node) : Bool := n.final = 0 || n.final = 1 || n.final = 3
/-- Slots of a launch queue's ring whose record the device has not taken, by TAIL as it stands (R30). DEDUCED (log 148). -/
def State.untaken (s : State) (c : Ctx) (q : LaunchQ) : List (Nat × Nat) :=
  let tail := ofBytes (s.loadVa c q.watch 4)
  (List.range (min ((tail + 2 ^ 32 - q.head) % 2 ^ 32) (2 ^ q.log2))).map fun i => (q.base + 128 * ((q.head + i) % 2 ^ q.log2), 128)
/-- Ranges that software of a context must not write: HEAD of its launch queues and the slots of records that have not been taken (R30),
the completion records of nodes that are live (R47), the suspect-list region while a compute node is (R370), and what UNSEAL has made
writable and no FENCE has covered (R237). -/
def State.forbidden (s : State) (c : Ctx) : List (Nat × Nat) :=
  (c.queues.map fun q => (q.watch + 8, 4)) ++ (c.queues.flatMap (s.untaken c)) ++
  ((c.nodes.filter Node.isLive).map fun n => (n.record.doneaddr, 64)) ++
  (if c.nodes.any fun n => n.record.kind = 0 && n.isLive then [(c.regions.suspect, c.regions.suspectSz)] else []) ++
  (s.unfenced.filter fun u => u.ctx = c.id).map fun u => (u.va, u.len)
/-- The reserved bytes of the watched lines of a context's launch queues, where software must write zero (R29). -/
def Ctx.zeroed (c : Ctx) : List (Nat × Nat) := c.queues.flatMap fun q => [(q.watch + 4, 4), (q.watch + 12, 52)]
/-- The byte at an address is one of a range. -/
def inRange (a : Nat) (r : Nat × Nat) : Bool := r.1 ≤ a && a < r.1 + r.2
/-- Two ranges have a byte in common. -/
def overlaps (va n : Nat) (r : Nat × Nat) : Bool := va < r.1 + r.2 && r.1 < va + n
/-- Where ranges of each context stand in domain physical memory. -/
def State.ranges (s : State) (f : Ctx → List (Nat × Nat)) : List (Nat × Nat) :=
  s.ctxs.flatMap fun c => (f c).flatMap fun r => s.segs c r.1 r.2
/-- No byte of a physical range is one that software must not write. -/
def State.mayWrite (s : State) (pa n : Nat) : Bool := !(s.ranges s.forbidden).any (overlaps pa n)
/-- A write of software of `n` bytes `f` does what it must not: it touches a byte that it must not write, or writes a reserved one that is
not zero. -/
def State.offendsPa (s : State) (pa n : Nat) (f : Nat → Byte) : Bool :=
  !s.mayWrite pa n ||
  (let zeroed := s.ranges Ctx.zeroed
   zeroed.any (overlaps pa n) && (List.range n).any fun i => f i != 0 && zeroed.any (inRange (pa + i)))
/-- A write of `n` bytes `f` at generic addresses of a context does what it must not. -/
def State.offendsBy (s : State) (c : Ctx) (va n : Nat) (f : Nat → Byte) : Bool :=
  (parts va n).any fun p => match s.xlat c p.1 with
    | .ok l => s.offendsPa l.pa p.2 fun i => f ((p.1 + i + 2 ^ 64 - va % 2 ^ 64) % 2 ^ 64)
    | _ => false
def State.offends (s : State) (c : Ctx) (va : Nat) (bs : List Byte) : Bool := s.offendsBy c va bs.length fun i => bs.getD i 0
/-- What a write of software leaves in memory: an unpredictable value in every byte it writes when it does what it must not (R9, log 166). -/
def State.given (s : State) (c : Ctx) (va : Nat) (bs : List Byte) : List Byte :=
  if s.offends c va bs then s.freeBytes va bs.length else bs

/-! ## Caches -/

/-- The line of 128 bytes an address lies in. -/
def lineOf (pa : Nat) : Nat := pa / 128
/-- The die a local physical address is homed on (R218). -/
def homeDie (pa : Nat) : Nat := localOf pa / 2 ^ 38
/-- The format window a context's line lies in: the lowest enabled one it owns (R225, R226). -/
def FmtWin.enabled (w : FmtWin) : Bool :=
  w.ctl.getLsbD 0 && [3, 4, 5, 8, 9, 10, 11].contains (bits w.ctl.toNat 40 4)
def FmtWin.owner (w : FmtWin) : Nat := bits w.ctl.toNat 52 12
def FmtWin.fmt (w : FmtWin) : Nat := bits w.ctl.toNat 40 4
def FmtWin.rowb (w : FmtWin) : Nat := bits w.ctl.toNat 16 12
def FmtWin.base (w : FmtWin) : Nat := bits w.range.toNat 0 28 * 4096
def FmtWin.limit (w : FmtWin) : Nat := bits w.range.toNat 28 28 * 4096
def FmtWin.covers (w : FmtWin) (pa : Nat) : Bool := w.base ≤ localOf pa && localOf pa < w.limit
/-- The format window an address of a context lies in. -/
def State.windowAt (s : State) (ctx pa : Nat) : Option Nat :=
  let ws := s.windows.filter fun w => w.enabled && w.owner = ctx && w.covers pa && nodeOf pa = s.node
  ws.foldl (fun a w => match a with | none => some w.index | some i => some (min i w.index)) none
/-- Two lines stand in one cache. -/
def CacheLine.with_ (x y : CacheLine) : Bool := x.level = y.level && x.unit = y.unit
/-- Remove the last element a test holds for. -/
def dropLast? {α : Type} (p : α → Bool) (xs : List α) : List α := (xs.reverse.eraseP p).reverse
/-- Put a line into a cache: it joins the copy under the same context ID, which keeps its key and its tag (R215, R226), and a copy under
another ID is dropped, written back, unless both are sealed (R219). A cache that is full lets the oldest line go that is not pinned.
DESIGN CHOICE (log 121). -/
def insertLine (pins : List Pin) (x : CacheLine) (cs : List CacheLine) : List CacheLine :=
  let at_ (y : CacheLine) : Bool := y.with_ x && y.line = x.line
  let old := cs.find? fun y => at_ y && y.ctx = x.ctx
  let new := match old with | some y => { y with sealed := x.sealed, sectors := x.sectors ||| y.sectors, dirty := x.dirty ||| y.dirty } | none => x
  if old = some new then cs
  else
    let rest := cs.filter fun y => !(at_ y && (y.ctx = x.ctx || !(y.sealed && x.sealed)))
    new :: if (rest.filter fun y => y.with_ x).length < Config.cacheLines x.level then rest
      else dropLast? (fun y => y.with_ x && !(x.level = 1 && pins.any fun p => p.line = y.line)) rest
/-- Put lines into the caches. -/
def State.cache (s : State) (ls : List CacheLine) : State :=
  { s with caches := ls.foldl (fun cs x => insertLine s.pins x cs) s.caches }
/-- The 32-byte sectors of a line that a range of bytes touches. -/
def sectorsOf (pa n : Nat) : BitVec 4 :=
  BitVec.ofNat 4 (bitsOf (fun i => pa % 128 < 32 * i + 32 && 32 * i < pa % 128 + n) 4)
/-- The cache between a die and a line's home: the home L2 on the home die, else the RDC (R218). -/
def State.midOf (s : State) (die pa : Nat) : Nat := if nodeOf pa = s.node && homeDie pa = die then 1 else 2
/-- A context's copy of the line of an address. -/
def State.copyOf (s : State) (ctx pa : Nat) : Option CacheLine := s.caches.find? fun x => x.ctx = ctx && x.line = lineOf pa
/-- The tag with which a line of a context enters a cache: that of a copy it has, else that of the window it lies in (R226). -/
def State.tagAt (s : State) (ctx pa : Nat) : Option Nat :=
  match s.copyOf ctx pa with
  | some x => x.window
  | none => s.windowAt ctx pa
/-- The copies of a line of which a core reads `n` bytes through a key, from the level `top` down (R218): its L1, the home L2 or the RDC of
its die, and the base-die cache of its stack. -/
def State.copies (s : State) (ctx core key pa n : Nat) (sealed : Bool) (top : Nat) : List CacheLine :=
  let w := s.tagAt ctx pa
  let k := s.cachedKey ctx key pa
  let at_ (level unit : Nat) : CacheLine :=
    ⟨level, unit, ctx, lineOf pa, sealed, k, w, if level = 0 then sectorsOf pa n else 15, 0⟩
  (if top = 0 then [at_ 0 core] else []) ++ (if top ≤ 1 then [at_ (s.midOf (dieOf core) pa) (dieOf core)] else []) ++
  if nodeOf pa = s.node then [at_ 3 (localOf pa / 2 ^ 36)] else []
/-- A core reads `n` bytes of a line through a key: it enters the caches on its way. -/
def State.fill (s : State) (ctx core key pa n : Nat) (sealed : Bool) : State := s.cache (s.copies ctx core key pa n sealed 0)
/-- The bytes of a line that `n` bytes at an address are. -/
def lineMask (pa n : Nat) : Mask := maskOf fun i => pa % 128 ≤ i && i < pa % 128 + n
/-- Bytes of a line become dirty in one cache. -/
def State.soilAt (s : State) (level unit ctx key pa n : Nat) : State :=
  s.cache [⟨level, unit, ctx, lineOf pa, false, s.cachedKey ctx key pa, s.tagAt ctx pa, 15, lineMask pa n⟩]
/-- A core writes bytes of a line: they are dirty in the home L2 or in the RDC of its die; the L1 is written through (R218). -/
def State.soil (s : State) (ctx core key pa n : Nat) : State := s.soilAt (s.midOf (dieOf core) pa) (dieOf core) ctx key pa n
/-- An atomic writes bytes of a line at its home: they are dirty in the home L2 of this package, or lie at another node (R218); an RDC
holds them no longer dirty. -/
def State.soilHome (s : State) (ctx key pa n : Nat) : State :=
  let s1 : State := { s with caches := s.caches.map fun x =>
    if x.level = 2 && x.line = lineOf pa then { x with dirty := x.dirty &&& ~~~(lineMask pa n) } else x }
  if nodeOf pa = s.node then s1.soilAt 1 (homeDie pa) ctx key pa n else s1
/-- A TLB takes an entry; one that is full lets the oldest go. -/
def tlbAdd (size : Nat) (e : TlbEntry) (t : List TlbEntry) : List TlbEntry := if t.contains e then t else (e :: t).take size
/-- A translation enters a core's TLB and its die's last-level TLB (R212). -/
def State.fillTlb (s : State) (core ctx va : Nat) (l : Leaf) : State :=
  if l.heap then s
  else
    let e : TlbEntry := ⟨ctx, va / l.span * l.span / 4096, l.span⟩
    { s.modCore core fun c => { c with tlb := tlbAdd Config.coreTlb e c.tlb } with
      dies := setAt s.dies (dieOf core) fun d => { d with tlb := tlbAdd Config.dieTlb e d.tlb } }
/-- The table entries a walk from level `n` reads. -/
def State.walkPath (s : State) (va : Nat) : Nat → Nat → List Nat
  | 0, _ => []
  | n + 1, table =>
    let at_ := table + 8 * bits va (12 + 9 * n) 9
    let e := s.readNum at_ 8
    at_ :: if bit e 0 && !bit e 6 then s.walkPath va n (entryFrame e) else []
/-- The context ID under which walkers read tables (R212). DESIGN CHOICE (log 122). -/
def walkerId : Nat := 0xFFF
/-- A walk for a core reads its tables through the caches of its die (R212). -/
def State.walkFill (s : State) (core : Nat) (c : Ctx) (va : Nat) : State :=
  if va ≥ 2 ^ 57 || c.inHeap va then s
  else (s.walkPath va 5 (bits c.ptroot.toNat 12 40 * 4096)).foldl
    (fun s a => s.cache (s.copies walkerId core 0 a 8 false 1)) s
/-- A core translates addresses of a context: a page that its TLB does not hold is walked for (R212). -/
def State.missTlb (s : State) (core : Nat) (c : Ctx) (vas : List Nat) : State :=
  vas.foldl (fun s va =>
    let walk : Instr := .pageWalk core c.id (va / 4096 * 4096)
    match s.xlat c va with
    | .ok l =>
      if l.heap || (s.core core).tlb.contains ⟨c.id, va / l.span * l.span / 4096, l.span⟩ || s.agenda.contains walk then s
      else s.push walk
    | _ => s) s
/-- The line-sized pieces of a physical range. -/
def linePieces (pa n : Nat) : List (Nat × Nat) :=
  if n = 0 then [] else (List.range ((pa + n - 1) / 128 - pa / 128 + 1)).map fun i =>
    let a := max pa ((pa / 128 + i) * 128)
    (a, min (pa + n) ((pa / 128 + i + 1) * 128) - a)
/-- An acquire (R220): wider than `.core` the core's L1 drops what is not sealed; at `.pkg` or wider the die's RDC too, its dirty
bytes written back. So it does at `.quad`. DESIGN CHOICE (log 164). -/
def State.acquire (s : State) (core scope : Nat) : State :=
  { s with caches := s.caches.filter fun x =>
      x.sealed || !((scope ≥ 1 && x.level = 0 && x.unit = core) || (scope ≥ 3 && x.level = 2 && x.unit = dieOf core)) }
/-- A release (R220): at `.pkg` or wider the die's RDC sends its dirty bytes to their homes. -/
def State.release (s : State) (core scope : Nat) : State :=
  { s with caches := s.caches.map fun x => if scope ≥ 3 && x.level = 2 && x.unit = dieOf core then { x with dirty := 0 } else x }
/-- The release of an ORD code (R228), when it has one: before the access performs. -/
def State.before (s : State) (core ord : Nat) : State :=
  if ord ≤ 5 then s else s.release core (if ord ≤ 10 then ord - 6 else ord - 11)
/-- The acquire of an ORD code, when it has one. -/
def State.order (s : State) (core ord : Nat) : State :=
  if 1 ≤ ord && ord ≤ 5 then s.acquire core (ord - 1) else if 11 ≤ ord then s.acquire core (ord - 11) else s
/-- Before which turn the accesses that happen before a warp's plain store were made. -/
def State.depOf (s : State) (blk warp : Nat) : Nat :=
  (((s.block? blk).bind fun b => b.warp? warp).map fun (w : Warp) => max w.synced w.readAt).getD s.turn
/-- The last turn before `n` at which a test holds, and the next. -/
def lastTurn (p : Nat → Bool) : Nat → Nat
  | 0 => 0
  | n + 1 => if p n then n + 1 else lastTurn p n
/-- A warp sees a write of a byte (R298, R301, R308): the write is its own, or it has made an acquire since, or caught up with all
writes, or, when it has with those on which this one rests, looked at the piece afresh. -/
def State.sees (s : State) (blk : Nat) (w : Warp) (x : Late) : Bool :=
  let known := max (max s.settled w.synced) (lastTurn (Config.catchesUp blk w.idx) s.turn)
  (x.blk = blk && x.warp = w.idx) || x.turn ≤ known ||
    (x.dep ≤ known && x.turn ≤ lastTurn (Config.looksAt blk w.idx x.piece) s.turn)
/-- What a byte was before the last writes of it that a party misses. -/
def pastByte (sees : Late → Bool) : List Late → Byte → Byte
  | [], b => b
  | x :: xs, b => if sees x then b else pastByte sees xs x.old
/-- The byte a plain load of a warp finds in memory. -/
def State.seenPa (s : State) (blk : Nat) (w : Warp) (pa : Nat) : Byte :=
  pastByte (s.sees blk w) (Tab.get [] s.late pa) (s.readPa pa)
/-- The bytes a plain load of a warp returns at a leaf: those of a sealed page are the latest (R306). -/
def State.seenLeaf (s : State) (ctx blk : Nat) (w : Warp) (n : Nat) (l : Leaf) : List Byte :=
  if l.stray || l.sealed then s.readLeaf ctx n l
  else
    let key := s.keyName l.key
    (List.range n).map fun i => s.keyed ctx key (l.pa + i) (s.seenPa blk w (l.pa + i))
/-- The bytes a plain load of the issuing warp returns (R297-R301). -/
def State.seenVa (s : State) (c : Ctx) (va n : Nat) : List Byte :=
  (parts va n).flatMap fun p => match s.xlat c p.1 with | .ok l => s.seenLeaf c.id s.blk.id s.wp p.2 l | _ => []
/-- What a byte was before up to some number of its last writes, none made before a turn (R249, R304). -/
def agedByte (known : Nat) : Nat → List Late → Byte → Byte
  | k + 1, x :: xs, b => if x.turn ≤ known then b else agedByte known k xs x.old
  | _, _, b => b
/-- A byte as an engine read finds it: `n` is the draw, and no write up to the turn `known` is missed. -/
def engineByte (n known a : Nat) (xs : List Late) (b : Byte) : Byte :=
  match xs with
  | [] => b
  | x :: _ => agedByte known (Config.engineAge n (a / 4) x.piece) xs b
/-- The bytes an engine read returns of generic memory (R249, R304): a 4-byte piece holds an old value, or its new one, when it was written
after `known`. -/
def State.engineVa (s : State) (c : Ctx) (known va n : Nat) : List Byte :=
  (parts va n).flatMap fun p => match s.xlat c p.1 with
    | .ok l =>
      if l.stray || l.sealed then s.readLeaf c.id p.2 l
      else (List.range p.2).map fun i =>
        let pa := l.pa + i
        s.keyed c.id (s.keyName l.key) pa (engineByte s.free (max known s.settled) pa (Tab.get [] s.late pa) (s.readPa pa))
    | _ => []
/-- The lines that a range of a context touches: the name of the key, and each line's part. -/
def State.keyedPieces (s : State) (c : Ctx) (va n : Nat) : List (Nat × Nat × Nat) :=
  (s.leaves c va n).flatMap fun p => (linePieces p.1.pa p.2).map fun q => (s.keyName p.1.key, q)
/-- Store for a warp of a block, or for its engine, whose writes the warp does not see at once (R304): a part on a lost node is answered
NODE_LOST (R364). An atomic is performed at the home (R218). -/
def State.storeAs (s : State) (c : Ctx) (engine home : Bool) (blk warp va : Nat) (bs : List Byte) : State :=
  if (s.segs c va bs.length).any fun p => s.lostNodes.contains (nodeOf p.1) then s.push (.nodeLost blk warp va)
  else
    let s1 := s.storeBy ⟨blk, if engine then 256 + warp else warp, s.depOf blk warp⟩ c va (s.given c va bs)
    match s.block? blk with
    | some b => (s.keyedPieces c va bs.length).foldl (fun s p =>
        if home then s.soilHome c.id p.1 p.2.1 p.2.2 else s.soil c.id b.core p.1 p.2.1 p.2.2) s1
    | none => s1
/-- Store for a warp of a block. -/
def State.storeFor (s : State) (c : Ctx) (blk warp va : Nat) (bs : List Byte) : State := s.storeAs c false false blk warp va bs

/-! ## Scratch -/

/-- The bytes an engine read returns of a block's scratch window (R249, R304): a 4-byte piece holds an old value, or its new one, when it
was written after `known`. -/
def State.engineScr (s : State) (b : Block) (known off n : Nat) : List Byte :=
  (List.range n).map fun i =>
    engineByte s.free (max known b.scrSettled) (off + i) (Tab.get [] b.scrLate (off + i)) (Tab.get 0 b.scratch (off + i))
/-- What the bytes of a scratch window are before a write of them at a turn. -/
def Block.markLate (b : Block) (turn off n : Nat) : Block :=
  let l := lateAfter turn .device off (Tab.getMany 0 b.scratch off n) b.scrLate b.scrSettled
  { b with scrLate := l.1, scrSettled := l.2 }
/-- Bytes of a block's scratch window. -/
def Block.readScr (b : Block) (off n : Nat) : List Byte := Tab.getMany 0 b.scratch off n
/-- Write bytes to a block's scratch window; a granule covered whole loses its poison. -/
def Block.writeScr (b : Block) (off : Nat) (bs : List Byte) : Block :=
  { b with scratch := Tab.setMany 0 b.scratch off bs
           scrPoison := b.scrPoison.filter fun g => !(off ≤ g * 64 && g * 64 + 64 ≤ off + bs.length) }
/-- A byte of the range is poisoned: the lowest offset. -/
def Block.scrConsumed (b : Block) (off n : Nat) : Option Nat :=
  ((List.range n).filterMap fun i => if b.scrPoison.contains ((off + i) / 64) then some (off + i) else Option.none).head?

end Sys2Proof.Machine
end

