-- ==== Sys2Proof/Machine/Rows.lean ====
section
/-! DEFINITION. The row store and the cellar (R108-R111), writing registers and predicates (R105-R107, R113), and the pending
writes of long-latency instructions (R128-R131). -/
namespace Sys2Proof.Machine

/-! ## Rows of the row store -/

/-- Rows a block reserves (R52, R53). -/
def Header.rowCost (h : Header) : Nat :=
  sumBy (fun r => r.warps * r.vmax) h.roles + (if h.depth = 0 then 0 else sumBy (fun r => r.warps) h.roles)
/-- Blocks that hold resources of a core. -/
def State.resident (s : State) (core : Nat) : List Block :=
  s.blocksNow.filter fun b => b.core = core && (match b.state with | .ended _ => false | _ => true)
/-- Rows reserved on a core. -/
def State.rowsReserved (s : State) (core : Nat) : Nat := sumBy (fun b => b.header.rowCost) (s.resident core)
/-- Rows a warp has taken: once its threads have all exited, those above its reserve have returned (R108). -/
def Warp.rowsUsed (w : Warp) : Nat := if w.live = 0 then min w.rows w.vmax else w.rows
/-- Rows lent from the pool to warps above their reserve (R108). -/
def State.rowsLent (s : State) (core : Nat) : Nat :=
  sumBy (fun b => sumBy (fun w => w.rowsUsed - w.vmax) b.warps) (s.resident core)
/-- Rows a register or a reconvergence row occupies. -/
def State.rowsHeld (s : State) (core : Nat) : Nat :=
  sumBy (fun b => sumBy Warp.rowsUsed b.warps + (if b.header.depth = 0 then 0 else b.warps.length)) (s.resident core)

/-- The block an entry is outstanding for: the leader for a part of an MMAG. -/
def EngineEntry.owner (e : EngineEntry) : Nat :=
  match e.op with
  | .mmag _ _ _ _ _ _ _ _ leader _ _ => leader
  | _ => e.blk
/-- A copy that has not completed. -/
def Copy.isRunning (c : Copy) : Bool := c.status = .running
/-- Registers that asynchronous operations of a warp name which have not completed (R110, R154): queued instructions, copies and
collectives. -/
def State.asyncRegs (s : State) (b : Block) (warp : Nat) : List Nat :=
  let queued := s.cores.flatMap (fun c => c.queue) ++ s.blocksNow.flatMap fun x => x.parts ++ x.queued
  (queued.flatMap fun e => if e.owner = b.id && e.warp = warp then e.regs ++ e.iss.named else []) ++
  (b.copies.flatMap fun x => match x with | some y => if y.isRunning && y.warp = warp then y.named else [] | none => []) ++
  b.colls.flatMap fun x => match x with | some y => if y.status.isNone && y.warp = warp then y.named else [] | none => []

/-- A register that could be spilled: stamp, block, warp, index (R110). -/
def State.victims (s : State) (core : Nat) (named : List Nat) : List (Nat × Nat × Nat × Nat) :=
  (s.resident core).flatMap fun b => b.warps.flatMap fun w =>
    if w.rowsUsed ≤ w.vmax then [] else
    let kept := s.asyncRegs b w.idx
    (w.regs.filter fun p => !p.2.val.compact && !p.2.spilled && !kept.contains p.1 &&
      !(b.id = s.blk.id && w.idx = s.wp.idx && named.contains p.1)).map fun p => (p.2.stamp, b.id, w.idx, p.1)
/-- Lexicographic order of victims (R110). -/
def victimLe (a b : Nat × Nat × Nat × Nat) : Bool :=
  a.1 < b.1 || (a.1 = b.1 && (a.2.1 < b.2.1 || (a.2.1 = b.2.1 && (a.2.2.1 < b.2.2.1 ||
    (a.2.2.1 = b.2.2.1 && a.2.2.2 ≤ b.2.2.2)))))
/-- The least of a list of victims. -/
def leastVictim : List (Nat × Nat × Nat × Nat) → Option (Nat × Nat × Nat × Nat)
  | [] => none
  | v :: vs => match leastVictim vs with
    | none => some v
    | some w => if victimLe v w then some v else some w

/-! ## The cellar (R111) -/

/-- Where register `i` of a warp stands in its slot of its core's slot set. -/
def Ctx.cellarAt (c : Ctx) (core slot i : Nat) : Nat :=
  c.regions.cellar + (c.slotSets.idxOf core * 48 + slot) * 196608 + 512 * i
/-- The bytes of a row. -/
def rowBytes (r : Row) : List Byte := r.toList.flatMap fun x => bytesOf x.toNat 4
/-- Use a register's place in the cellar: its row is written, or read when `read`; an access that fails marks the block. -/
def State.useCellar (s : State) (b : Block) (w : Warp) (i : Nat) (read : Bool) : State :=
  match s.ctx? b.ctx with
  | none => s
  | some c =>
    let va := c.cellarAt b.core w.slot i
    if !s.mapped c va 512 || (read && (s.consumed c va 512).isSome) then s.modBlk b.id fun b => { b with cellarFail := true }
    else if read then s
    else match w.rv i with
      | .v r => s.storeVa c va (rowBytes r)
      | _ => s
/-- As `useCellar`, for the issuing warp. -/
def State.useOwnCellar (s : State) (i : Nat) (read : Bool) : State := s.useCellar s.blk s.wp i read
/-- Mark a register spilled, or not. -/
def Warp.setSpilled (w : Warp) (i : Nat) (x : Bool) : Warp :=
  { w with regs := Tab.set Reg.zero w.regs i { w.reg i with spilled := x } }
/-- Spill a register of a warp of a block: its row passes on and its value stands in the cellar (R110, R111). -/
def State.spill (s : State) (blk warp i : Nat) : State :=
  let s1 := s.modWarp blk warp fun x => x.setSpilled i true
  match (s.block? blk).bind fun b => (b.warp? warp).map fun w => (b, w) with
  | some (b, w) => s1.useCellar b w i false
  | none => s1

/-! ## Taking rows -/

/-- Take a row for the issuing warp (R109): the state after, and whether a row was won. `refill` allows steps 1 and 2
only (R111). -/
def State.takeRow (s : State) (refill : Bool) : State × Bool :=
  let core := s.blk.core
  let spillOne : State × Bool :=
    match leastVictim (s.victims core s.iss.named) with
    | some (_, b, w, r) => (s.spill b w r, true)
    | none => (s, false)
  if s.wp.rows < s.wp.vmax then
    if s.rowsHeld core < Config.rowsPerCore then (s, true) else spillOne
  else if s.rowsReserved core + s.rowsLent core < Config.rowsPerCore then (s, true)
  else if refill then (s, false) else spillOne

/-- Put a value in V shape into register `d`, taking a row when it holds none (R108-R111). -/
def State.putRow (s : State) (d : Nat) (row : Row) : State :=
  let r := s.wp.reg d
  let put (s : State) (spilled : Bool) : State :=
    { s with wp := { s.wp with regs := Tab.set Reg.zero s.wp.regs d ⟨.v row, spilled, s.writes + 1⟩ }
             writes := s.writes + 1 }
  if r.val.compact then
    let (s1, won) := s.takeRow false
    if won then put s1 false else (put s1 true).useOwnCellar d false
  else if r.spilled then
    let (s1, won) := (s.useOwnCellar d true).takeRow true
    if won then put s1 false else (put s1 true).useOwnCellar d false
  else put s false
/-- Put a compact value into register `d`; its row, if it held one, is freed (R105). -/
def State.putCompact (s : State) (d : Nat) (x : RegVal) : State :=
  { s with wp := { s.wp with regs := Tab.set Reg.zero s.wp.regs d ⟨x, false, s.writes + 1⟩ }, writes := s.writes + 1 }

/-- Refill a spilled register of the issuing warp into a row, when one can be taken (R111). -/
def State.refill (s : State) (i : Nat) : State :=
  if !(s.wp.reg i).spilled then s
  else
    let (s1, won) := s.takeRow true
    if won then { s1 with wp := s1.wp.setSpilled i false } else s1
/-- The spilled registers of some, ascending. -/
def Warp.spilledOf (w : Warp) (rs : List Nat) : List Nat :=
  (rs.foldl (fun a r => insertNat r a) []).filter fun r => (w.reg r).spilled

/-! ## Writing registers and predicates -/

/-- The row a V write leaves: lanes of `m` take `x`, other live lanes keep their value, exited lanes hold a free value
(R105, R106). -/
def State.mergeRow (s : State) (d : Nat) (m : Mask) (x : RegVal) : Row :=
  Lanes.of fun l =>
    if !Mask.has s.wp.live l then Config.freeWord s.free l
    else if Mask.has m l then x.at l else s.wp.val d l

/-- Write `x` to register `d` in the lanes `m` (R105, R107): a full write takes the shape of `x`, a partial one leaves V.
511 discards, and no lane writes nothing. -/
def State.writeReg (s : State) (d : Nat) (m : Mask) (x : RegVal) : State :=
  if d = 511 || m = 0 then s
  else if s.wp.live &&& ~~~m = 0 && x.compact then s.putCompact d x
  else { s with free := s.free + 1 }.putRow d (s.mergeRow d m x)
/-- Write several registers in ascending order. -/
def State.writeRegs (s : State) (m : Mask) : List (Nat × RegVal) → State
  | [] => s
  | (d, x) :: rest => (s.writeReg d m x).writeRegs m rest
/-- Write a pair; 511 discards both halves. -/
def State.writePair (s : State) (d : Nat) (m : Mask) (lo hi : RegVal) : State :=
  if d = 511 then s else (s.writeReg d m lo).writeReg (d + 1) m hi
/-- Write predicate `p` in the lanes `m` (R113); `pt` discards. -/
def State.writePred (s : State) (p : Nat) (m : Mask) (f : Nat → Bool) : State :=
  if p ≥ 7 then s
  else { s with wp := s.wp.mapThreads m fun l t =>
    { t with preds := if f l then t.preds ||| BitVec.ofNat 7 (2 ^ p) else t.preds &&& ~~~(BitVec.ofNat 7 (2 ^ p)) } }
/-- A result written by completing threads: U when every written lane receives one value, else V (R164). -/
def statusVal (m : Mask) (f : Nat → Word) : RegVal :=
  if (Mask.lanes m).all fun l => f l = f (Mask.low m) then .u (f (Mask.low m)) else .lanes f
/-- A 64-bit result as two shaped halves of V (R104). -/
def halves (f : Nat → DWord) : RegVal × RegVal :=
  (.lanes fun l => (f l).setWidth 32, .lanes fun l => (f l >>> 32).setWidth 32)
/-- A 64-bit result as two U halves. -/
def halvesU (x : DWord) : RegVal × RegVal := (.u (x.setWidth 32), .u ((x >>> 32).setWidth 32))

/-- A free row: an unpredictable register value (R11). -/
def State.freeRow (s : State) (k : Nat) : Row := Lanes.of fun l => Config.freeWord (s.free + k) l

/-! ## Pending writes of long-latency instructions -/

/-- Set flags of the issuing warp's FPSTAT (R188, R189). -/
def State.raise (s : State) (fl : BitVec 7) : State := { s with wp := { s.wp with fpstat := s.wp.fpstat ||| fl } }
/-- Mark destinations pending with the values they will take, and the flags set when they are written (R128, R189). -/
def State.pend (s : State) (la : Nat) (swap : Bool) (m : Mask) (dests : List (Nat × RegVal)) (fl : BitVec 7 := 0) : State :=
  let ds := dests.filter fun p => p.1 != 511
  if m = 0 then s
  else if ds.isEmpty then s.raise fl
  else
    let n := if s.blk.ilock then 0 else la
    { s with wp := { s.wp with pending := s.wp.pending ++ [⟨ds, m, s.issuers, Lanes.of fun _ => n, swap, fl, true⟩] } }
/-- Perform the writes of pending instructions in order and clear their marks (R128, R131). -/
def State.complete (s : State) : List Pending → State
  | [] => s
  | p :: ps => ((s.writeRegs p.lanes p.dests).raise p.flags).complete ps
/-- Complete every pending instruction of the issuing warp (R189: what a CSRR or CSRW of FPSTAT waits for). -/
def State.completeAll (s : State) : State := { s with wp := { s.wp with pending := [] } }.complete s.wp.pending
/-- Complete every pending instruction of the issuing warp that threads of `m` issued (R131). -/
def State.completeOf (s : State) (m : Mask) : State :=
  let (mine, rest) := s.wp.pending.partition fun p => (p.issuers ||| p.lanes) &&& m != 0
  { s with wp := { s.wp with pending := rest } }.complete mine
/-- Complete the oldest pending instruction of the issuing warp. -/
def State.completeOldest (s : State) : State :=
  match s.wp.pending with
  | [] => s
  | p :: ps => { s with wp := { s.wp with pending := ps } }.complete [p]

end Sys2Proof.Machine
end

