-- ==== Sys2Proof/Machine/Ops.lean ====
section
/-! DEFINITION. The shared operations that reach beyond one warp: events, phase barriers, ending and killing blocks,
taking a trap (R310-R313), returning from one (R314), restarts (R323), parking (R214) and the error banks (R334). -/
namespace Sys2Proof.Machine

/-! ## Registers of a context (R320, R321) -/

/-- The context's feature record has TEST (R325). -/
def Ctx.test (c : Ctx) : Bool := bit c.feat.featLo 0
/-- A word of a format window, read by a context (R225). -/
def State.winWord (s : State) (ctx n k : Nat) : DWord :=
  match s.windows.find? fun w => w.index = n && w.owner = ctx with
  | none => 0
  | some w => match k with
    | 0 => w.ctl
    | 1 => w.range
    | 2 => w.codebook
    | 3 => w.scale
    | 4 => w.bitmap
    | _ => 0
/-- A context or device register by number, read by the issuing block. -/
def State.ctxCsr (s : State) (c : Ctx) (n : Nat) : DWord :=
  if 0x100 ≤ n then s.winWord c.id ((n - 0x100) / 8) ((n - 0x100) % 8)
  else if 0x018 ≤ n && n ≤ 0x01F then c.bpa.getD (n - 0x018) 0
  else match n with
    | 0x011 => c.srseed.setWidth 64
    | 0x012 => c.ctxcfg
    | 0x013 => ((s.node? c.id s.blk.node).map fun (x : Node) => x.wdcfg).getD 0
    | 0x020 => if c.test then c.errinj else 0
    | 0x021 => s.vigilcfg
    | 0x022 => BitVec.ofNat 64 s.health
    | 0x028 => c.ptroot
    | 0x029 => c.heapcfg
    | 0x02A => c.heapbase
    | 0x02B => c.heaplimit
    | 0x02C => c.heapoff
    | _ => 0
/-- A write of a context register was made by the issuing warp. -/
def State.ownWrite (s : State) (w : CsrWrite) : Bool := w.blk = s.blk.id && w.warp = s.wp.idx
/-- A context register as the issuing warp sees it (R321): a write of another warp is seen once its writer has made a release at `.pod`
after it, and this warp an acquire at `.pod` since; its own writes at once. -/
def State.csrSeen (s : State) (c : Ctx) (n : Nat) : DWord :=
  let seen (w : CsrWrite) : Bool := s.ownWrite w || (match w.out with | some t => t ≤ s.wp.podAt | none => false)
  match (c.csrLog.filter fun w => w.csr = n).dropWhile seen with
  | [] => s.ctxCsr c n
  | w :: ws => ws.foldl (fun v x => if s.ownWrite x then x.new else v) w.old
/-- Some warps of a block make a release at `.pod`: what they have written of context registers goes out (R321). -/
def State.sendCsrs (s : State) (ctx blk : Nat) (mine : Nat → Bool) : State :=
  let send (w : CsrWrite) : CsrWrite := if w.blk = blk && mine w.warp && w.out.isNone then { w with out := some s.turn } else w
  s.modCtx ctx fun c => { c with csrLog := c.csrLog.map send }

/-! ## Events -/

/-- Where the watched line of an event ring stands. DESIGN CHOICE (log 12): right after its 1,024 events. -/
def EventRing.watch (r : EventRing) : Nat := r.base + 1024 * 32
/-- The 32 bytes of an event (R371). -/
def Event.bytes (e : Event) : List Byte :=
  bytesOf e.code 4 ++ bytesOf e.nodeid 4 ++ bytesOf e.arg0.toNat 8 ++ bytesOf e.arg1.toNat 8 ++ bytesOf e.clk.toNat 8
/-- Write an event to the ring if there is room, then TAIL (R371). -/
def State.ringWrite (s : State) (c : Ctx) (e : Event) : Option State :=
  let r := c.ring
  let head := ofBytes (s.loadVa c (r.watch + 8) 4)
  if (r.tail + 2 ^ 32 - head) % 2 ^ 32 < 1024 then
    let s1 := s.storeVa c (r.base + r.tail % 1024 * 32) e.bytes
    let t := (r.tail + 1) % 2 ^ 32
    let s2 := s1.storeNum c r.watch t 4
    some (s2.modCtx c.id fun c => { c with ring := { c.ring with tail := t } })
  else none
/-- Post an event to a context (R371): into the ring, else held, else counted as lost. -/
def State.post (s : State) (ctx code nodeid : Nat) (arg0 arg1 : DWord) (die : Nat) : State :=
  match s.ctx? ctx with
  | none => s
  | some c =>
    let e : Event := ⟨code, nodeid, arg0, arg1, BitVec.ofNat 64 (s.die die).clk⟩
    match (if c.ring.held.isEmpty then s.ringWrite c e else none) with
    | some s1 => s1
    | none =>
      if c.ring.held.length < 64 then
        s.modCtx ctx fun c => { c with ring := { c.ring with held := c.ring.held ++ [e] } }
      else
        let n := (c.ring.lost + 1) % 2 ^ 32
        (s.storeNum c (c.ring.watch + 0x10) n 4).modCtx ctx fun c => { c with ring := { c.ring with lost := n } }
/-- Write one held event of a context once the ring has room. -/
def State.flushRing (s : State) (ctx : Nat) : State :=
  match s.ctx? ctx with
  | none => s
  | some c =>
    match c.ring.held with
    | [] => s
    | e :: es =>
      match s.ringWrite c e with
      | none => s
      | some s1 => s1.modCtx ctx fun c => { c with ring := { c.ring with held := es } }
/-- NODEID of a node, 0 when it is gone. -/
def State.nodeid (s : State) (ctx key : Nat) : Nat := ((s.node? ctx key).map fun n => n.record.nodeid).getD 0

/-! ## Phase barriers -/

/-- The update of a phase barrier word (R281). -/
def barrierUpdate (w add sub arrivals : Nat) (fail : Bool) : Nat :=
  let parr := bits w 0 16
  let expect := bits w 16 16
  let pbytes := bits w 32 24
  let phase := bits w 56 1
  let b0 := pbytes + add
  let above := b0 > 0xFFFFFF
  let b1 := min b0 0xFFFFFF
  let under := sub > b1
  let b2 := b1 - sub
  let run := arrivals > parr
  let p1 := parr - arrivals
  let poison := bit w 57 || above || under || run || fail
  let flip := fail || ((p1 != parr || b2 != pbytes) && p1 = 0 && b2 = 0)
  let parr' := if flip then expect else p1
  let phase' := if flip then 1 - phase else phase
  (if poison then 2 ^ 57 else 0) + phase' * 2 ^ 56 + b2 * 2 ^ 32 + expect * 2 ^ 16 + parr'
/-- The barrier word of a block. -/
def Block.barrier (b : Block) (off : Nat) : Nat := ofBytes (b.readScr off 8)
/-- Update a block's barrier. -/
def Block.barrierSet (b : Block) (off add sub arrivals : Nat) (fail : Bool) : Block :=
  b.writeScr off (bytesOf (barrierUpdate (b.barrier off) add sub arrivals fail) 8)
/-- The blocks that are copies of one: itself, and its other copy (R62). -/
def State.copiesOf (s : State) (id : Nat) : List Nat :=
  match s.block? id with
  | none => []
  | some b =>
    if b.copy = .single then [id]
    else (s.blocksNow.filter fun x => x.ctx = b.ctx && x.node = b.node && x.index = b.index).map (·.id)
/-- The issue of an operation performed for waiting lanes. -/
def Issue.for (m : Mask) (named : List Nat) : Issue := { Issue.idle with lanes := m, named := named }
/-- Threads of a PBWAIT complete by themselves (R286): with POISON set they have a trap to take, or `.status` writes it; they go on
after the instruction. -/
def State.completeWait (s : State) (p : PbWait) (poison : Bool) : State :=
  s.withWarp p.blk p.warp (Issue.for p.mask p.vd.toList) fun s =>
    let m := maskOf fun l => Mask.has p.mask l && (s.wp.thread l).status = .waiting .pb
    if poison && p.vd.isNone then s.setStatus m (.waiting (.trapping 0x11 p.addr))
    else
      let s1 := match p.vd with
        | some d => s.sync.writeReg d m (.u (if poison then 1 else 0))
        | none => s.sync
      { s1 with wp := s1.wp.mapThreads m fun _ t => t.resume p.len }
/-- The threads that wait at a barrier of a block whose phase now differs from their token are released (R286), with
POISON as the word has it. -/
def State.wake (s : State) (id off : Nat) : State :=
  match s.block? id with
  | none => s
  | some b =>
    let w := b.barrier off
    let go (p : PbWait) : Bool := p.off = off && bit w 56 != p.tok
    let s1 := s.modBlk id fun b => { b with pbwaits := b.pbwaits.filter fun p => !go p }
    (b.pbwaits.filter go).foldl (fun s p => s.completeWait p (bit w 57)) s1
/-- Write to a block's scratch; the waiters of barriers it touches are tested. -/
def State.writeScr (s : State) (id off : Nat) (bs : List Byte) : State :=
  let offs := (((s.block? id).map fun b => b.pbwaits.map PbWait.off).getD []).filter fun o =>
    o < off + bs.length && off < o + 8
  offs.foldl (fun s o => s.wake id o) (s.modBlk id fun b => (b.markLate s.turn off bs.length).writeScr off bs)
/-- Update a phase barrier of one block (R281). -/
def State.barrier (s : State) (id off add sub arrivals : Nat) (fail : Bool) : State :=
  (s.modBlk id fun b => (b.markLate s.turn off 8).barrierSet off add sub arrivals fail).wake id off
/-- Update a phase barrier of both copies of a pair (R348). -/
def State.barrierCopies (s : State) (id off add sub arrivals : Nat) (fail : Bool) : State :=
  (s.copiesOf id).foldl (fun s i => s.barrier i off add sub arrivals fail) s

/-! ## Error banks -/

/-- The new STATUS and ADDR of a bank (R335). -/
def Bank.record (b : Bank) (sev : Nat) (poisoned : Bool) (ctx source syndrome addr : Nat) : Bank :=
  let st := b.status.toNat
  let held := bits st 62 2
  let count := min 255 (bits st 52 8 + 1)
  if held = 0 || (held < sev && !(held = 0)) then
    let keep := if held = 0 then 0 else bits st 61 1
    { b with
      status := BitVec.ofNat 64 (sev * 2 ^ 62 + keep * 2 ^ 61 + (if poisoned then 2 ^ 60 else 0) + count * 2 ^ 52 +
        ctx % 4096 * 2 ^ 40 + source % 256 * 2 ^ 32 + b.index % 65536 * 2 ^ 16 + syndrome % 65536)
      addr := BitVec.ofNat 64 (addr % 2 ^ 57) }
  else
    { b with status := BitVec.ofNat 64 (st - bits st 52 8 * 2 ^ 52 - bits st 61 1 * 2 ^ 61 + count * 2 ^ 52 + 2 ^ 61) }
/-- Record an error in a bank (R334). -/
def State.logBank (s : State) (kind index sev : Nat) (poisoned : Bool) (ctx source syndrome addr : Nat) : State :=
  if s.banks.any fun b => b.kind = kind && b.index = index then
    { s with banks := s.banks.map fun b =>
        if b.kind = kind && b.index = index then b.record sev poisoned ctx source syndrome addr else b }
  else { s with banks := s.banks ++ [(Bank.mk kind index 0 0).record sev poisoned ctx source syndrome addr] }

/-! ## Ending and killing blocks -/

/-- The barrier offset an engine operation still owes an arrive. -/
def EngineOp.arrive : EngineOp → Option Nat
  | .mma _ _ _ _ _ _ arv => arv
  | .mmag _ _ _ _ _ _ _ off _ _ _ => some off
  | _ => none
/-- Engine entries of a block, and the members' parts of an MMAG it leads. -/
def EngineEntry.of (e : EngineEntry) (id : Nat) : Bool :=
  e.blk = id || (match e.op with | .mmag _ _ _ _ _ _ _ _ leader _ _ => leader = id | _ => false)
/-- The engine entries of a block on every core, the parts still to enter a queue, and those set aside by a halt. -/
def State.entriesOf (s : State) (id : Nat) : List EngineEntry :=
  (s.cores.flatMap fun c => c.queue.filter fun e => e.of id) ++
  s.blocksNow.flatMap fun b => (b.parts ++ b.queued).filter fun e => e.of id
/-- Drop a block's engine entries and its tile requests. -/
def State.dropEngine (s : State) (id : Nat) : State :=
  let keep (b : Block) : Block :=
    { b with parts := b.parts.filter fun e => !e.of id, queued := b.queued.filter fun e => !e.of id }
  { s with
    blk := keep s.blk
    blocks := s.blocks.map keep
    cores := s.cores.map fun c =>
      { c with queue := c.queue.filter fun e => !e.of id, tileWaits := c.tileWaits.filter fun t => t.blk != id } }
/-- Deliver a fail-arrive for each arrive the entries owe (R281, R313). -/
def State.failArrives (s : State) (es : List EngineEntry) : State :=
  es.foldl (fun s e => match e.op.arrive with | some off => s.barrier e.blk off 0 0 1 true | none => s) s
/-- A block's copies that run stop for good. -/
def Block.stopCopies (b : Block) : Block :=
  { b with copies := b.copies.map fun c => match c with | some x => if x.isRunning then Option.none else c | none => c }

/-- End a block as given: its copies stop, its engine work is discarded, and with `arrives` each barrier owed an engine
arrive receives a fail-arrive (R313, R337). Its end is counted by BLOCK_END. -/
def State.endBlock (s : State) (id : Nat) (e : Ending) (arrives : Bool) : State :=
  let es := s.entriesOf id
  let s1 := s.dropEngine id
  let s2 := if arrives then s1.failArrives es else s1
  let s3 := s2.modBlk id fun b => { b.stopCopies with state := .ended e, uncov := [], evwaits := [] }
  s3.push (.blockEnd id)

/-- The blocks of a kill unit (R337): the gang of a block, and both copies of a pair. -/
def State.unitOf (s : State) (b : Block) : List Nat :=
  (s.blocksNow.filter fun x => x.ctx = b.ctx && x.node = b.node &&
    x.index / b.header.gang = b.index / b.header.gang).map (·.id)
/-- The SOURCE a bank records for a SOURCE of R336 (R334). -/
def bankSource (src : Nat) : Nat :=
  match src with
  | 1 => 5
  | 2 => 6
  | 3 => 7
  | 4 => 3
  | 6 => 8
  | _ => 1
/-- Kill the unit of a block that consumed an uncorrectable error (R336, R337): TRAPADDR `addr` with SOURCE `src`. -/
def State.killUnit (s : State) (id : Nat) (addr : DWord) (src whereAt : Nat) : State :=
  match s.block? id with
  | none => s
  | some b =>
    let s1 := (s.unitOf b).foldl (fun s i => s.endBlock i (.consumed addr b.core) false) s
    s1.logBank 0 b.core 2 true b.ctx (bankSource src) 0 whereAt
/-- TRAPADDR of UE_CONSUMED (R336). -/
def ueAddr (src member whereAt : Nat) : DWord := BitVec.ofNat 64 (src * 2 ^ 60 + member % 4 * 2 ^ 58 + whereAt % 2 ^ 57)
/-- The partner index of a block (R60). -/
def Block.partner (b : Block) : Nat := b.index % b.header.gang

/-! ## Taking a trap -/

/-- The threads of a group become handler threads at TRAPBASE.ENTRY × 4, and the report becomes the warp's trap record
(R312). -/
def Warp.enterHandler (w : Warp) (r : TrapRec) (g : Mask) : Warp :=
  let w1 := w.mapThreads g fun _ t =>
    { t with handler := true, status := .eligible, pc := (w.trapBase &&& ~~~(3 : DWord)).setWidth 57 }
  { w1 with trap := r, entryMask := r.mask }
/-- The report of a trap of the issuing group (R312): cause, TRAPADDR, TRAPMASK and the resume PC. -/
def State.report (s : State) (cause : Nat) (addr : DWord) (mask : Mask) (resume : BitVec 57) : TrapRec :=
  ⟨BitVec.ofNat 8 cause, resume, s.iss.word, addr, mask⟩
/-- The trap record is written without entering a handler. -/
def State.recordTrap (s : State) (r : TrapRec) : State :=
  { s with wp := { s.wp with trap := r, entryMask := r.mask } }
/-- The entry is performed whole before a pre-emption. -/
def EngineOp.isSimple : EngineOp → Bool
  | .mma _ _ _ _ _ _ _ => false
  | .mmag _ _ _ _ _ _ _ _ _ _ _ => false
  | .ttc _ _ _ _ => false
  | .ttrun _ _ _ _ _ => false
  | _ => true
/-- The entries of a block that a halt sets aside: from its first product, step or chain on (R313, R328). -/
def heldEntries (id : Nat) (es : List EngineEntry) : List EngineEntry :=
  (es.filter fun e => e.blk = id).dropWhile fun e => e.op.isSimple
/-- Halt a block with its state kept (R313, R352): its engine work runs to its next boundary and stops with it. -/
def State.haltBlock (s : State) (id cause : Nat) : State :=
  let es := s.cores.flatMap fun c => heldEntries id c.queue
  let s1 : State := { s with cores := s.cores.map fun c =>
    { c with queue := c.queue.filter fun e => !(heldEntries id c.queue).contains e } }
  s1.modBlk id fun b => { b with state := .halted, queued := es, haltCause := cause }
/-- An unhandled trap (R313): a halt with HALTUT set, else the block ends FAILED with reason TRAP; both copies of a pair
share the outcome, which is dealt with once. -/
def State.unhandled (s : State) (r : TrapRec) : State :=
  let s1 := (s.recordTrap r)
  let s2 := { s1 with wp := s1.wp.mapThreads s1.iss.lanes fun _ t => { t with pc := r.pc, status := .eligible } }
  match s2.ctx? s2.blk.ctx with
  | none => s2
  | some c =>
    let ids := (s2.copiesOf s2.blk.id).filter fun i => ((s2.block? i).map fun (x : Block) => decide (x.state = .running)).getD false
    if ids.isEmpty then s2
    else if (s2.csrSeen c 0x012).getLsbD 1 then
      (ids.foldl (fun s i => s.haltBlock i r.cause.toNat) s2).post c.id 0x04 (s2.nodeid c.id s2.blk.node)
        (BitVec.ofNat 64 s2.blk.index) (r.cause.setWidth 64) (dieOf s2.blk.core)
    else ids.foldl (fun s i => s.endBlock i (.failed 0x08 r.cause.toNat) true) s2
/-- Deal with a report of the issuing group by the table of R312: a double trap and one without a handler are
unhandled, one behind a running handler is pending, any other enters the handler. -/
def State.deal (s : State) (r : TrapRec) : State :=
  let g := s.iss.lanes
  if s.wp.handlers &&& g != 0 || !s.wp.trapBase.getLsbD 0 then s.unhandled r
  else if s.wp.handlers != 0 then
    { s with wp := { s.wp.mapThreads g (fun _ t => { t with status := .waiting .trap }) with
        trapQueue := s.wp.trapQueue ++ [(r, g)] } }
  else { s with wp := s.wp.enterHandler r g }
/-- Take a trap of the issuing group whose threads go on at `resume` (R310-R312): pending writes complete, then the
report is dealt with, and no thread is left to go on. -/
def State.trapAt (s : State) (cause : Nat) (addr : DWord) (mask : Mask) (resume : BitVec 57) : State :=
  let s1 := s.completeOf s.iss.lanes
  let s2 := s1.deal (s1.report cause addr mask resume)
  { s2 with iss := { s2.iss with lanes := 0 } }
/-- Take a precise trap: TRAPPC holds the instruction. -/
def State.trap (s : State) (cause : Nat) (addr : DWord) (mask : Mask) : State := s.trapAt cause addr mask s.iss.pc
/-- The PC after the instruction. -/
def State.nextPc (s : State) : BitVec 57 := s.iss.pc + BitVec.ofNat 57 s.iss.len
/-- UE_CONSUMED by the issuing group (R336): the record is written, no handler is entered, the unit is killed. -/
def State.consume (s : State) (src whereAt : Nat) (mask : Mask) : State :=
  let a := ueAddr src s.blk.partner whereAt
  (s.recordTrap (s.report 0x13 a mask s.iss.pc)).killUnit s.blk.id a src whereAt
/-- The fetch detail of R76 with a subcode. -/
def State.fetchDetail (s : State) (sub : Nat) : DWord :=
  match s.iss.d32 with
  | none => BitVec.ofNat 64 (sub * 2 ^ 32)
  | some d => BitVec.ofNat 64 (s.blk.active % 4 * 2 ^ 38 + (if s.iss.exp then 2 ^ 37 else 0) + 2 ^ 36 + sub * 2 ^ 32 + d.toNat)
/-- ILLEGAL with a subcode. -/
def State.illegal (s : State) (sub : Nat) (mask : Mask) : State := s.trap 0x01 (s.fetchDetail sub) mask
/-- TRAPADDR of SHAPE_ASSERT and SHAPE_FORCE (R115). -/
def State.shapeAddr (s : State) (reg : Nat) : DWord :=
  BitVec.ofNat 64 (s.wp.idx % 256 * 2 ^ 16 + (s.wp.rv reg).shape * 2 ^ 10 + reg % 512)
/-- The lowest of some registers that is not U. -/
def Warp.firstNotU (w : Warp) (rs : List Nat) : Option Nat :=
  (rs.filter fun r => (w.rv r).shape != 0).foldl
    (fun a r => match a with | some x => some (min x r) | none => some r) (none : Option Nat)
/-- Uniform operands (R86, R115): trap SHAPE_ASSERT when a register is not U, else go on. -/
def State.needU (s : State) (rs : List Nat) (k : State → State) : State :=
  match s.wp.firstNotU rs with
  | some r => s.trap 0x05 (s.shapeAddr r) s.iss.lanes
  | none => k s

/-- The oldest pending trap enters once no thread of the warp is a handler thread (R312). -/
def Warp.enterPending (w : Warp) : Warp :=
  if w.handlers != 0 then w
  else match w.trapQueue with
    | [] => w
    | (r, g) :: rest => { w.enterHandler r (g &&& w.live) with trapQueue := rest }

/-! ## Returning from a handler -/

/-- TRET (R314): each enabled handler thread resumes at TRAPPC or at its target, or is parked when the handler took it
out of TRAPMASK; then the release tests and a pending trap. -/
def Warp.trapReturn (w : Warp) (m : Mask) (target : Nat → Option (BitVec 57)) : Warp :=
  let back (l : Nat) (t : Thread) : Thread :=
    if !t.handler then t
    else if Mask.has w.entryMask l && !Mask.has w.trap.mask l then
      { t with status := .parked .tret, pc := w.trap.pc, handler := false, exempt := true }
    else { t with status := .eligible, pc := (target l).getD w.trap.pc, handler := false, exempt := true }
  (w.mapThreads m back).releaseAll.enterPending

/-! ## Restart of a warp -/

/-- Restart of a warp (R323): every live thread at REGIONPC, the snapshot restored, pending writes cleared. -/
def Warp.restart (w : Warp) : Warp :=
  let w1 := { w with pending := [], meets := [], trapQueue := [], restarted := true, rcv := (w.snapshot.map Snapshot.rcv).getD w.rcv }
  w1.mapThreads w.live fun l t =>
    { t with
      pc := w.regionPc, status := .eligible, handler := false
      sr := (w.snapshot.map fun (p : Snapshot) => Lanes.at p.sr l).getD t.sr
      preds := (w.snapshot.map fun (p : Snapshot) => Lanes.at p.preds l).getD t.preds }
/-- Uses of a warp's restart point. -/
def Block.used (b : Block) (warp : Nat) : Nat := ((b.restarts.find? fun p => p.1 = warp).map (·.2)).getD 0
/-- Set the uses of a warp's restart point. -/
def Block.setUsed (b : Block) (warp n : Nat) : Block :=
  { b with restarts := (b.restarts.filter fun p => p.1 != warp) ++ (if n = 0 then [] else [(warp, n)]) }
/-- What RVALID is cleared by (R322). -/
def State.spoilRegion (s : State) : State := { s with wp := { s.wp with rvalid := false } }
/-- The non-idempotent bit of every block of the unit is set (R338). -/
def State.setNonIdem (s : State) : State :=
  (s.unitOf s.blk).foldl (fun s i => s.modBlk i fun b => { b with nonIdem := true }) s

/-! ## Parking on a serviceable fault -/

/-- Park threads of the issuing group at the instruction and ask the fault service (R214, R371). -/
def State.park (s : State) (m : Mask) (addr kind : Nat) : State :=
  match s.ctx? s.blk.ctx with
  | none => s
  | some c =>
    let tok := c.nextToken
    let s1 := s.setStatus m (.parked (.fault tok))
    let s2 := s1.modCtx c.id fun c =>
      { c with nextToken := tok + 1, faults := c.faults ++ [⟨tok, addr, kind, .threads s.blk.id s.wp.idx m, none⟩] }
    s2.post c.id 0x0C (s.nodeid c.id s.blk.node) (BitVec.ofNat 64 (kind * 2 ^ 60 + addr % 2 ^ 57)) (BitVec.ofNat 64 tok)
      (dieOf s.blk.core)
/-- A violation freezes a context on a core (R352): its blocks there halt, and VIOLATION names the core. -/
def State.freeze (s : State) (ctx core va : Nat) : State :=
  let bs := (s.blocksNow.filter fun b => b.ctx = ctx && b.core = core && b.state = .running).map Block.id
  let s1 := (bs.foldl (fun s b => s.haltBlock b 0) s).post ctx 0x06 0 (BitVec.ofNat 64 core) (BitVec.ofNat 64 va) (dieOf core)
  { s1 with frozenCtxs := if s1.frozenCtxs.contains (ctx, core) then s1.frozenCtxs else s1.frozenCtxs ++ [(ctx, core)] }
/-- A violation by the issuing context on its core (R352): nothing of the instruction is performed. -/
def State.violate (s : State) (va : Nat) : State :=
  let s1 := s.freeze s.blk.ctx s.blk.core va
  { s1 with iss := { s1.iss with stays := true } }
/-- A failed check of the whole group: a trap of the group, parking, or the wait for a fatal error to be dealt with.
`m` is TRAPMASK and the threads that park; `kind` is 0 read, 1 write, 2 fetch. -/
def State.failWith (s : State) (f : Fail) (m : Mask) (kind : Nat) : State :=
  match f with
  | .trap cause _ _ => s.trap cause f.addr m
  | .demand a => s.park m a kind
  | .violation a => s.violate a
  | .fatal => (s.waitRetry m).push (.errorDetected ⟨.fatal, 0, s.blk.core, 0, 0, some s.blk.ctx, 0, .context s.blk.ctx⟩)

/-! ## Paired execution: forwarding (R345, R348) -/

/-- The other copy of the issuing block. -/
def State.peer (s : State) : Option Nat := (s.copiesOf s.blk.id).find? fun i => i != s.blk.id
/-- The leading copy forwards results of its issuing warp to the trailing copy. -/
def State.forward (s : State) (x : Forward) : State :=
  if s.blk.copy != .leading then s
  else match s.peer with
    | some i => s.modBlk i fun b => { b with forward := b.forward ++ [(s.wp.idx, x)] }
    | none => s
/-- The lanes a forwarded item is for, and the item without some of them. -/
def Forward.lanes : Forward → Mask
  | .values m _ => m
  | .trap _ _ m => m
def Forward.without (x : Forward) (m : Mask) : Forward :=
  match x with
  | .values k vals => .values (k &&& ~~~m) vals
  | .trap cause addr k => .trap cause addr (k &&& ~~~m)
/-- Take for the lanes `en` the oldest item forwarded to some of them; what it holds for other lanes stays. -/
def State.takeForward (s : State) (en : Mask) : Option (Forward × State) :=
  match s.blk.forward.find? fun p => p.1 = s.wp.idx && p.2.lanes &&& en != 0 with
  | none => none
  | some p =>
    let fs := if p.2.lanes &&& ~~~en = 0 then s.blk.forward.erase p else s.blk.forward.replace p (p.1, p.2.without en)
    some (p.2, { s with blk := { s.blk with forward := fs } })
/-- The trailing copy takes forwarded results in place of an access by the lanes `en`: lanes the item does not name wait
at the instruction for another item; the disabled threads go on. -/
def State.trailing (s : State) (en : Mask) (k : State → Mask → List RegVal → State) : State :=
  match s.takeForward en with
  | none => s.waitRetry s.iss.lanes
  | some (.trap cause addr m, s1) => s1.trap cause.toNat addr m
  | some (.values m vals, s1) =>
    let got := en &&& m
    let rest := en &&& ~~~m
    (k (s1.setStatus rest (.waiting .retry)) got vals).goOn

end Sys2Proof.Machine
end

