-- ==== Sys2Proof/Machine/Operands.lean ====
section
/-! DEFINITION. Operands of instructions: registers, immediates, pairs, addresses (R71, R133, R207), and how results of
lane-wise operations take their shape (R103). -/
namespace Sys2Proof.Machine

/-- The outcome of a meaning. -/
abbrev Out := Host.Outcome State Fault Refusal

/-! ## Shapes of results (R103) -/

/-- A one-source operation: U from U, else V. -/
def lift1 (f : Word → Word) (a : RegVal) : RegVal :=
  match a with
  | .u x => .u (f x)
  | _ => .lanes fun l => f (a.at l)
/-- A two-source operation: U from U sources, else V. -/
def lift2 (f : Word → Word → Word) (a b : RegVal) : RegVal :=
  match a, b with
  | .u x, .u y => .u (f x y)
  | _, _ => .lanes fun l => f (a.at l) (b.at l)
/-- A three-source operation. -/
def lift3 (f : Word → Word → Word → Word) (a b c : RegVal) : RegVal :=
  match a, b, c with
  | .u x, .u y, .u z => .u (f x y z)
  | _, _, _ => .lanes fun l => f (a.at l) (b.at l) (c.at l)
/-- A three-source operation with a 64-bit result, by halves: U in both from U sources, else V in both (R104). -/
def lift3w (f : Nat → DWord) (allU : Bool) : RegVal × RegVal := if allU then halvesU (f 0) else halves f
/-- The sum of R103. -/
def RegVal.add (a b : RegVal) : RegVal :=
  match a, b with
  | .u x, .u y => .u (x + y)
  | .u x, .a p s => .affine (x + p) s
  | .a p s, .u x => .affine (p + x) s
  | .a p s, .a q t => .affine (p + q) (s + t)
  | _, _ => .lanes fun l => a.at l + b.at l
/-- The difference of R103. -/
def RegVal.sub (a b : RegVal) : RegVal :=
  match a, b with
  | .u x, .u y => .u (x - y)
  | .u x, .a p s => .affine (x - p) (-s)
  | .a p s, .u x => .affine (p - x) s
  | .a p s, .a q t => .affine (p - q) (s - t)
  | _, _ => .lanes fun l => a.at l - b.at l
/-- The product of R103. -/
def RegVal.mul (a b : RegVal) : RegVal :=
  match a, b with
  | .u x, .u y => .u (x * y)
  | .u x, .a p s => .affine (x * p) (x * s)
  | .a p s, .u x => .affine (p * x) (s * x)
  | _, _ => .lanes fun l => a.at l * b.at l
/-- The left shift of R103 by an amount that is not reduced. -/
def shlWord (a k : Word) : Word := if k.toNat < 32 then a <<< k.toNat else 0
def RegVal.shl (a k : RegVal) : RegVal :=
  match a, k with
  | .u x, .u n => .u (shlWord x n)
  | .a p s, .u n => if n.toNat < 32 then .affine (p <<< n.toNat) (s <<< n.toNat) else .lanes fun _ => 0
  | _, _ => .lanes fun l => shlWord (a.at l) (k.at l)
/-- All of some values are U. -/
def allU (rs : List RegVal) : Bool := rs.all fun r => r.shape = 0

/-! ## Operands -/

/-- The shaped value of VA. -/
def State.rvA (s : State) (f : Fields) : RegVal := s.wp.rv f.va.toNat
/-- The shaped value of VB, or IMM32 as a U source (R71, R133). -/
def State.rvB (s : State) (f : Fields) : RegVal := if f.isF96 then .u f.imm else s.wp.rv f.vb.toNat
/-- The shaped value of VC. -/
def State.rvC (s : State) (f : Fields) : RegVal := s.wp.rv f.vc.toNat
/-- The pair in VB, or IMM32 sign-extended (R133). -/
def State.pairB (s : State) (f : Fields) (l : Nat) : DWord :=
  if f.isF96 then f.imm.signExtend 64 else s.wp.pair f.vb.toNat l
/-- The value of a uniform register. -/
def State.uni (s : State) (r : Nat) : Nat := (s.wp.val r 0).toNat
/-- The value of a uniform pair. -/
def State.uniPair (s : State) (r : Nat) : Nat := (s.wp.pair r 0).toNat
/-- The uniform operand VB or IMM32. -/
def State.uniB (s : State) (f : Fields) : Nat := if f.isF96 then f.imm.toNat else s.uni f.vb.toNat
/-- The registers of a uniform VB: none in F96. -/
def uniRegB (f : Fields) : List Nat := if f.isF96 then [] else [f.vb.toNat]

/-- The offset of R207. -/
def offsetOf (f : Fields) : DWord :=
  match f.x with
  | .none => 0
  | .imm w => w.signExtend 64
  | .ext w => w
/-- The generic address of lane `l` (R207), modulo 2^64. -/
def State.addr (s : State) (f : Fields) (l : Nat) : Nat := (s.wp.pair f.vb.toNat l + offsetOf f).toNat
/-- The shape code of the address pair (R207): U, A or V. -/
def Warp.pairShape (w : Warp) (r : Nat) : Nat :=
  match (w.rv r).shape, (w.rv (r + 1)).shape with
  | 0, 0 => 0
  | 1, 0 => 1
  | _, _ => 2
/-- The 32-bit offset of lane `l` in the scratch, gang and constant spaces (R207, R230). -/
def State.offs (s : State) (f : Fields) (l : Nat) : Nat := (s.wp.val f.vb.toNat l + f.imm).toNat

/-! ## Ends of lane-wise instructions -/

/-- Write a result to VD in the enabled lanes and go on (R136). -/
def State.alu (s : State) (f : Fields) (x : RegVal) : State := (s.writeReg f.vd.toNat (s.en f) x).advance
/-- Write a pair of results to VD and go on. -/
def State.aluPair (s : State) (f : Fields) (x : RegVal × RegVal) : State :=
  (s.writePair f.vd.toNat (s.en f) x.1 x.2).advance
/-- Write a predicate result to VD and go on. -/
def State.aluPred (s : State) (f : Fields) (q : Nat → Bool) : State := (s.writePred f.vd.toNat (s.en f) q).advance
/-- An instruction that sets the non-idempotent bit at its issue, with a thread enabled (R338). -/
def State.markNonIdem (s : State) (f : Fields) : State := if s.en f = 0 then s else s.setNonIdem
/-- A group with no enabled thread performs nothing and goes on. -/
def State.whenEnabled (s : State) (f : Fields) (k : State → State) : State := if s.en f = 0 then s.advance else k s

end Sys2Proof.Machine
end

