-- ==== Sys2Proof/Machine/Flags.lean ====
section
/-! DEFINITION. How a float instruction's results and flags reach the warp (R188, R189, R193). -/
namespace Sys2Proof.Machine

/-- A 32-bit result. -/
def fpWord (r : Nat × FpFlags) : Word := BitVec.ofNat 32 r.1
/-- A result computed once when every source is U, else for each lane (R103, R193). -/
def fpVal (u : Bool) (g : Nat → Nat × FpFlags) : RegVal := if u then .u (fpWord (g 0)) else .lanes fun l => fpWord (g l)
/-- The flags the threads of `m` raise; a compact operation raises those of its one execution (R189). -/
def fpFlags (m : Mask) (u : Bool) (g : Nat → FpFlags) : FpFlags :=
  if m = 0 then 0 else if u then g 0 else (Mask.lanes m).foldl (fun a l => a ||| g l) 0

/-- Raise SAT where a saturating operation clamped its result in a lane of `m` (R188). -/
def State.raiseSat (s : State) (m : Mask) (clamped : Nat → Bool) : State :=
  s.raise (fpFlags m false fun l => flagIf (clamped l) flagSAT)
/-- Write a float result to VD with its flags and go on. `u` says that every source is U. -/
def State.fpAlu (s : State) (f : Fields) (u : Bool) (g : Nat → Nat × FpFlags) : State :=
  let en := s.en f
  ((s.writeReg f.vd.toNat en (fpVal u g)).raise (fpFlags en u fun l => (g l).2)).advance
/-- As `fpAlu` for a long-latency instruction: the result and its flags are pending (R128, R189). -/
def State.fpLong (s : State) (f : Fields) (u : Bool) (g : Nat → Nat × FpFlags) : State :=
  let en := s.en f
  (s.pend f.la.toNat false en [(f.vd.toNat, fpVal u g)] (fpFlags en u fun l => (g l).2)).advance

end Sys2Proof.Machine
end

