-- ==== Sys2Proof/Machine/Pair.lean ====
section
/-! DEFINITION. Paired execution (R345-R350): the compare buffers, mismatches, and operations performed once by the leading
copy. -/
namespace Sys2Proof.Machine

/-- The leading and trailing copies of the issuing block's pair. -/
def State.pairIds (s : State) : Option (Nat × Nat) :=
  match s.blk.copy with
  | .single => none
  | .leading => s.peer.map fun p => (s.blk.id, p)
  | .trailing => s.peer.map fun p => (p, s.blk.id)
/-- The first entry of a warp that has not matched. -/
def Block.unmatched (b : Block) (warp : Nat) : Option PairEntry := b.compare.find? fun e => e.warp = warp && !e.matched
/-- Mark an entry matched: of a store or a PCMP nothing is left to do. -/
def Block.markEntry (b : Block) (e : PairEntry) : Block :=
  { b with compare := b.compare.replace e { e with matched := true, done := e.kind = 1 || e.kind = 3 } }
/-- The entries of a warp retire in index order while they have been performed (R358). -/
def retireEntries (warp : Nat) : List PairEntry → List PairEntry
  | [] => []
  | e :: es => if e.warp != warp then e :: retireEntries warp es else if e.done then retireEntries warp es else e :: es
def Block.retirePair (b : Block) (warp : Nat) : Block := { b with compare := retireEntries warp b.compare }
/-- An operation has been performed; it retires when those before it have. -/
def Block.doneEntry (b : Block) (e : PairEntry) : Block :=
  ({ b with compare := b.compare.replace e { e with done := true } }).retirePair e.warp
/-- A block's compare entries and forwarded values of a warp are discarded (R349). -/
def Block.discardPair (b : Block) (warp : Nat) : Block :=
  { b with compare := b.compare.filter fun e => e.warp != warp
           entering := b.entering.filter fun p => p.1 != warp
           forward := b.forward.filter fun p => p.1 != warp
           pbwaits := b.pbwaits.filter fun p => p.warp != warp
           cpywaits := b.cpywaits.filter fun p => p.warp != warp
           evwaits := b.evwaits.filter fun e => e.warp != warp }

/-- The registers a warp has written since its restart point hold unpredictable values (R11). -/
def Warp.spoilRegs (w : Warp) (draw : Nat) : Warp :=
  { w with regs := w.trace.wrote.foldl (fun t r =>
      let row : Row := Lanes.of fun l => Config.freeWord draw (128 * r + l)
      Tab.set Reg.zero t r { Tab.get Reg.zero t r with val := .v row }) w.regs }
/-- A restart of a warp whose region overwrites what it has read has the results of R9: every register and every byte of memory that the region has
written holds an unpredictable value (R322). DESIGN CHOICE (log 152). -/
def State.spoilTrace (s : State) (id idx : Nat) : State :=
  match (s.block? id).bind fun b => (b.warp? idx).bind fun w => (s.ctx? b.ctx).map fun c => (w, c) with
  | none => s
  | some (w, c) =>
    if !w.trace.broken then s
    else
      let s1 := w.trace.memWrote.foldl (fun s r =>
        if r.1 = 0 then s.storeVa c r.2.1 (s.freeBytes r.2.1 r.2.2) else s.writeScr r.1 r.2.1 (s.freeBytes r.2.1 r.2.2)) s
      { s1.modWarp id idx fun w => w.spoilRegs s.free with free := s1.free + 1 }
/-- Restart a warp of a block (R323) and count it; in a pair its slack becomes 0 (R358). -/
def State.restartWarp (s : State) (id idx : Nat) : State :=
  ((s.spoilTrace id idx).modWarp id idx Warp.restart).modBlk id fun b =>
    { (b.discardPair idx).setUsed idx (b.used idx + 1) with retired := b.retired.filter fun p => p.1 != idx }
/-- A trap of a warp of one copy (R349): every live thread traps with TRAPPC at REGIONPC. -/
def State.pairTrap (s : State) (id idx cause : Nat) (addr : DWord) : State :=
  let s1 := s.modBlk id fun b => b.discardPair idx
  match (s1.block? id).bind fun b => b.warp? idx with
  | none => s1
  | some w =>
    s1.withWarp id idx { s.iss with lanes := w.live, pc := w.regionPc } fun s =>
      { s with wp := { s.wp with meets := [] } }.trapAt cause addr w.live w.regionPc
/-- What a mismatch of the warp `idx` of a pair leads to (R349): both copies restart, or both trap with PAIR_MISMATCH. -/
def State.mismatched (s : State) (lead trail idx kind addr : Nat) : State :=
  let used := ((s.block? lead).map fun b => b.used idx).getD 0
  let valid (id : Nat) : Bool := ((s.block? id).bind fun b => (b.warp? idx).map Warp.rvalid).getD false
  let a (n : Nat) : DWord := BitVec.ofNat 64 (kind * 2 ^ 60 + min n 2 * 2 ^ 58 + (if kind ≤ 2 then addr % 2 ^ 57 else 0))
  if used < 2 && valid lead && valid trail then
    let pc := (((s.block? lead).bind fun b => b.warp? idx).map Warp.regionPc).getD 0
    ((s.restartWarp lead idx).restartWarp trail idx).post s.blk.ctx 0x08 (s.nodeid s.blk.ctx s.blk.node) (a (used + 1))
      (BitVec.ofNat 64 (s.blk.index % 2 ^ 32 * 2 ^ 32 + pc.toNat % 2 ^ 32)) (dieOf s.blk.core)
  else (s.pairTrap lead idx 0x14 (a used)).pairTrap trail idx 0x14 (a used)
/-- A mismatch of a pair: the instruction that found it has not retired. -/
def State.mismatch (s : State) (lead trail idx kind addr : Nat) : State :=
  let t := s.mismatched lead trail idx kind addr
  { t with iss := { t.iss with lanes := 0 } }
/-- The leading copy's address that PAIR_MISMATCH shows (R349): that of the first thread whose part of the entry differs. A key holds
a head of `head` numbers and then as many for each address. -/
def PairEntry.badAddr (x y : PairEntry) (head : Nat) : Nat :=
  let n := (x.key.length - head) / max 1 x.addrs.length
  match (List.range x.key.length).find? fun i => x.key[i]? != y.key[i]? with
  | some i => x.addrs.getD (if i < head then 0 else (i - head) / max 1 n) 0
  | none => x.addrs.headD 0
/-- Perform a store that the leading copy has held and that has matched (R346, R358). One whose page a SEAL has reached since its checks
is not performed and raises SEALED_STORE in that warp of both copies; one whose key slot is refused is a violation (R352); one that another
check stops is not performed. DESIGN CHOICE (log 149). -/
def State.performHeld (s : State) (lead trail : Nat) (e : PairEntry) : State :=
  match s.ctx? s.blk.ctx, e.store with
  | some c, some x =>
    match s.check c .store x.1 x.2.length 1 with
    | none =>
      let core := ((s.block? lead).map fun (b : Block) => b.core).getD 0
      (s.before core (e.key.getD 1 0)).storeFor c lead e.warp x.1 x.2
    | some (.trap 0x0A kind a) =>
      let addr := (Fail.trap 0x0A kind a).addr
      let t := (s.pairTrap lead e.warp 0x0A addr).pairTrap trail e.warp 0x0A addr
      { t with iss := { t.iss with lanes := 0 } }
    | some (.trap 0x0C 2 a) => s.freeze c.id (((s.block? lead).map fun (b : Block) => b.core).getD 0) a
    | some _ => s
  | _, _ => s
/-- Compare the oldest unmatched entries of the issuing warp in the two copies (R346, R348): they match, and a store is performed, or the
mismatch is dealt with. -/
def State.comparePair (s : State) : State :=
  match s.pairIds with
  | none => s
  | some (lead, trail) =>
    let idx := s.wp.idx
    match (s.block? lead).bind fun b => b.unmatched idx, (s.block? trail).bind fun b => b.unmatched idx with
    | some x, some y =>
      if x.kind = y.kind && x.key = y.key then
        let s1 := (s.modBlk lead fun b => (b.markEntry x).retirePair idx).modBlk trail fun b => (b.markEntry y).retirePair idx
        s1.performHeld lead trail x
      else s.mismatch lead trail idx x.kind (x.badAddr y 2)
    | _, _ => s
/-- The issuing copy's buffer is full (R346). -/
def State.pairFull (s : State) : Bool := s.blk.compare.length ≥ 64
/-- Enter an entry into the issuing copy's buffer and compare. An entry of a warp that has just been restarted or has trapped is not
entered. -/
def State.enterPair (s : State) (e : PairEntry) : State :=
  if s.iss.lanes = 0 then s else { s with blk := { s.blk with compare := s.blk.compare ++ [e] } }.comparePair
/-- The issuing warp of a leading copy has made stores that have not matched: they are still to be performed. -/
def State.pairBusy (s : State) : Bool := s.blk.compare.any fun e => e.warp = s.wp.idx && e.kind = 1 && !e.done
/-- The entry of the issuing instruction. -/
def State.ownEntry (s : State) (kind : Nat) (key : List Nat) : Option PairEntry :=
  s.blk.compare.find? fun e => e.warp = s.wp.idx && e.kind = kind && e.key = key && !e.done

/-- Go on once the stores the issuing warp of a leading copy has made are performed (R297, R346). -/
def State.whenStored (s : State) (k : State → State) : State :=
  if s.blk.copy = .leading && s.pairBusy then s.waitRetry s.iss.lanes else k s
/-- The thread is parked. -/
def Thread.isParked (t : Thread) : Bool := match t.status with | .parked _ => true | _ => false
/-- An operation that is compared and then performed once, by the leading copy (R348): the leading copy waits until it matches, when
every earlier entry of the warp has matched and its stores have been performed (R358), and the trailing copy takes the forwarded results. A
block that is not paired performs it at once. -/
def State.paired (s : State) (kind : Nat) (key addrs : List Nat) (en : Mask) (perform : State → State)
    (take : State → Mask → List RegVal → State) : State :=
  if s.blk.copy = .single then perform s
  else
    let s1 := match s.ownEntry kind key with
      | some _ => s
      | none => if s.pairFull then s else s.enterPair ⟨s.wp.idx, kind, key, addrs, none, false, false⟩
    match s1.ownEntry kind key with
    | none => if s.ownEntry kind key = none && s.pairFull then s.waitRetry s.iss.lanes else s1
    | some e =>
      if !e.matched then s1.waitRetry s1.iss.lanes
      else if s1.blk.copy = .leading then
        let t := perform s1
        if t.iss.stays || (Mask.lanes en).all (fun l => (t.wp.thread l).isParked) then t
        else { t with blk := t.blk.doneEntry e }
      else if (s1.takeForward en).isNone then s1.waitRetry s1.iss.lanes
      else { s1 with blk := s1.blk.doneEntry e }.trailing en take

end Sys2Proof.Machine
end

