-- ==== Sys2Proof/Machine/Access.lean ====
section
/-! DEFINITION. The accesses of a group to generic memory and scratch: the cause of each thread (R213, R66), data
breakpoints (R317), parking (R214), and the form of R229. -/
namespace Sys2Proof.Machine

/-! ## Planted faults (R351) -/

/-- The context's ERRINJ register is armed with a kind, and the block's events count. -/
def State.armed (s : State) (b : Block) (kind : Nat) : Bool :=
  match s.ctx? b.ctx with
  | none => false
  | some c => c.errinj.getLsbD 63 && bits c.errinj.toNat 60 3 = kind && b.inject &&
      (if kind = 3 then b.copy = .trailing else b.copy != .trailing)
/-- Count one matching event of a block: whether the fault lands on it, and the state after. -/
def State.injected (s : State) (b : Block) (kind : Nat) : Bool × State :=
  if !s.armed b kind then (false, s)
  else match s.ctx? b.ctx with
    | none => (false, s)
    | some c =>
      if c.errCount = bits c.errinj.toNat 48 12 then
        (true, s.modCtx c.id fun c => { c with errinj := (c.errinj &&& ~~~(BitVec.ofNat 64 (2 ^ 63))) ||| 1 })
      else (false, s.modCtx c.id fun c => { c with errCount := c.errCount + 1 })

/-! ## Causes -/

/-- The cause of one thread's access. -/
inductive Cause where
  /-- The access is performed. -/
  | fine
  /-- A serviceable fault at an address (R214). -/
  | park (addr : Nat)
  /-- A trap cause of R310 and its TRAPADDR. -/
  | trap (code : Nat) (addr : DWord)
  /-- A data breakpoint: its index and KIND (R317). -/
  | bp (index kind : Nat)
  /-- UE_CONSUMED: SOURCE and WHERE (R336). -/
  | ue (src whereAt : Nat)
  /-- A page-table walk met an uncorrectable error (R333). -/
  | fatal
  /-- A violation at an address (R352). -/
  | violation (addr : Nat)
  deriving DecidableEq, Repr, Inhabited

/-- The cause traps or kills. -/
def Cause.stops : Cause → Bool
  | .fine => false
  | .park _ => false
  | _ => true
def Cause.parks : Cause → Bool
  | .park _ => true
  | _ => false
/-- Two causes that a trap reports together. -/
def Cause.same : Cause → Cause → Bool
  | .trap a _, .trap b _ => a = b
  | .bp _ _, .bp _ _ => true
  | .ue _ _, .ue _ _ => true
  | .fatal, .fatal => true
  | _, _ => false
/-- The cause of a failed check of R213. -/
def Cause.ofFail : Option Fail → Cause
  | none => .fine
  | some (.demand a) => .park a
  | some .fatal => .fatal
  | some (.violation a) => .violation a
  | some (.trap code kind a) => .trap code (Fail.trap code kind a).addr

/-- The lowest data breakpoint an access matches (R316, R317), as the issuing warp sees the registers (R321): index and KIND. -/
def State.dataBreak (s : State) (c : Ctx) (load store : Bool) (va n : Nat) : Option (Nat × Nat) :=
  ((List.range 8).filterMap fun i =>
    let b := (s.csrSeen c (0x018 + i)).toNat
    let kind := bits b 61 2
    let g := bits b 0 57 / 8 * 8
    if (load || store) && bit b 63 && ((kind = 1 && store) || (kind = 2 && load) || kind = 3) && g < va + n && va < g + 8 then some (i, kind)
    else none).head?

/-- What an instruction does at one address of generic memory. -/
structure Access where
  /-- Address of each lane. -/
  addr  : Nat → Nat
  bytes : Nat
  /-- Natural alignment required, 1 for none. -/
  need  : Nat
  load  : Bool
  store : Bool
  /-- The data read is consumed (R213 step 7). -/
  reads : Bool

/-- Steps 1 to 6 of R213 for one address. -/
def State.checkCause (s : State) (c : Ctx) (x : Access) (a : Nat) : Cause :=
  Cause.ofFail (s.check c (if x.store then .store else .load) a x.bytes x.need)
/-- Step 7 for one address. A record of LAUNCH, the one access aligned to more than a granule, is reported by its own address
(R172). -/
def State.poisonCause (s : State) (c : Ctx) (x : Access) (a : Nat) : Cause :=
  if !x.reads then .fine
  else match s.consumed c a x.bytes with
    | some w => .ue 0 (if 64 < x.need then a else w)
    | none => .fine
/-- The cause of lane `l` from that of its address in steps 1 to 6: a data breakpoint comes between them and step 7. -/
def State.breakCause (s : State) (c : Ctx) (x : Access) (a l : Nat) (checked : Cause) : Cause :=
  match checked with
  | .fine =>
    let t := s.wp.thread l
    match (if t.handler || t.exempt then none else s.dataBreak c x.load x.store a x.bytes) with
    | some (i, k) => .bp i k
    | none => s.poisonCause c x a
  | y => y
/-- The whole cause of lane `l`: steps 1 to 6, a data breakpoint, step 7. -/
def State.laneCause (s : State) (c : Ctx) (x : Access) (l : Nat) : Cause :=
  s.breakCause c x (x.addr l) l (s.checkCause c x (x.addr l))
/-- The causes of the enabled lanes. -/
def causesOf (en : Mask) (f : Nat → Cause) : Lanes Cause :=
  Lanes.of fun l => if Mask.has en l then f l else .fine

/-- The trap, parking or performance that a group's causes give (R229): the lowest stopping thread's cause, TRAPMASK the
threads with it; else the faulting threads park and the rest perform `k`. `kind` is the access kind of a fault: 0 read, 1
write, 2 fetch. -/
def State.dealCauses (s : State) (en : Mask) (kind : Nat) (cs : Lanes Cause) (k : State → Mask → State) : State :=
  let stop := maskOf fun l => (cs.at l).stops
  if stop != 0 then
    let c0 := cs.at (Mask.low stop)
    let m := maskOf fun l => Cause.same (cs.at l) c0
    match c0 with
    | .trap code a => (s.forward (.trap (BitVec.ofNat 8 code) a m)).trap code a m
    | .bp _ _ =>
      let best := (Mask.lanes m).foldl (fun (b : Nat × Nat) l => match cs.at l with
        | .bp i k => if i < b.1 then (i, k) else b
        | _ => b) (8, 0)
      let a : DWord := BitVec.ofNat 64 (best.1 + best.2 * 16)
      (s.forward (.trap 0x17 a m)).trap 0x17 a m
    | .ue src w => s.consume src w m
    | .fatal => s.failWith .fatal en kind
    | .violation a => s.failWith (.violation a) en kind
    | _ => s
  else
    let parked := maskOf fun l => (cs.at l).parks
    let rest := en &&& ~~~parked
    let s1 := if parked = 0 then s else
      match cs.at (Mask.low parked) with
      | .park a => s.park parked a kind
      | _ => s
    (if rest = 0 then s1 else k s1 rest).goOn
/-- A lost store of the block's kill unit that is still to be reported: its address (R364). -/
def State.unitLost (s : State) : Option Nat :=
  ((s.unitOf s.blk).filterMap fun i => ((s.block? i).bind fun b => b.lost).map Prod.snd).head?
/-- A lost store of the block's unit is consumed at the unit's next access or ordering instruction (R364). -/
def State.lostFirst (s : State) (k : State → State) : State :=
  match s.unitLost with
  | some a => s.consume 0 a s.iss.lanes
  | none => k s
/-- An access of the enabled threads to generic memory (R229). With `uniform` every thread has one address. -/
def State.access (s : State) (en : Mask) (uniform : Bool) (x : Access) (k : State → Ctx → Mask → State) : State :=
  match s.ctx? s.blk.ctx with
  | none => s
  | some c =>
    s.lostFirst fun s =>
      let a := x.addr (Mask.low en)
      let one := s.checkCause c x a
      let cs := causesOf en fun l => if uniform then s.breakCause c x a l one else s.laneCause c x l
      s.dealCauses en (if x.store then 1 else 0) cs fun s m =>
        let vas := (if uniform then [x.addr (Mask.low m)] else (Mask.lanes m).map x.addr).flatMap fun a => (parts a x.bytes).map Prod.fst
        k (s.missTlb s.blk.core c vas) c m

/-! ## Scratch and gang windows -/

/-- The causes of a scratch access (R230): MISALIGN, SCRATCH_BOUNDS with the lowest offending thread's offset, UE_CONSUMED. -/
def Block.scrCause (b : Block) (ok : Bool) (off bytes need : Nat) (load : Bool) : Cause :=
  if off % need != 0 then .trap 0x08 (BitVec.ofNat 64 off)
  else if !ok || off + bytes > b.header.scratch then .trap 0x09 (BitVec.ofNat 64 off)
  else if !load then .fine
  else match b.scrConsumed off bytes with
    | some w => .ue 1 w
    | none => .fine
/-- The member of the issuing block's gang with a partner index (R60). -/
def State.partner? (s : State) (p : Nat) : Option Block :=
  s.blocksNow.find? fun b => b.ctx = s.blk.ctx && b.node = s.blk.node && b.copy = s.blk.copy &&
    b.index = s.blk.index / s.blk.header.gang * s.blk.header.gang + p

/-! ## Performing generic accesses -/

/-- A core reads bytes of generic memory: their lines fill the caches. -/
def State.fillFor (s : State) (c : Ctx) (core va n : Nat) : State :=
  (parts va n).foldl (fun s p => match s.xlat c p.1 with
    | .ok l => (linePieces l.pa p.2).foldl (fun s q => s.fill c.id core (s.keyName l.key) q.1 q.2 l.sealed) s
    | _ => s) s
/-- A read of the issuing core. -/
def State.fillRange (s : State) (c : Ctx) (va n : Nat) : State := s.fillFor c s.blk.core va n
/-- Values of a load by lane: one for a uniform address. -/
def State.loaded (s : State) (c : Ctx) (uniform : Bool) (x : Access) (m : Mask) : Nat → List Byte :=
  let low := s.loadVa c (x.addr (Mask.low m)) x.bytes
  fun l => if uniform then low else s.loadVa c (x.addr l) x.bytes

/-- Values of a plain load of the issuing warp by lane: what it sees (R301, R308). -/
def State.seen (s : State) (c : Ctx) (uniform : Bool) (x : Access) (m : Mask) : Nat → List Byte :=
  let low := s.seenVa c (x.addr (Mask.low m)) x.bytes
  fun l => if uniform then low else s.seenVa c (x.addr l) x.bytes

/-- An access of some lanes goes through a leaf that R211 forbids. -/
def State.strays (s : State) (c : Ctx) (x : Access) (m : Mask) : Bool :=
  (Mask.lanes m).any fun l => (s.leaves c (x.addr l) x.bytes).any fun p => p.1.stray

/-- Bytes of a size code of R227. -/
def sizeBytes (size : Nat) : Nat :=
  match size with
  | 0 => 1
  | 1 => 1
  | 2 => 2
  | 3 => 2
  | 4 => 4
  | 5 => 8
  | _ => 16
/-- Registers of a datum. -/
def sizeRegs (size : Nat) : Nat := match size with | 5 => 2 | 6 => 4 | _ => 1
/-- Word `i` of a loaded datum, extended as its size code says (R227). -/
def loadWord (size i : Nat) (bs : List Byte) : Word :=
  let x := ofBytes bs
  match size with
  | 1 => (BitVec.ofNat 8 x).signExtend 32
  | 3 => (BitVec.ofNat 16 x).signExtend 32
  | _ => BitVec.ofNat 32 (x >>> (32 * i))
/-- The destinations of a load: U from a uniform address, else V (R229). -/
def loadVals (size : Nat) (uniform : Bool) (m : Mask) (g : Nat → List Byte) : List RegVal :=
  (List.range (sizeRegs size)).map fun i =>
    if uniform then .u (loadWord size i (g (Mask.low m)))
    else
      let row : Lanes Word := Lanes.of fun l => if Mask.has m l then loadWord size i (g l) else 0
      .v row
/-- Unpredictable values for registers (R11): V, any value in each lane. -/
def State.freeVals (s : State) (regs : Nat) : List RegVal :=
  (List.range regs).map fun i => .lanes fun l => Config.freeWord s.free (s.turn * 2 ^ 64 + 128 * i + l)
/-- Registers with values, ascending from `d`; 511 discards all (R70). -/
def destRegs (d : Nat) (vals : List RegVal) : List (Nat × RegVal) :=
  if d = 511 then [] else (List.range vals.length).map fun i => (d + i, vals.getD i (.u 0))
/-- The bytes of a store of lane `l`. -/
def State.storeBytes (s : State) (size r l : Nat) : List Byte :=
  ((List.range (sizeRegs size)).flatMap fun i => bytesOf (s.wp.val (r + i) l).toNat 4).take (sizeBytes size)
/-- Every register of a datum is U. -/
def State.datumU (s : State) (size r : Nat) : Bool := (List.range (sizeRegs size)).all fun i => (s.wp.rv (r + i)).shape = 0

end Sys2Proof.Machine
end

