-- ==== Sys2Proof/Machine/Shootdown.lean ====
section
/-! DEFINITION. Shoot-downs (R217), the pages of a range (R236) and pins (R222, R223). -/
namespace Sys2Proof.Machine

/-- The owner of a completed shoot-down goes on (R237). -/
def Thread.shotDown (t : Thread) (id : Nat) : Thread :=
  match t.status with
  | .waiting (.shoot i len) => if i = id then t.resume len else t
  | _ => t
/-- A translation of a context touches a range. -/
def TlbEntry.touches (e : TlbEntry) (ctx va len : Nat) : Bool :=
  e.ctx = ctx && e.page * 4096 < va + len && va < e.page * 4096 + e.size
/-- Drop a core's translations in a range of a context. -/
def Core.dropTlb (c : Core) (ctx va len : Nat) : Core := { c with tlb := c.tlb.filter fun e => !e.touches ctx va len }
/-- A core acknowledges a shoot-down (R217); when it is the last, the shoot-down completes and its owner, or the command that waits for it, goes
on. -/
def State.ackShoot (s : State) (id core : Nat) : State :=
  match s.shootdowns.find? fun d => d.id = id with
  | none => s
  | some d =>
    if !d.owing.contains core then s
    else
      let s1 := s.modCore core fun c => c.dropTlb d.ctx d.va d.len
      let d1 := { d with owing := d.owing.filter fun x => x != core }
      if d1.owing.isEmpty then
        let s2 := { s1 with shootdowns := s1.shootdowns.filter fun x => x.id != id }
        match d.owner with
        | some (b, w) => s2.modWarp b w fun x => x.mapThreads Mask.all fun _ t => t.shotDown id
        | none => (s2.mgmt.filterMap fun m => m.hold).foldl (fun s h => if h.1 = id then s.push h.2 else s) s2
      else { s1 with shootdowns := s1.shootdowns.map fun x => if x.id = id then d1 else x }
/-- Cores that hold translations of a context or run its blocks, fenced ones among them; every other core acknowledges at once. -/
def State.tlbCores (s : State) (ctx : Nat) : List Nat :=
  (List.range s.cores.length).filter fun c =>
    let k := s.core c
    !k.gated && (k.tlb.any (fun e => e.ctx = ctx) || s.blocks.any fun b => b.core = c && b.ctx = ctx)
/-- Issue a shoot-down of a range of a context (R217): its name, and the state with the acknowledgements to come. A core
that owes none has dropped its translations. -/
def State.shoot (s : State) (ctx va len : Nat) (owner : Option (Nat × Nat)) : Nat × State :=
  let id := s.nextShoot
  let cs := s.tlbCores ctx
  let s1 : State := { s with
    nextShoot := id + 1
    dies := s.dies.map fun d => { d with tlb := d.tlb.filter fun e => !e.touches ctx va len } }
  if cs.isEmpty then (id, s1)
  else
    let s2 := { s1 with shootdowns := s1.shootdowns ++ [⟨id, owner, ctx, va, len, s.now, cs⟩] }
    (id, cs.foldl (fun s c => s.push (.shootdownAck id c)) s2)

/-! ## Ranges of pages -/

/-- The pages of a range. -/
def pagesOf (va len : Nat) : List Nat := (List.range ((len + 4095) / 4096)).map fun i => va + 4096 * i
/-- Steps 2 to 4 of R213 over the pages of a range, then PROTECTION kind 5 for a page in the heap window (R236). -/
def State.pagesCause (s : State) (c : Ctx) (va len : Nat) (heapOk : Bool) : Cause :=
  let xs := (pagesOf va len).map fun a => (a, s.xlat c a)
  let pick (f : Nat × Xlat → Option Cause) : Option Cause := (xs.filterMap f).head?
  ((pick fun p => if p.1 ≥ 2 ^ 57 then some (.trap 0x0B (Fail.trap 0x0B 1 p.1).addr) else none).orElse fun _ =>
   (pick fun p => match p.2 with
     | .fail k => some (.trap 0x0B (Fail.trap 0x0B k p.1).addr)
     | .fatal => some .fatal
     | _ => none).orElse fun _ =>
   (pick fun p => match p.2 with | .demand => some (.park p.1) | _ => none).orElse fun _ =>
   (if heapOk then none else pick fun p =>
     if c.inHeap p.1 then some (.trap 0x0C (Fail.trap 0x0C 5 p.1).addr) else none)).getD .fine
/-- Where the leaves of a range stand: none for a page of the heap window (R210). -/
def State.leafEntries (s : State) (c : Ctx) (va len : Nat) : List Nat :=
  (pagesOf va len).filterMap fun a => match s.xlat c a with | .ok l => if l.heap then none else some l.entry | _ => none
/-- The physical lines of a range, with their virtual addresses. -/
def State.linesOf (s : State) (c : Ctx) (va len : Nat) : List (Nat × Nat) :=
  (pagesOf va len).flatMap fun a => match s.xlat c a with
    | .ok l => (List.range 32).map fun i => (a + 128 * i, lineOf (l.pa + 128 * i))
    | _ => []
/-- Set or clear S in the leaves of a range (R237): the copies the context has of its lines are lines of sealed pages from now on, or
are not (R219, R224). -/
def State.setSealed (s : State) (c : Ctx) (va len : Nat) (on : Bool) : State :=
  let ls := (s.linesOf c va len).map Prod.snd
  (s.leafEntries c va len).foldl (fun t a =>
    let e := BitVec.ofNat 64 (t.readNum a 8)
    t.writePa a (bytesOf (if on then e ||| 0x20 else e &&& ~~~(0x20 : DWord)).toNat 8))
    { s with caches := s.caches.map fun x => if x.ctx = c.id && ls.contains x.line then { x with sealed := on } else x }
/-- Pins of a context in the L2 of a die (R222). -/
def State.pinsOn (s : State) (ctx die : Nat) : Nat :=
  (s.pins.filter fun p => p.ctx = ctx && homeDie (p.line * 128) = die).length
/-- Lines a context may pin in a die's L2: 16 MiB (R222). -/
def pinQuota : Nat := 131072
/-- Revoke the pins a context has by one of its pages, with PIN_REVOKED (R223): their lines are written back. -/
def State.revokePins (s : State) (ctx va : Nat) : State :=
  let page := va / 4096
  let gone (p : Pin) : Bool := p.ctx = ctx && p.va / 4096 = page
  if s.pins.any gone then
    { s with
      pins := s.pins.filter fun p => !gone p
      caches := s.caches.map fun (x : CacheLine) => if s.pins.any (fun p => gone p && p.line = x.line) then { x with dirty := 0 } else x }.post ctx
      0x03 0 (BitVec.ofNat 64 (page * 4096)) 0 0
  else s
/-- A pinned line lies in a frame of `n` bytes. -/
def Pin.inFrame (p : Pin) (pa n : Nat) : Bool := pa ≤ p.line * 128 && p.line * 128 < pa + n
/-- Every pin of a frame is revoked, whichever context and address it was made by. -/
def State.revokeFrame (s : State) (pa n : Nat) : State :=
  let pages := ((s.pins.filter fun p => p.inFrame pa n).map fun p => (p.ctx, p.va / 4096)).eraseDups
  pages.foldl (fun s p => s.revokePins p.1 (p.2 * 4096)) s

end Sys2Proof.Machine
end

