-- ==== Sys2Proof/Machine/MemoryOps.lean ====
section
/-! DEFINITION. The memory instructions, opcodes 0x80-0x90 (R227-R239), and QDEC, which loads a codebook entry (R205). -/
namespace Sys2Proof.Machine

/-- ORD and the size code (R227). -/
def ordOf (f : Fields) : Nat := f.m 7 4
def sizeOf (f : Fields) : Nat := f.m 2 0
/-- Natural alignment is required with an ORD (R229). -/
def needOf (f : Fields) : Nat := if ordOf f = 0 then 1 else sizeBytes (sizeOf f)
/-- The address pair is U (R207). -/
def State.addrU (s : State) (f : Fields) : Bool := s.wp.pairShape f.vb.toNat = 0

/-! ## Loads -/

/-- Write what a load returned: pending until it completes (R128). -/
def State.putLoad (s : State) (f : Fields) (swap : Bool) (m : Mask) (vals : List RegVal) : State :=
  s.pend f.la.toNat swap m (destRegs f.vd.toNat vals)
/-- The accesses of an LD that are performed: none when a thread traps, else those of the threads that do not park. -/
def State.performing (s : State) (c : Ctx) (x : Access) (u : Bool) (en : Mask) : List Nat :=
  let cause (l : Nat) : Cause := s.laneCause c x l
  if (Mask.lanes en).any fun l => (match cause l with | .ue _ _ => false | y => y.stops) then []
  else (if u then [Mask.low en] else Mask.lanes en).filter fun l => !(cause l).parks
/-- Count the accesses of an LD that are performed, and plant MEM_UE on the one it lands on (R351); none is when a lost store of the
unit is to be consumed first (R364). -/
def State.plantMem (s : State) (c : Ctx) (x : Access) (u : Bool) (en : Mask) : State :=
  if !s.armed s.blk 2 || s.unitLost.isSome then s
  else (s.performing c x u en).foldl (fun s l =>
    let (hit, s1) := s.injected s.blk 2
    if hit then match s1.xlat c (x.addr l % 2 ^ 64) with
      | .ok p => s1.setPoison p.pa
      | _ => s1
    else s1) s
/-- The fill of caches by a load's lanes. -/
def State.fillLanes (s : State) (c : Ctx) (uniform : Bool) (x : Access) (m : Mask) : State :=
  (if uniform then [Mask.low m] else Mask.lanes m).foldl (fun s l => s.fillRange c (x.addr l) x.bytes) s
/-- What a load of lanes whose checks passed leaves in its registers: unpredictable values at a leaf that R211 forbids (R9, R11), else what
the warp sees, or with an order the last write. -/
def State.loadGives (s : State) (c : Ctx) (size ord : Nat) (u : Bool) (x : Access) (m : Mask) : List RegVal :=
  if s.strays c x m then s.freeVals (sizeRegs size)
  else loadVals size u m (if ord = 0 then s.seen c u x m else s.loaded c u x m)
/-- LD (R229). -/
def State.load (s : State) (f : Fields) : State :=
  let en := s.en f
  let u := s.addrU f
  let x : Access := ⟨s.addr f, sizeBytes (sizeOf f), needOf f, true, false, true⟩
  if en = 0 then s.advance
  else if s.blk.copy = .trailing then s.trailing en fun s m vals => s.putLoad f true m vals
  else if s.blk.copy = .leading && s.pairBusy then s.waitRetry s.iss.lanes
  else
    let s0 := match s.ctx? s.blk.ctx with
      | some c => s.plantMem c x u en
      | none => s
    s0.access en u x fun s c m =>
      let vals := s.loadGives c (sizeOf f) (ordOf f) u x m
      (((s.fillLanes c u x m).order s.blk.core (ordOf f)).forward (.values m vals)).putLoad f true m vals
/-- LD (R229). -/
def execLd (f : Fields) (s : State) : Out := .next (s.load f)

/-- The window of an LDX or STX lane: the partner's block and whether the index is in range (R66). -/
def State.window (s : State) (f : Fields) (gang : Bool) (l : Nat) : Block × Bool :=
  if !gang then (s.blkNow, true)
  else
    let p := (s.wp.val f.vc.toNat l).toNat
    match (if p < s.blk.header.gang then s.partner? p else none) with
    | some b => (b, true)
    | none => (s.blkNow, false)
/-- LDS and LDX (R229, R230). -/
def State.loadScr (s : State) (f : Fields) (gang : Bool) : State :=
  let en := s.en f
  let size := sizeOf f
  let u := allU ([s.wp.rv f.vb.toNat] ++ if gang then [s.rvC f] else [])
  if en = 0 then s.advance
  else
    let cause (l : Nat) : Cause :=
      let w := s.window f gang l
      w.1.scrCause w.2 (s.offs f l) (sizeBytes size) (needOf f) true
    let one := cause (Mask.low en)
    s.lostFirst fun s => s.dealCauses en 0 (causesOf en fun l => if u then one else cause l) fun s m =>
      let g (l : Nat) : List Byte := (s.window f gang l).1.readScr (s.offs f l) (sizeBytes size)
      (s.order s.blk.core (ordOf f)).putLoad f gang m (loadVals size u m g)
/-- LDS (R230). -/
def execLds (f : Fields) (s : State) : Out := .next (s.loadScr f false)
/-- LDX (R230). -/
def execLdx (f : Fields) (s : State) : Out := .next (s.loadScr f true)

/-- Bytes of a constant bank: bank 0 of the bound version, or bank 1 of the launch (R231). -/
def State.bank (s : State) (one : Bool) : List Byte :=
  if one then ((s.node? s.blk.ctx s.blk.node).map fun (n : Node) => n.bank1).getD []
  else ((s.version? s.blk.ctx s.blk.obj s.blk.tag).map Version.bank0).getD []
/-- Offsets of a bank whose bytes came poisoned, and the address the bank was copied from (R333). -/
def State.bankBad (s : State) (one : Bool) : List Nat × Nat :=
  if one then ((s.node? s.blk.ctx s.blk.node).map fun (n : Node) => (n.bad1, n.record.dst)).getD ([], 0)
  else ((s.version? s.blk.ctx s.blk.obj s.blk.tag).map fun (v : Version) => (v.bad0, s.blk.obj + v.header.cbOff)).getD ([], 0)
/-- What LDC consumes (R231, R336): the bank and the address of the lowest poisoned byte that the lowest such thread reads. DESIGN CHOICE (log
153): SOURCE 0, and WHERE the address the byte was copied from. -/
def State.bankConsumed (s : State) (one : Bool) (en : Mask) (off : Nat → Nat) (n : Nat) : Option (Nat × Mask) :=
  let (bad, base) := s.bankBad one
  let hit (l : Nat) : Option Nat := (List.range n).find? fun i => bad.contains ((off l + i) % 2 ^ 32)
  let m := maskOf fun l => Mask.has en l && (hit l).isSome
  if bad.isEmpty || m = 0 then none else some (base + (off (Mask.low m) + (hit (Mask.low m)).getD 0) % 2 ^ 32, m)
/-- LDC (R231). -/
def execLdc (f : Fields) (s : State) : Out :=
  let en := s.en f
  let u := (s.wp.rv f.vb.toNat).shape = 0
  let size := sizeOf f
  let bank := s.bank (f.b 3)
  let g (l : Nat) : List Byte :=
    (List.range (sizeBytes size)).map fun i => bank.getD ((s.offs f l + i) % 2 ^ 32) 0
  let vals := loadVals size u en g
  .next (
    if en = 0 then s.advance
    else if s.blk.copy = .trailing then s.trailing en fun s m vals => s.putLoad f false m vals
    else match s.bankConsumed (f.b 3) en (s.offs f) (sizeBytes size) with
    | some (w, m) => s.consume 0 w m
    | none => ((s.forward (.values en vals)).putLoad f false en vals).advance)

/-! ## Stores -/

/-- The stores of a store instruction, ascending: one by the lowest thread when address and data are U (R229). -/
def State.storeList (s : State) (f : Fields) (u : Bool) (m : Mask) : List (Nat × List Byte) :=
  (if u then [Mask.low m] else Mask.lanes m).map fun l => (s.addr f l, s.storeBytes (sizeOf f) f.va.toNat l)
/-- Invert bit 0 of the data of a list of bytes. -/
def flipBit0 (bs : List Byte) : List Byte := match bs with | b :: r => (b ^^^ 1) :: r | [] => []
/-- The compare entry of one store (R346): size, ORD, address and data are compared. -/
def State.storeEntry (s : State) (f : Fields) (x : Nat × List Byte) : PairEntry :=
  ⟨s.wp.idx, 1, [sizeOf f, ordOf f, x.1, ofBytes x.2], [x.1], some x, false, false⟩
/-- The stores of an instruction whose buffer is full stay to be entered: the threads that would go on wait with it (R346). -/
def State.holdStores (s : State) (left : Mask) : State :=
  let m := s.iss.lanes &&& s.wp.threads.mask fun t => t.status = .eligible
  ({ s with blk := { s.blk with entering := s.blk.entering ++ [(s.wp.idx, m, left)] } }).waitRetry m
/-- Enter the stores of some lanes into the compare buffer, each as an entry, while it has room (R346). Of those of the trailing copy
PAIR_FLIP inverts bit 0 of the one it lands on (R351). -/
def State.enterStores (s : State) (f : Fields) : List (Nat × Nat × List Byte) → State
  | [] => s
  | x :: xs =>
    if s.iss.lanes = 0 then s
    else if s.pairFull then s.holdStores (maskOf fun l => (x :: xs).any fun y => y.1 = l)
    else
      let (hit, s1) := s.injected s.blk 3
      (s1.enterPair (s1.storeEntry f (x.2.1, if hit then flipBit0 x.2.2 else x.2.2))).enterStores f xs
/-- Enter the stores of the lanes of an ST. -/
def State.enterLanes (s : State) (f : Fields) (u : Bool) (m : Mask) : State :=
  let lanes := if u then [Mask.low m] else Mask.lanes m
  s.enterStores f (lanes.zip (s.storeList f u m))
/-- ST of a copy of a pair (R346): the checks once, by the leading copy, then its entries as the buffer has room. -/
def State.storePair (s : State) (f : Fields) (u : Bool) (x : Access) : State :=
  let en := s.en f
  match s.blk.entering.find? fun p => p.1 = s.wp.idx && p.2.1 &&& ~~~s.iss.lanes = 0 with
  | some p =>
    let s1 : State := { s with blk := { s.blk with entering := s.blk.entering.erase p } }
    ((s1.setStatus (s1.iss.lanes &&& ~~~p.2.1) (.waiting .retry)).enterLanes f false p.2.2).goOn
  | none =>
    if s.pairFull then s.waitRetry s.iss.lanes
    else if s.blk.copy = .trailing then s.trailing en fun s m _ => s.enterLanes f u m
    else s.access en (s.addrU f) x fun s _ m => (s.forward (.values m [])).enterLanes f u m
/-- ST (R229, R346). -/
def State.storeGen (s : State) (f : Fields) : State :=
  let en := s.en f
  let u := s.addrU f && s.datumU (sizeOf f) f.va.toNat
  let x : Access := ⟨s.addr f, sizeBytes (sizeOf f), needOf f, false, true, false⟩
  if en = 0 then s.advance
  else if s.blk.copy != .single then s.storePair f u x
  else
    s.access en (s.addrU f) x fun s c m =>
      (s.storeList f u m).foldl (fun s y => s.storeFor c s.blk.id s.wp.idx y.1 y.2) (s.before s.blk.core (ordOf f))
/-- ST (R229). -/
def execSt (f : Fields) (s : State) : Out := .next (s.storeGen f)

/-- STS and STX (R229, R230). -/
def State.storeScr (s : State) (f : Fields) (gang : Bool) : State :=
  let en := s.en f
  let size := sizeOf f
  let au := allU ([s.wp.rv f.vb.toNat] ++ if gang then [s.rvC f] else [])
  let u := au && s.datumU size f.va.toNat
  if en = 0 then s.advance
  else
    let cause (l : Nat) : Cause :=
      let w := s.window f gang l
      w.1.scrCause w.2 (s.offs f l) (sizeBytes size) (needOf f) false
    let whenReady (k : State → State) : State := if ordOf f = 0 then k s else s.whenStored k
    let one := cause (Mask.low en)
    whenReady fun s => s.lostFirst fun s => s.dealCauses en 1 (causesOf en fun l => if au then one else cause l) fun s m =>
      (if u then [Mask.low m] else Mask.lanes m).foldl (fun t l =>
        t.writeScr (s.window f gang l).1.id (s.offs f l) (s.storeBytes size f.va.toNat l)) (s.before s.blk.core (ordOf f))
/-- STS (R230). -/
def execSts (f : Fields) (s : State) : Out := .next (s.storeScr f false)
/-- STX (R230). -/
def execStx (f : Fields) (s : State) : Out := .next (s.storeScr f true)

/-! ## Atomics -/

/-- The new value of ATOM and RED (R232). -/
def atomNew (op m b : Nat) : Nat :=
  let w (x : Nat) : Word := BitVec.ofNat 32 x
  match op with
  | 0 => (m + b) % 2 ^ 32
  | 1 => m &&& b
  | 2 => m ||| b
  | 3 => m ^^^ b
  | 4 => if m ≤ b then m else b
  | 5 => if (w m).sle (w b) then m else b
  | 6 => if b ≤ m then m else b
  | 7 => if (w b).sle (w m) then m else b
  | 8 => b
  | 9 => if m ≥ b then 0 else m + 1
  | 10 => if m = 0 || m > b then b else m - 1
  | 11 => (fp32.arith .add 0 false m b 0).1
  | 12 => (m + b) % 2 ^ 64
  | 13 => b
  | _ => if b ≤ m then m else b
/-- Bytes of an atomic operation's datum. -/
def atomBytes (op : Nat) : Nat := if op ≥ 12 then 8 else 4
/-- The value of a register, pair or range of 4 in lane `l`. -/
def Warp.wide (w : Warp) (r regs l : Nat) : Nat :=
  (List.range regs).foldl (fun a i => a + (w.val (r + i) l).toNat * 2 ^ (32 * i)) 0
/-- A step of an atomic writes its datum at its home (R218). -/
def State.storeHome (s : State) (c : Ctx) (blk warp va : Nat) (bs : List Byte) : State := s.storeAs c false true blk warp va bs
/-- Atomic steps of the lanes in ascending order, each at its address: the old values and the state after. -/
def State.atomics (s : State) (c : Ctx) (bytes : Nat) (new : Nat → Nat → Option Nat) (addr : Nat → Nat) :
    List Nat → State × List (Nat × Nat)
  | [] => (s, [])
  | l :: ls =>
    let m := ofBytes (s.loadVa c (addr l) bytes)
    let s1 := match new l m with
      | some n => s.storeHome c s.blk.id s.wp.idx (addr l) (bytesOf n bytes)
      | none => s
    let (s2, rest) := s1.atomics c bytes new addr ls
    (s2, (l, m) :: rest)
/-- A step of an atomic, by its lane and the old value, does what software must not: it writes what it must not, or through a leaf that
R211 forbids. -/
def State.atomicBad (s : State) (c : Ctx) (bytes : Nat) (new : Nat → Nat → Option Nat) (addr : Nat → Nat) (old : List (Nat × Nat)) : Bool :=
  old.any fun p =>
    ((s.leaves c (addr p.1) bytes).any fun q => q.1.stray) ||
    match new p.1 p.2 with
    | some n => s.offends c (addr p.1) (bytesOf n bytes)
    | none => false
/-- The old values as the registers of a V result. -/
def oldVals (regs : Nat) (xs : List (Nat × Nat)) : List RegVal :=
  (List.range regs).map fun i =>
    let row : Lanes Word := Lanes.of fun l =>
      match xs.find? fun p => p.1 = l with
      | some p => BitVec.ofNat 32 (p.2 >>> (32 * i))
      | none => 0
    .v row
/-- ATOM, ATOMCAS and RED: `new l m` is what lane `l` stores over `m`; `regs` registers of result, none for RED. -/
def State.atomic (s : State) (f : Fields) (bytes regs : Nat) (key : Nat → List Nat) (new : Nat → Nat → Option Nat) : State :=
  let en := s.en f
  if en = 0 then s.advance
  else
    let x : Access := ⟨s.addr f, bytes, bytes, true, true, regs != 0⟩
    let k := ordOf f :: (s.en f).toNat :: (Mask.lanes en).flatMap fun l => s.addr f l :: key l
    s.setNonIdem.paired 2 k ((Mask.lanes en).map (s.addr f)) en
      (fun s => s.access en (s.addrU f) x fun s c m =>
        let (s1, old) := (s.spoilRegion.before s.blk.core (ordOf f)).atomics c bytes new x.addr (Mask.lanes m)
        let vals := if s.atomicBad c bytes new x.addr old then s.freeVals regs else oldVals regs old
        let s2 := (s1.order s.blk.core (ordOf f)).forward (.values m vals)
        if regs = 0 then s2 else s2.putLoad f true m vals)
      fun s m vals => if regs = 0 then s.spoilRegion else s.spoilRegion.putLoad f true m vals
/-- ATOM (R232). -/
def execAtom (f : Fields) (s : State) : Out :=
  let op := f.m 3 0
  let regs := atomBytes op / 4
  let b (l : Nat) : Nat := s.wp.wide f.va.toNat regs l
  .next (s.atomic f (atomBytes op) regs (fun l => [op, b l]) fun l m => some (atomNew op m (b l)))
/-- ATOMCAS (R233). -/
def execAtomcas (f : Fields) (s : State) : Out :=
  let regs := 2 ^ f.m 1 0
  let cmp (l : Nat) : Nat := s.wp.wide f.va.toNat regs l
  let new (l : Nat) : Nat := s.wp.wide f.vc.toNat regs l
  .next (s.atomic f (4 * regs) regs (fun l => [16, cmp l, new l]) fun l m => if m = cmp l then some (new l) else none)
/-- RED (R232). -/
def execRed (f : Fields) (s : State) : Out :=
  let op := f.m 3 0
  let b (l : Nat) : Nat := s.wp.wide f.va.toNat (atomBytes op / 4) l
  .next (s.atomic f (atomBytes op) 0 (fun l => [op, b l]) fun l m => some (atomNew op m (b l)))

/-! ## PREF, FENCE and CCTL -/

/-- What PREF does for one address (R234): its line starts towards the named level, 0 the L1, 1 the L2 or RDC, 2 the base-die cache,
or its translation, 3, towards the TLB. A fault drops the prefetch. -/
def State.prefetch (s : State) (c : Ctx) (level va : Nat) : State :=
  match s.check c .load va 1 1, s.xlat c va with
  | none, .ok l =>
    if level = 3 then (s.walkFill s.blk.core c va).fillTlb s.blk.core c.id va l
    else s.cache (s.copies c.id s.blk.core (s.keyName l.key) (lineOf l.pa * 128) 128 l.sealed level)
  | _, _ => s
/-- PREF (R234): no trap, no effect on memory. -/
def execPref (f : Fields) (s : State) : Out :=
  .next (match s.ctx? s.blk.ctx with
    | none => s.advance
    | some c => ((Mask.lanes (s.en f)).foldl (fun t l => t.prefetch c (f.m 2 0) (s.addr f l)) s).advance)
/-- A shoot-down of the warp is in progress. -/
def State.shooting (s : State) : Bool := s.shootdowns.any fun d => d.owner = some (s.blk.id, s.wp.idx)
/-- The scope of an ORD code, and whether it has an acquire (R228). -/
def ordScope (ord : Nat) : Nat := (ord - 1) % 5
def acquires (ord : Nat) : Bool := (1 ≤ ord && ord ≤ 5) || 11 ≤ ord
/-- A FENCE of some threads covers the ranges they made writable with UNSEAL at its scope or a narrower one (R237). -/
def State.covered (s : State) (scope : Nat) (m : Mask) : State :=
  let after (u : Unfenced) : Unfenced :=
    if u.blk = s.blk.id && u.warp = s.wp.idx && u.scope ≤ scope then { u with lanes := u.lanes &&& ~~~m } else u
  { s with unfenced := (s.unfenced.map after).filter fun u => u.lanes != 0 }
/-- FENCE (R235): it waits for the warp's SEAL and UNSEAL to complete. -/
def execFence (f : Fields) (s : State) : Out :=
  .next (s.whenEnabled f fun s =>
    if s.shooting then s.waitRetry s.iss.lanes
    else if s.blk.copy = .leading && s.pairBusy then s.waitRetry s.iss.lanes
    else s.lostFirst fun s => (((s.before s.blk.core (ordOf f)).order s.blk.core (ordOf f)).covered (ordScope (ordOf f)) (s.en f)).advance)
/-- What CCTL does to the caches' copies of a line (R239). -/
def cctlDrops (op core : Nat) (pinned : Bool) (x : CacheLine) : Bool :=
  match op with
  | 0 => x.level = 0 && x.unit = core
  | 1 => x.level = 2 && x.unit = dieOf core
  | 2 => false
  | _ => !(pinned && x.level = 1)
/-- A copy of the line after CCTL: dropped, or kept, written through by `.wb` and `.evict`. -/
def cctlOn (op core : Nat) (pinned : Bool) (x : CacheLine) : Option CacheLine :=
  if cctlDrops op core pinned x then none else if op ≥ 2 then some { x with dirty := 0 } else some x
/-- CCTL (R239). -/
def execCctl (f : Fields) (s : State) : Out :=
  let en := s.en f
  let x : Access := ⟨s.addr f, 1, 1, false, false, false⟩
  .next (s.whenEnabled f fun s => s.access en (s.addrU f) x fun s c m =>
    (Mask.lanes m).foldl (fun s l =>
      match s.xlat c (x.addr l) with
      | .ok p =>
        let pinned := s.pins.any fun y => y.line = lineOf p.pa
        { s with caches := s.caches.filterMap fun y =>
            if y.ctx = c.id && y.line = lineOf p.pa then cctlOn (f.m 1 0) s.blk.core pinned y else some y }
      | _ => s) s)

/-! ## SEAL, UNSEAL, PIN and UNPIN -/

/-- The base and length of R236 and its checks, then `k`. -/
def State.range (s : State) (f : Fields) (heapOk : Bool) (k : State → Ctx → Nat → Nat → State) : State :=
  s.whenEnabled f fun s => s.needU ([f.va.toNat, f.va.toNat + 1] ++ uniRegB f) fun s =>
    let va := s.uniPair f.va.toNat
    let len := s.uniB f
    let en := s.en f
    match s.ctx? s.blk.ctx with
    | none => s
    | some c =>
      s.lostFirst fun s =>
        if va % 4096 != 0 || len % 4096 != 0 || len = 0 then s.trap 0x08 (Fail.trap 0x08 0 va).addr en
        else match s.pagesCause c va len heapOk with
          | .fine => k s c va len
          | .trap code a => s.trap code a en
          | .park a => s.park en a 0
          | .fatal => s.failWith .fatal en 0
          | _ => s
/-- SEAL (R237): it is a release, S is set, and the threads go on when the shoot-down completes. -/
def execSealR (f : Fields) (s : State) : Out :=
  .next ((s.markNonIdem f).range f false fun s c va len =>
    s.paired 4 [0x8B, 0, va, len] [] (s.en f)
      (fun s =>
        let s1 := ((s.release s.blk.core 4).setSealed c va len true).forward (.values (s.en f) [])
        let (id, s2) := s1.shoot c.id va len (some (s.blk.id, s.wp.idx))
        if s2.shootdowns.any fun d => d.id = id then
          (s2.advanceLanes (s2.iss.lanes &&& ~~~(s2.en f))).setStatus (s2.en f) (.waiting (.shoot id s2.iss.len))
        else s2.advance)
      fun s _ _ => s)
/-- A cache unit lies in the scope of the issuing core (R237). -/
def inScope (scope core : Nat) (x : CacheLine) : Bool :=
  match scope with
  | 0 => x.level = 0 && x.unit = core
  | 1 => x.level = 0 && quadOf x.unit = quadOf core
  | 2 => (x.level = 0 && dieOf x.unit = dieOf core) || ((x.level = 1 || x.level = 2) && x.unit = dieOf core)
  | _ => true
/-- UNSEAL (R237): S is cleared, the range shot down and its replicas in scope dropped; a later FENCE waits for it. -/
def execUnsealR (f : Fields) (s : State) : Out :=
  .next ((s.markNonIdem f).range f false fun s c va len =>
    s.paired 4 [0x8C, f.m 2 0, va, len] [] (s.en f)
      (fun s =>
        let s1 := (s.setSealed c va len false).forward (.values (s.en f) [])
        let (_, s2) := s1.shoot c.id va len (some (s.blk.id, s.wp.idx))
        let ls := (s.linesOf c va len).map Prod.snd
        let u : Unfenced := ⟨c.id, va, len, f.m 2 0, s.blk.id, s.wp.idx, s.en f⟩
        State.advance { s2 with
          caches := s2.caches.filter fun x =>
            !(ls.contains x.line && inScope (f.m 2 0) s2.blk.core x && !(x.level = 1 && s2.pins.any fun p => p.ctx = x.ctx && p.line = x.line))
          unfenced := s2.unfenced ++ [u] })
      fun s _ _ => s)
/-- The page of an address is sealed. -/
def State.sealedAt (s : State) (c : Ctx) (va : Nat) : Bool := match s.xlat c va with | .ok l => l.sealed | _ => false
/-- The name of the key of the page of an address. -/
def State.keyAt (s : State) (c : Ctx) (va : Nat) : Nat := match s.xlat c va with | .ok l => s.keyName l.key | _ => 0
/-- PIN (R238). -/
def execPin (f : Fields) (s : State) : Out :=
  .next (s.range f false fun s c va len =>
    let ls := s.linesOf c va len
    let new := ls.filter fun p => !s.pins.any fun q => q.ctx = c.id && q.line = p.2
    let foreign := ls.any fun p => nodeOf (p.2 * 128) != s.node
    let grown := (List.range 3).any fun d =>
      s.pinsOn c.id d + (new.filter fun p => homeDie (p.2 * 128) = d).length > pinQuota
    let code : Word := if foreign then 2 else if grown then 1 else 0
    let pins := s.pins ++ new.map fun p => ⟨c.id, p.1, p.2⟩
    let line (p : Nat × Nat) : CacheLine :=
      ⟨1, homeDie (p.2 * 128), c.id, p.2, s.sealedAt c p.1, s.cachedKey c.id (s.keyAt c p.1) (p.2 * 128), s.tagAt c.id (p.2 * 128), 15, 0⟩
    let s1 := if code != 0 then s else { s with
      pins := pins
      caches := ls.foldl (fun (cs : List CacheLine) p => insertLine pins (line p) cs) s.caches }
    s1.alu f (.u code))
/-- UNPIN (R238). -/
def execUnpin (f : Fields) (s : State) : Out :=
  .next (s.range f true fun s c va len =>
    let ls := (s.linesOf c va len).map Prod.snd
    { s with pins := s.pins.filter fun p => !(p.ctx = c.id && ls.contains p.line) }.alu f (.u 0))

/-! ## QDEC -/

/-- The window QDEC names, when it is enabled, owned and LQ2 (R205). -/
def State.lq2Window (s : State) (w : Nat) : Option FmtWin :=
  s.windows.find? fun x => x.index = w && x.enabled && x.owner = s.blk.ctx && x.fmt = 11
/-- The eight values of a decoded index: four packed words and the flags. -/
def qdecWord (idx c scale k : Nat) : Nat × FpFlags :=
  let lo := lq2Scaled idx c scale (2 * k)
  let hi := lq2Scaled idx c scale (2 * k + 1)
  (hi.1 * 2 ^ 16 + lo.1, lo.2 ||| hi.2)
/-- QDEC (R205). -/
def execQdec (f : Fields) (s : State) : Out :=
  let en := s.en f
  let a := s.rvA f
  let au := allU [a]
  let put (s : State) (m : Mask) (cb : RegVal) : State :=
    let b := s.rvB f
    let u := allU [a, b, cb]
    let g (k l : Nat) : Nat × FpFlags :=
      qdecWord (bits (a.at l).toNat 0 16) (cb.at l).toNat (bits (b.at l).toNat 0 8) k
    let fl := fpFlags m u fun l => (List.range 4).foldl (fun x k => x ||| (g k l).2) 0
    s.pend f.la.toNat false m ((List.range 4).map fun k => (f.vd.toNat + k, fpVal u (g k))) fl
  .next (s.whenEnabled f fun s =>
    match s.lq2Window (f.m 5 0) with
    | none => s.trap 0x0C (BitVec.ofNat 64 (4 * 2 ^ 60 + f.m 5 0)) en
    | some w =>
      if s.blk.copy = .trailing then s.trailing en fun s m vals => put s m (vals.headD (.u 0))
      else if s.blk.copy = .leading && s.pairBusy then s.waitRetry s.iss.lanes
      else
        let x : Access := ⟨fun l => bits w.codebook.toNat 0 57 + 4 * bits (a.at l).toNat 8 8, 4, 1, true, false, true⟩
        s.access en au x fun s c m =>
          let vals := s.loadGives c 4 0 au x m
          put ((s.fillLanes c au x m).forward (.values m vals)) m (vals.headD (.u 0)))

end Sys2Proof.Machine
end

