-- ==== Sys2Proof/Machine/Barrier.lean ====
section
/-! DEFINITION. The barrier instructions, opcodes 0xA0-0xA6 (R280-R289). -/
namespace Sys2Proof.Machine

/-! ## Phase barriers -/

/-- The barrier an instruction names (R283): uniform operands, alignment, bounds and partner, then `k` with the block and
the offset. -/
def State.atBarrier (s : State) (f : Fields) (x : Bool) (uniform : List Nat) (k : State → Nat → Nat → State) : State :=
  s.whenEnabled f fun s => s.needU ([f.va.toNat] ++ uniform ++ if x then [f.vc.toNat] else []) fun s =>
    let off := s.uni f.va.toNat
    let en := s.en f
    s.lostFirst fun s =>
    if off % 8 != 0 then s.trap 0x08 (BitVec.ofNat 64 off) en
    else if off + 8 > s.blk.header.scratch then s.trap 0x09 (BitVec.ofNat 64 off) en
    else if !x then k s s.blk.id off
    else
      let p := s.uni f.vc.toNat
      match (if p < s.blk.header.gang then s.partner? p else none) with
      | some b => k s b.id off
      | none => s.trap 0x09 (BitVec.ofNat 64 off) en
/-- The barrier word of a block, consumed when its granule is poisoned (R333). -/
def State.withWord (s : State) (f : Fields) (id off : Nat) (k : State → Nat → State) : State :=
  match s.block? id with
  | none => s
  | some b =>
    match b.scrConsumed off 8 with
    | some w => s.consume 1 w (s.en f)
    | none => k s (b.barrier off)
/-- PBINIT (R284). -/
def execPbinit (f : Fields) (s : State) : Out :=
  .next (s.atBarrier f (f.b 0) (uniRegB f) fun s id off =>
    let n := s.uniB f % 2 ^ 16
    ((s.writeScr id off (bytesOf (n * 2 ^ 16 + n) 8)).wake id off).advance)
/-- PBARRIVE (R285). -/
def execPbarrive (f : Fields) (s : State) : Out :=
  .next (s.atBarrier f (f.b 2) (if f.b 1 then uniRegB f else []) fun s id off => s.withWord f id off fun s w =>
    let en := s.en f
    s.whenStored fun s =>
    let n := if f.b 3 then 0 else if f.b 0 then Mask.count en else 1
    let add := if f.b 1 then s.uniB f else 0
    let s1 := (s.barrier id off add 0 n false).spoilRegion
    s1.alu f (.u (BitVec.ofNat 32 (bits w 56 1))))
/-- TRAPADDR of BARRIER_POISON (R286). -/
def poisonAddr (partner off : Nat) : DWord := BitVec.ofNat 64 (partner % 4 * 2 ^ 24 + off % 2 ^ 24)
/-- The token of lane `l`: bit 0 of VB. -/
def State.token (s : State) (f : Fields) (l : Nat) : Bool := ((s.rvB f).at l).getLsbD 0
/-- PBWAIT (R286): the lanes whose phase has completed go on, or trap with BARRIER_POISON; the others wait, and each completes by
itself once its phase has completed. -/
def execPbwait (f : Fields) (s : State) : Out :=
  .next (s.atBarrier f (f.b 1) [] fun s id off => s.withWord f id off fun s w =>
      let en := s.en f
      let pass := maskOf fun l => Mask.has en l && bit w 56 != s.token f l
      let addr := poisonAddr (if f.b 1 then s.uni f.vc.toNat else 0) off
      if pass != 0 && bit w 57 && !f.b 0 then s.trap 0x11 addr pass
      else
        let s1 := if f.b 0 then s.writeReg f.vd.toNat pass (.u (if bit w 57 then 1 else 0)) else s
        let hold (t : Bool) : Mask := maskOf fun l => Mask.has en l && !Mask.has pass l && s.token f l = t
        let vd := if f.b 0 then some f.vd.toNat else none
        let entry (t : Bool) : List PbWait :=
          if hold t = 0 then [] else [⟨s.blk.id, s.wp.idx, hold t, off, t, vd, s.iss.len, addr.toNat⟩]
        let s2 := s1.modBlk id fun b => { b with pbwaits := b.pbwaits ++ entry false ++ entry true }
        (s2.setStatus (en &&& ~~~pass) (.waiting .pb)).goOn)
/-- PBTEST (R286). -/
def execPbtest (f : Fields) (s : State) : Out :=
  .next (s.atBarrier f (f.b 1) [] fun s id off => s.withWord f id off fun s w =>
    let v (l : Nat) : Word := BitVec.ofNat 32
      ((if bit w 56 != s.token f l then 1 else 0) + bits w 57 1 * 2 + bits w 56 1 * 4)
    s.alu f (statusVal (s.en f) v))

/-! ## BSYNC -/

/-- A mask of a warp in a list of masks. -/
def maskIn (xs : List (Nat × Mask)) (w : Nat) : Mask := ((xs.find? fun p => p.1 = w).map Prod.snd).getD 0
/-- Add lanes of a warp to a list of masks. -/
def addMask (xs : List (Nat × Mask)) (w : Nat) (m : Mask) : List (Nat × Mask) :=
  (xs.filter fun p => p.1 != w) ++ [(w, maskIn xs w ||| m)]
/-- Every live participant of an instance has arrived or passed (R287). -/
def BsyncInst.complete (i : BsyncInst) (ws : List Warp) : Bool :=
  ws.all fun w => !bit i.roles w.role || w.live &&& ~~~(maskIn i.arrived w.idx ||| maskIn i.passed w.idx) = 0
/-- A thread goes on from a completed BSYNC. -/
def Thread.synced (t : Thread) (id : Nat) : Thread :=
  match t.status with
  | .waiting (.bsync i len) => if i = id then t.resume len else t
  | _ => t
/-- The completion test of some BSYNC instances of a block, the oldest first. -/
def State.testInsts (s : State) (id : Nat) : List BsyncInst → State
  | [] => s
  | i :: is =>
    let done := ((s.block? id).map fun b => i.complete b.warps).getD false
    if !done then s.testInsts id is
    else
      let s1 := s.modBlk id fun b => { b with bsyncs := b.bsyncs.erase i }
      let ended (w : Warp) : Warp :=
        if maskIn i.arrived w.idx = 0 then w
        else { w.mapThreads (maskIn i.arrived w.idx) (fun _ t => t.synced i.id) with synced := s.turn, readAt := s.turn }
      (s1.modWarps id ended).testInsts id is
/-- The completion test of every BSYNC instance of a block. -/
def State.testBsync (s : State) (id : Nat) : State := s.testInsts id (((s.block? id).map fun b => b.bsyncs).getD [])
/-- Arriving lanes join the first instance of the id that takes their role and at which they have not arrived; those that find none
begin a new one. -/
def joinBsync (id roles role w : Nat) (m : Mask) : List BsyncInst → List BsyncInst
  | [] => [⟨id, roles, [(w, m)], []⟩]
  | i :: is =>
    let here := if i.id = id && bit i.roles role then m &&& ~~~(maskIn i.arrived w ||| maskIn i.passed w) else 0
    if here = 0 then i :: joinBsync id roles role w m is
    else { i with arrived := addMask i.arrived w here } ::
      (if m &&& ~~~here = 0 then is else joinBsync id roles role w (m &&& ~~~here) is)
/-- Threads disabled by the guard count as arrived for the pending instance of the id. -/
def passBsync (id role w : Nat) (m : Mask) : List BsyncInst → List BsyncInst
  | [] => []
  | i :: is =>
    if i.id = id && bit i.roles role then { i with passed := addMask i.passed w m } :: is
    else i :: passBsync id role w m is
/-- An arrival at BSYNC. -/
def State.bsync (s : State) (f : Fields) : State :=
  let en := s.en f
  let off := s.iss.lanes &&& ~~~en
  let id := f.m 3 0
  let w := s.wp
  let s1 := if en = 0 then s else
    { s with blk := { s.blk with bsyncs := joinBsync id (f.m 7 4) w.role w.idx en s.blk.bsyncs } }.spoilRegion
  let s2 := if off = 0 then s1 else
    { s1 with blk := { s1.blk with bsyncs := passBsync id w.role w.idx off s1.blk.bsyncs } }
  ((s2.advanceLanes off).setStatus en (.waiting (.bsync id s.iss.len))).testBsync s.blk.id
/-- BSYNC (R287). -/
def execBsync (f : Fields) (s : State) : Out := .next (if s.en f = 0 then s.bsync f else s.lostFirst fun s => s.whenStored fun s => s.bsync f)

/-! ## SBAR -/

/-- A thread goes on from a completed SBAR. -/
def Thread.crossed (t : Thread) (scope id : Nat) : Thread :=
  match t.status with
  | .waiting (.sbar sc i len) => if sc = scope && i = id then t.resume len else t
  | _ => t
/-- Deliver the status of a completed instance to a resident block's waiting threads (R288). -/
def State.deliverSbar (s : State) (blk scope id : Nat) (status : Word) : State :=
  match (s.block? blk).bind fun b => b.sbars.find? fun a => a.scope = scope && a.id = id && a.counted with
  | none => s
  | some a =>
    let s1 := s.modBlk blk fun b => { b with sbars := b.sbars.erase a }
    a.waiting.foldl (fun s x =>
      s.withWarp blk x.1 (Issue.for x.2.1 [x.2.2]) fun s =>
        let s0 : State := if scope = 4 then { s with wp := s.wp.syncPod s.turn } else s.sync
        let s := s0.writeReg x.2.2 x.2.1 (.u status)
        { s.acquire s.blk.core scope with wp := s.wp.mapThreads x.2.1 fun _ t => t.crossed scope id }) s1
/-- Deliver to a block, both copies of a pair, wherever it stands: a saved block keeps the status until it resumes. -/
def State.deliverAny (s : State) (ctx blk scope id : Nat) (status : Word) : State :=
  if (s.block? blk).isSome then (s.copiesOf blk).foldl (fun s b => s.deliverSbar b scope id status) s
  else s.modCtx ctx fun c =>
    let it := c.saved.find? fun b => b.id = blk
    { c with saved := c.saved.map fun b =>
      if it.any fun x => x.node = b.node && x.index = b.index then { b with sbars := b.sbars.map fun a =>
        if a.scope = scope && a.id = id && a.counted then { a with result := some status } else a } else b }
/-- The completion test of an instance (R288). -/
def State.testSbar (s : State) (i : SbarInst) (lost : Bool) : State :=
  if (match i.count with | some n => i.arrived.length ≥ n | none => false) || lost then
    let status : Word := if lost then 2 else if i.mismatch then 1 else 0
    let s1 := { s with sbarInsts := s.sbarInsts.erase i }
    i.arrived.foldl (fun s b => s.deliverAny i.ctx b i.scope i.id status) s1
  else s
/-- Blocks of a launch that have ended. -/
def Node.endedBlocks (n : Node) : Nat := n.done + n.fail + n.kill
/-- A package of the domain is lost, and a `.pod` instance counts blocks of other packages, all of this package's having arrived:
it completes over the survivors (R288, R363). -/
def State.sbarLost (s : State) (i : SbarInst) : Bool :=
  !s.lostNodes.isEmpty && i.scope = 4 && (match s.node? i.ctx i.node, i.count with
    | some n, some k => k > n.record.blocks && i.arrived.length + n.endedBlocks ≥ n.record.blocks
    | _, _ => false)
/-- Where a scope's instance of a core lies (R288). -/
def sbarPlace (scope core : Nat) : Nat :=
  match scope with
  | 0 => core
  | 1 => quadOf core
  | 2 => dieOf core
  | _ => 0
/-- A block counts in its instance; `n` is the count it names. -/
def State.joinSbar (s : State) (b : Block) (scope id : Nat) (n : Option Nat) (bad : Bool) : State :=
  let place := sbarPlace scope b.core
  let isIt (i : SbarInst) : Bool :=
    i.ctx = b.ctx && i.node = b.node && i.scope = scope && i.place = place && i.id = id
  let i := (s.sbarInsts.find? isIt).getD ⟨b.ctx, b.node, scope, place, id, none, false, []⟩
  let clash := match i.count, n with | some x, some y => x != y | _, _ => false
  let i1 : SbarInst := { i with
    count := match i.count with | none => n | x => x
    mismatch := i.mismatch || bad || clash
    arrived := i.arrived ++ [b.id] }
  { s with sbarInsts := (s.sbarInsts.filter fun x => !isIt x) ++ [i1] }.testSbar i1 (s.sbarLost i1)
/-- Every live thread of a block has executed SBAR of a scope and id. -/
def Block.sbarReady (b : Block) (scope id : Nat) : Bool :=
  match b.sbars.find? fun a => a.scope = scope && a.id = id && !a.counted with
  | none => b.warps.all fun w => w.live = 0
  | some a => b.warps.all fun w =>
      w.live &&& ~~~(a.waiting.foldl (fun m x => if x.1 = w.idx then m ||| x.2.1 else m) (maskIn a.passed w.idx)) = 0
/-- The arrival test of a block, both copies of a pair together (R288). -/
def State.arriveSbar (s : State) (blk scope id : Nat) : State :=
  let ids := s.copiesOf blk
  let bs := ids.filterMap s.block?
  let open_ (b : Block) : List SbarArr := b.sbars.filter fun a => a.scope = scope && a.id = id && !a.counted
  if bs.all (fun b => b.sbarReady scope id) && bs.any fun b => !(open_ b).isEmpty then
    let arrs := bs.flatMap open_
    let n := (arrs.filterMap SbarArr.count).head?
    let bad := arrs.any fun a => a.mismatch || match a.count, n with | some x, some y => x != y | _, _ => false
    let s1 := ids.foldl (fun s i => s.modBlk i fun b => { b with sbars := b.sbars.map fun a =>
      if a.scope = scope && a.id = id then { a with counted := true } else a }) s
    match (bs.find? fun b => b.copy != .trailing) with
    | some b => s1.joinSbar b scope id n bad
    | none => s1
  else s
/-- The arrival tests of a block's open SBARs, after a thread has exited. -/
def State.retestSbars (s : State) (blk : Nat) : State :=
  let open_ := ((s.copiesOf blk).filterMap s.block?).flatMap fun b => b.sbars.filter fun a => !a.counted
  open_.foldl (fun s a => s.arriveSbar blk a.scope a.id) s
/-- SBAR (R288). A pair's copies count as one block: the instance's arrivals are counted by leading copies. -/
def execSbar (f : Fields) (s : State) : Out :=
  let en := s.en f
  let off := s.iss.lanes &&& ~~~en
  let scope := f.m 7 5
  let id := f.m 2 0
  let go (s : State) (n : Option Nat) : State :=
    let a := (s.blk.sbars.find? fun a => a.scope = scope && a.id = id && !a.counted).getD
      ⟨scope, id, none, false, [], [], false, none⟩
    let a1 : SbarArr := { a with
      count := match a.count with | none => n | x => x
      mismatch := a.mismatch || match a.count, n with | some x, some y => x != y | _, _ => false
      waiting := if en = 0 then a.waiting else a.waiting ++ [(s.wp.idx, en, f.vd.toNat)]
      passed := if off = 0 then a.passed else addMask a.passed s.wp.idx off }
    let s1 := { s with blk := { s.blk with sbars := (s.blk.sbars.erase a) ++ [a1] } }
    let s2 := if en = 0 then s1 else s1.spoilRegion
    ((s2.advanceLanes off).setStatus en (.waiting (.sbar scope id s.iss.len))).arriveSbar s.blk.id scope id
  .next (if en = 0 then go s none
    else s.needU (uniRegB f) fun s => s.lostFirst fun s => s.whenStored fun s => go s (some (s.uniB f)))

/-! ## EVWAIT -/

/-- The words of an EVWAIT's waiting lanes are read: those that differ from their compare value, or all on a timeout, wait no
more. -/
def EvWait.see (e : EvWait) (x : Nat → Word) (timeout : Bool) (now : Nat) : EvWait :=
  { e with
    seen := now
    left := maskOf fun l => Mask.has e.left l && !timeout && x l = Lanes.at e.cmp l
    vals := Lanes.of fun l => if Mask.has e.left l then x l else Lanes.at e.vals l }
/-- The word a lane of an EVWAIT reads. -/
def State.evRead (s : State) (c : Ctx) (e : EvWait) (l : Nat) : Word :=
  BitVec.ofNat 32 (ofBytes (s.loadVa c (e.addr.at (if e.once then Mask.low e.mask else l)).toNat 4))
/-- The result of an EVWAIT (R103): one value when the address and the compare value are U. DEDUCED (log 128): V when it reads for
each thread. -/
def EvWait.result (e : EvWait) : RegVal := if e.once then .u (Lanes.at e.vals (Mask.low e.mask)) else .v e.vals
/-- An EVWAIT that waits no more: its result is written, with its order. -/
def State.evFinish (s : State) (e : EvWait) : State :=
  let s0 : State := if acquires e.ord && ordScope e.ord = 4 then { s with wp := s.wp.syncPod s.turn } else s.sync
  ((s0.order s.blk.core e.ord).forward (.values e.mask [e.result])).writeReg e.vd e.mask e.result
/-- Read again for an EVWAIT that waits (R289): the group goes on once every enabled thread is done; when an address no longer
translates the group issues the instruction afresh. -/
def State.evReread (s : State) (blk : Nat) (e : EvWait) (timeout : Bool) : State :=
  match (s.block? blk).bind fun b => s.ctx? b.ctx with
  | none => s
  | some c =>
    let bad := (Mask.lanes e.left).any fun l =>
      (s.check c .load (e.addr.at l).toNat 4 4).isSome || (s.consumed c (e.addr.at l).toNat 4).isSome
    let e1 := e.see (s.evRead c e) timeout (((s.block? blk).map fun b => s.clk b.core).getD 0)
    let over_ := bad || e1.left = 0
    let s1 := s.modBlk blk fun b => { b with evwaits := b.evwaits.flatMap fun y =>
      if y = e then (if over_ then [] else [e1]) else [y] }
    if !over_ then s1
    else s1.withWarp blk e.warp (Issue.for e.group [e.vd]) fun s =>
      if bad then s.setStatus e.group .eligible
      else
        let s := s.evFinish e1
        { s with wp := s.wp.mapThreads e.group fun _ t => t.resume e.len }
/-- EVWAIT (R289). -/
def execEvwait (f : Fields) (s : State) : Out :=
  let en := s.en f
  let at_ (l : Nat) : Nat := (s.wp.pair f.va.toNat l).toNat
  let au := s.wp.pairShape f.va.toNat = 0
  let u := au && allU [s.rvB f]
  .next (s.whenEnabled f fun s => s.needU [f.vc.toNat] fun s =>
    if s.blk.copy = .trailing then s.trailing en fun s m vals => s.writeReg f.vd.toNat m (vals.headD (.u 0))
    else if s.blk.copy = .leading && s.pairBusy then s.waitRetry s.iss.lanes
    else
      let x : Access := ⟨at_, 4, 4, true, false, true⟩
      s.access en au x fun s c m =>
        let g (l : Nat) : Word := BitVec.ofNat 32 (ofBytes (s.loaded c au x m l))
        let here := maskOf fun l => Mask.has s.iss.lanes l && (s.wp.thread l).status = .eligible
        let e := EvWait.see ⟨s.wp.idx, m, here, m, Lanes.of fun _ => 0, f.vd.toNat, ordOf f, u,
          Lanes.of fun l => BitVec.ofNat 64 (at_ l), Lanes.of fun l => (s.rvB f).at l, 1024 * (s.uni f.vc.toNat % 2 ^ 24),
          s.clk s.blk.core, s.clk s.blk.core, s.iss.len⟩ g false (s.clk s.blk.core)
        if e.left = 0 then s.evFinish e
        else { s with blk := { s.blk with evwaits := s.blk.evwaits ++ [e] } }.setStatus here (.waiting .evwait))
/-- EVWAIT_REREAD (R289). -/
def execEvwaitReread (blk warp : Nat) (s : State) : Out :=
  .next (((((s.block? blk).map fun b => b.evwaits.filter fun e => e.warp = warp).getD [])).foldl
    (fun s e => s.evReread blk e false) s)
/-- EVWAIT_TIMEOUT (R289): the waits of a warp whose timeout has elapsed. -/
def execEvwaitTimeout (blk warp : Nat) (s : State) : Out :=
  .next (match s.block? blk with
    | none => s
    | some b => (b.evwaits.filter fun (e : EvWait) => e.warp = warp && e.limit != 0 && e.start + e.limit ≤ s.clk b.core).foldl
        (fun s e => s.evReread blk e true) s)

end Sys2Proof.Machine
end

