-- ==== Sys2Proof/Machine/Copy.lean ====
section
/-! DEFINITION. Copies: bursts (R290, R294), CPY, CPYQ and CPYWAIT, opcodes 0xB0-0xB2 (R291-R295), and the burst event of a
block's copy. -/
namespace Sys2Proof.Machine

/-! ## Bursts -/

/-- One side of a burst: generic memory of a context, or a block's scratch at an offset. -/
inductive Side where
  | gen (va : Nat)
  | scr (blk off : Nat)
  deriving DecidableEq, Repr

/-- The outcome of a burst. -/
inductive Burst where
  | ok (s : State)
  /-- It waits for the fault service: address and kind of R371. -/
  | demand (va kind : Nat)
  /-- It fails with a code and KIND of R294. -/
  | failed (code kind : Nat) (s : State)
  /-- A violation at an address freezes it (R352). -/
  | frozen (va : Nat)
  /-- A walk met an uncorrectable error: FATAL to the context (R333). -/
  | fatal

/-- A generic side is checked (R294): XLATE, a serviceable fault, PROTECTION, SEALED_STORE, in the order of R213. A key slot that is not
the context's is a violation. DEDUCED (log 150): R352 names it. -/
def State.sideFail (s : State) (c : Ctx) (acc : Acc) : Side → Option Burst
  | .scr _ _ => none
  | .gen va =>
    match s.check c acc va 256 1 with
    | none => if (s.segs c va 256).any fun p => s.lostNodes.contains (nodeOf p.1) then some (.failed 3 2 s) else none
    | some (.demand a) => some (.demand a (if acc = .store then 1 else 0))
    | some .fatal => some .fatal
    | some (.violation a) => some (.frozen a)
    | some (.trap 0x0C 2 a) => some (.frozen a)
    | some (.trap code kind _) =>
      some (.failed (if code = 0x0B then 3 else if code = 0x0C then 4 else 5) kind s)
/-- The 256 bytes of a source. -/
def State.sideRead (s : State) (c : Ctx) : Side → List Byte
  | .gen va => s.loadVa c va 256
  | .scr b off => ((s.block? b).map fun x => x.readScr off 256).getD (List.replicate 256 0)
/-- The guard tag of a 256-byte block: as it came, or formed from its bytes, its address and its page's generation (R290). DESIGN
CHOICE (log 54): the logical address is the domain physical address. -/
def State.formTag (s : State) (block : Nat) : GuardTag :=
  ⟨crc32c (s.readPas (block * 256) 256), block % 2 ^ 49, Tab.get 0 s.pageGen (block / 16)⟩
/-- The guard tag a block has. -/
def State.tagOf (s : State) (block : Nat) : GuardTag :=
  ((s.tags.find? fun t => t.1 = block).map Prod.snd).getD (s.formTag block)
/-- The check of a guard tag fails. -/
def State.tagBad (s : State) (block : Nat) : Bool := s.tagOf block != s.formTag block
/-- The error of a walk for a copy of a context, found on a die. -/
def fatalOf (ctx die : Nat) : ErrorEvent := ⟨.fatal, 0, die, 0, 0, some ctx, 0, .context ctx⟩
/-- The source's guard tag does not match (R290), and the source is poisoned. -/
def State.sideTagBad (s : State) (c : Ctx) : Side → Bool
  | .gen va => (s.segs c va 256).any fun p => s.tagBad (p.1 / 256)
  | .scr _ _ => false
def State.sidePoisoned (s : State) (c : Ctx) : Side → Bool
  | .gen va => (s.consumed c va 256).isSome
  | .scr b off => ((s.block? b).bind fun x => x.scrConsumed off 256).isSome
/-- Write a destination block of 256 bytes; its guard tag is formed afresh. A scratch destination is written in both
copies of a pair (R348). -/
def State.sideWrite (s : State) (c : Ctx) (d : Side) (bs : List Byte) : State :=
  match d with
  | .gen va => s.storeVa c va bs
  | .scr b off => (s.copiesOf b).foldl (fun s i => s.writeScr i off bs) s
/-- The destination block is written as poisoned memory (R294). -/
def State.sidePoison (s : State) (c : Ctx) : Side → State
  | .gen va => (s.segs c va 256).foldl (fun s p =>
      (granules p.1 p.2).foldl (fun s g => s.setPoison (g * 64)) s) s
  | .scr b off => (s.copiesOf b).foldl (fun s i => s.modBlk i fun x =>
      { x with scrPoison := (List.range 4).foldl (fun ps k => insertNat (off / 64 + k) ps) x.scrPoison }) s
/-- A copy of `n` bytes writes what software must not (R9), as its source stands. -/
def State.copyBad (s : State) (c : Ctx) (src dst : Side) (n : Nat) : Bool :=
  match dst with
  | .scr _ _ => false
  | .gen va => s.offendsBy c va n fun i => match src with
    | .gen a => (s.loadVa c (a + i) 1).getD 0 0
    | .scr b off => ((s.block? b).map fun x => Tab.get 0 x.scratch (off + i)).getD 0
/-- One burst (R290, R294); a copy that does what software must not leaves unpredictable bytes (R9). -/
def State.burst (s : State) (c : Ctx) (src dst : Side) (offends : Bool) : Burst :=
  match s.sideFail c .load src with
  | some b => b
  | none =>
    match s.sideFail c .store dst with
    | some b => b
    | none =>
      let bs := if offends then s.freeBytes 0 256 else s.sideRead c src
      let bad := s.sideTagBad c src
      let poison := s.sidePoisoned c src
      let s1 := s.sideWrite c dst bs
      if bad then .failed 1 0 (s1.sidePoison c dst)
      else if poison then .failed 2 0 (s1.sidePoison c dst)
      else .ok s1

/-! ## The copies of a block -/

/-- A block whose warps have all ended is looked at again (R154). -/
def State.maybeEnd (s : State) (id : Nat) : State :=
  match s.block? id with
  | some b => if b.state = .running && b.warps.all fun w => w.live = 0 then s.push (.blockEnd id) else s
  | none => s
/-- Change a handle of a block. -/
def State.setCopy (s : State) (id h : Nat) (c : Option Copy) : State :=
  s.modBlk id fun b => { b with copies := b.copies.set h c }
/-- The status word and cursor of a handle (R295). -/
def Block.copyStatus (b : Block) (h : Nat) : Nat × Nat :=
  match (if h < 16 then b.copies.getD h none else none) with
  | none => (7, 0)
  | some x => match x.status with
    | .running => (6, x.cursor)
    | .ok => (0, x.cursor)
    | .failed code kind => (kind % 16 * 256 + code, x.cursor)
/-- TRAPADDR of COPY_FAILED for a status word and cursor, none when they raise no trap. -/
def copyTrap (h : Nat) (status : Bool) (st : Nat × Nat) : Option Nat :=
  let code := st.1 % 256
  if 1 ≤ code && code ≤ 5 && !status then some (h * 2 ^ 44 + st.1 / 256 * 2 ^ 40 + code * 2 ^ 32 + st.2) else none
/-- A status word and cursor as the registers of CPYWAIT and CPYQ. -/
def copyVals (st : Nat × Nat) : List RegVal := [.u (BitVec.ofNat 32 st.1), .u (BitVec.ofNat 32 st.2)]
/-- Threads of a CPYWAIT go on, or have a trap to take, now that their copy has ended. -/
def State.reportCopy (s : State) (id : Nat) (st : Nat × Nat) (w : CpyWait) : State :=
  s.withWarp id w.warp (Issue.for w.mask [w.vd, w.vd + 1]) fun s =>
    let m := maskOf fun l => Mask.has w.mask l && (s.wp.thread l).status = .waiting .copy
    match copyTrap w.handle w.status st with
    | some a => s.setStatus m (.waiting (.trapping 0x12 a))
    | none =>
      let s1 := (s.sync.forward (.values m (copyVals st))).writeRegs m (destRegs w.vd (copyVals st))
      { s1 with wp := s1.wp.mapThreads m fun _ t => t.resume w.len }
/-- A copy has ended: the CPYWAITs that wait for it report it, and its handle frees when there is one (R291, R295). -/
def State.reportHandle (s : State) (id h : Nat) : State :=
  match s.block? id with
  | none => s
  | some b =>
    let ws := b.cpywaits.filter fun w => w.handle = h
    if ws.isEmpty then s
    else
      let s1 := (s.modBlk id fun b => { b with cpywaits := b.cpywaits.filter fun w => w.handle != h }).setCopy id h none
      ws.foldl (fun s w => s.reportCopy id (b.copyStatus h) w) s1
/-- A copy completes: its status, and its arrival when it has a barrier. -/
def State.finishCopy (s : State) (id h : Nat) (x : Copy) : State :=
  let s1 := (s.setCopy id h (some { x with status := .ok })).reportHandle id h
  (match x.bar with | some off => s1.barrierCopies id off 0 0 1 false | none => s1).maybeEnd id
/-- A copy fails at its cursor, with the fail-arrive of R294. -/
def State.failCopy (s : State) (id h : Nat) (x : Copy) (code kind : Nat) : State :=
  let s1 := (s.setCopy id h (some { x with status := .failed code kind })).reportHandle id h
  (match x.bar with | some off => s1.barrierCopies id off 0 (x.len - x.cursor) 1 true | none => s1).maybeEnd id
/-- Ask the fault service for a page (R214, R371). -/
def State.askFault (s : State) (c : Ctx) (va kind nodeid die : Nat) (owner : FaultOwner) : Nat × State :=
  let tok := c.nextToken
  let s1 := s.modCtx c.id fun c => { c with nextToken := tok + 1, faults := c.faults ++ [⟨tok, va, kind, owner, none⟩] }
  (tok, s1.post c.id 0x0C nodeid (BitVec.ofNat 64 (kind * 2 ^ 60 + va % 2 ^ 57)) (BitVec.ofNat 64 tok) die)
/-- The sides of a copy. -/
def Copy.fromSide (x : Copy) (id : Nat) : Side := if x.srcScr then .scr id x.src else .gen x.src
def Copy.toSide (x : Copy) (id : Nat) : Side := if x.dstScr then .scr id x.dst else .gen x.dst
/-- The sides of a copy at its cursor. -/
def Copy.srcSide (x : Copy) (id : Nat) : Side := if x.srcScr then .scr id (x.src + x.cursor) else .gen (x.src + x.cursor)
def Copy.dstSide (x : Copy) (id : Nat) : Side := if x.dstScr then .scr id (x.dst + x.cursor) else .gen (x.dst + x.cursor)
/-- One burst of a block's copy (R293). -/
def State.copyStep (s : State) (id h : Nat) : State :=
  match s.block? id with
  | none => s
  | some b =>
    match (b.copies.getD h none), s.ctx? b.ctx with
    | some x, some c =>
      if !x.isRunning || x.fault.isSome || x.frozen || b.state = .halted || c.state != .running then s
      else if x.cursor ≥ x.len then s.finishCopy id h x
      else
        match s.burst c (x.srcSide id) (x.dstSide id) (s.copyBad c (x.fromSide id) (x.toSide id) x.len) with
        | .ok s1 =>
          let y := { x with cursor := x.cursor + 256 }
          let s2 := s1.setCopy id h (some y)
          let s3 := match x.bar with | some off => s2.barrierCopies id off 0 256 0 false | none => s2
          if y.cursor ≥ y.len then s3.finishCopy id h y else s3.push (.copyBurst (.block id h))
        | .demand va kind =>
          let (tok, s1) := s.askFault c va kind (s.nodeid c.id b.node) (dieOf b.core) (.copy id h)
          s1.setCopy id h (some { x with fault := some tok })
        | .failed code kind s1 => s1.failCopy id h x code kind
        | .fatal => s.push (.errorDetected (fatalOf c.id (dieOf b.core)))
        | .frozen va =>
          (s.setCopy id h (some { x with frozen := true })).post c.id 0x06 (s.nodeid c.id b.node)
            (BitVec.ofNat 64 (2 ^ 60 + b.index * 16 + h)) (BitVec.ofNat 64 va) (dieOf b.core)
    | _, _ => s

/-! ## CPY, CPYQ and CPYWAIT -/

/-- The handle a CPY takes (R291): the lowest free one, else the lowest of a copy that completed OK. -/
def Block.takeHandle (b : Block) : Option Nat :=
  let hs := (List.range 16).map fun h => (h, b.copies.getD h none)
  match hs.find? fun p => p.2.isNone with
  | some p => some p.1
  | none => (hs.find? fun p => p.2.any fun x => x.status = .ok).map Prod.fst
/-- Registers of a CPY operand that is a pair, or an offset register with `.ds` or `.ss`. -/
def sideRegs (scr : Bool) (r : Nat) : List Nat := if scr then [r] else [r, r + 1]
/-- Start a copy in a handle (R293). -/
def State.startCopy (s : State) (f : Fields) (h : Nat) (x : Copy) : State :=
  let s0 := s.spoilRegion
  let s1 := match x.bar with | some off => s0.barrierCopies s.blk.id off x.len 0 0 false | none => s0
  let s2 := (s1.setCopy s.blk.id h (some x)).forward (.values (s.en f) [.u (BitVec.ofNat 32 h)])
  let s3 := if x.len = 0 then s2.finishCopy s.blk.id h x else s2.push (.copyBurst (.block s.blk.id h))
  s3.alu f (.u (BitVec.ofNat 32 h))
/-- CPY (R293). -/
def execCpy (f : Fields) (s : State) : Out :=
  let ds := f.b 7
  let ss := f.b 6
  let bar := f.isF128 && f.ext.getLsbD 63
  let en := s.en f
  .next ((s.markNonIdem f).whenEnabled f fun s =>
    s.needU (sideRegs ds f.va.toNat ++ sideRegs ss f.vc.toNat ++ uniRegB f) fun s =>
      let dst := if ds then s.uni f.va.toNat else s.uniPair f.va.toNat
      let src := if ss then s.uni f.vc.toNat else s.uniPair f.vc.toNat
      let len := s.uniB f
      let off := f.e 55 32
      let bound := s.blk.header.scratch
      let bad := (ds && dst + len > bound) || (ss && src + len > bound)
      if dst % 256 != 0 || src % 256 != 0 || len % 256 != 0 then
        s.trap 0x08 (BitVec.ofNat 64 ((if dst % 256 != 0 then dst else if src % 256 != 0 then src else len) % 2 ^ 57)) en
      else if bad then s.trap 0x09 (BitVec.ofNat 64 (if ds && dst + len > bound then dst else src)) en
      else if bar && off % 8 != 0 then s.trap 0x08 (BitVec.ofNat 64 off) en
      else if bar && off + 8 > bound then s.trap 0x09 (BitVec.ofNat 64 off) en
      else s.lostFirst fun s =>
        s.paired 4 [0xB0, f.mod.toNat, dst, src, len, if bar then off + 1 else 0] [] en
          (fun s => match s.blk.takeHandle with
            | none => s.waitRetry s.iss.lanes
            | some h => s.startCopy f h ⟨dst, ds, src, ss, len, 0, if bar then some off else none, .running, none, false, s.wp.idx, s.iss.named⟩)
          fun s m vals => (s.spoilRegion).writeReg f.vd.toNat m (vals.headD (.u 0)))
/-- CPYQ (R295). -/
def execCpyq (f : Fields) (s : State) : Out :=
  let en := s.en f
  let put (s : State) (m : Mask) (vals : List RegVal) : State := s.pend f.la.toNat true m (destRegs f.vd.toNat vals)
  .next (s.whenEnabled f fun s => s.needU (uniRegB f) fun s =>
    if s.blk.copy = .trailing then s.trailing en put
    else
      let st := s.blk.copyStatus (s.uniB f)
      (put (s.forward (.values en (copyVals st))) en (copyVals st)).advance)
/-- CPYWAIT (R295): the threads wait for the copy that holds the handle now, and each completes when it ends. -/
def execCpywait (f : Fields) (s : State) : Out :=
  let en := s.en f
  let put (s : State) (m : Mask) (vals : List RegVal) : State := s.writeRegs m (destRegs f.vd.toNat vals)
  .next (s.whenEnabled f fun s => s.needU (uniRegB f) fun s => s.lostFirst fun s =>
    if s.blk.copy = .trailing then s.trailing en put
    else
      let h := s.uniB f
      let st := s.blk.copyStatus h
      if st.1 = 6 then
        let w : CpyWait := ⟨s.wp.idx, en, h, f.vd.toNat, s.iss.len, f.b 0⟩
        ({ s with blk := { s.blk with cpywaits := s.blk.cpywaits ++ [w] } }.advanceLanes (s.iss.lanes &&& ~~~en)).setStatus en (.waiting .copy)
      else
        let s1 := if h < 16 then s.setCopy s.blk.id h none else s
        match copyTrap h (f.b 0) st with
        | some a => (s1.forward (.trap 0x12 (BitVec.ofNat 64 a) en)).trap 0x12 (BitVec.ofNat 64 a) en
        | none => (put (s1.forward (.values en (copyVals st))) en (copyVals st)).advance)

end Sys2Proof.Machine
end

