-- ==== Sys2Proof/Machine/Product.lean ====
section
/-! DEFINITION. The arithmetic of the matrix engine: the operand collector (R242, R243), the cells of a product (R250-R252)
and of a chain step (R268). -/
namespace Sys2Proof.Machine

/-! ## Operand formats (R242) -/

/-- K: the elements of a row. -/
def opK (fmt : Nat) : Nat :=
  match fmt with
  | 1 => 32
  | 2 => 32
  | 3 => 64
  | 4 => 64
  | 8 => 64
  | 10 => 256
  | _ => 128
/-- Bytes of a row in memory. -/
def opRowBytes (fmt : Nat) : Nat := if fmt = 10 || fmt = 11 then 32 else 64
/-- Rows of an image. -/
def opRows (layoutB : Bool) : Nat := if layoutB then 64 else 128
/-- The format is of a float class. -/
def opFloat (fmt : Nat) : Bool := (1 ≤ fmt && fmt ≤ 5) || fmt = 11
/-- The format takes `.sa` and `.sb` (R252). -/
def opScales (fmt : Nat) : Bool := 1 ≤ fmt && fmt ≤ 5
/-- The pair of formats and the semiring are allowed (R250). -/
def opPair (a b semi : Nat) : Bool :=
  let pair := ((a = 1 || a = 2) && a = b) || ((a = 3 || a = 4) && (b = 3 || b = 4)) || (a = 8 && b = 8) ||
    ((a = 5 || a = 11) && (b = 5 || b = 11)) || (a = 9 && b = 9)
  (pair && semi ≤ 3) || (a = 10 && b = 10 && (semi = 0 || semi = 4))
/-- The semiring is allowed for a core of the format (R250, R269). -/
def opSemi (fmt semi : Nat) : Bool := opPair fmt fmt semi

/-! ## The operand collector (R243) -/

/-- A row of an image as a number. -/
def Image.row (i : Image) (r : Nat) : Nat := ofBytes (i.rows.getD r [])
/-- Element `k` of a row of an LQ2 image. -/
def Image.lq2 (i : Image) (r k : Nat) : Num :=
  let idx := bits (i.row r) (16 * (k / 8)) 16
  let c := ofBytes ((i.codebook.drop (4 * bits idx 8 8)).take 4)
  let scale := ((i.scales.getD r []).getD (k / 8) 0).toNat
  let x := lq2Element idx c (k % 8)
  if scale = 255 then .nan false else .fin x.1 x.2 ((scale : Int) - 129)
/-- Element `k` of row `r` of a float image, exact. -/
def Image.num (i : Image) (r k : Nat) : Num :=
  match i.fmt with
  | 1 => fp16.decode true (bits (i.row r) (16 * k) 16)
  | 2 => bf16.decode true (bits (i.row r) (16 * k) 16)
  | 3 => e4m3.decode false (bits (i.row r) (8 * k) 8)
  | 4 => e5m2.decode false (bits (i.row r) (8 * k) 8)
  | 5 => e2m1.decode false (bits (i.row r) (4 * k) 4)
  | _ => i.lq2 r k
/-- Element `k` of row `r` of an integer image. -/
def Image.int (i : Image) (r k : Nat) : Int :=
  match i.fmt with
  | 8 => (BitVec.ofNat 8 (i.row r >>> (8 * k))).toInt
  | 9 => (BitVec.ofNat 4 (i.row r >>> (4 * k))).toInt
  | _ => bits (i.row r) k 1
/-- A value multiplied by 2^(e - 127); 255 makes it NaN (R252). -/
def Num.scale (x : Num) (e : Nat) : Num :=
  if e = 255 then .nan false
  else match x with
    | .fin n m q => .fin n m (q + e - 127)
    | y => y

/-! ## Values of the semirings (R251, R268) -/

/-- The products and sums of a list of pairs, folded from the first. -/
def foldNums (greater : Bool) (xs : List Nat) : Nat :=
  match xs with
  | [] => 0
  | x :: rest => rest.foldl (fun a y => (fp32.minmax greater false false a y).1) x
/-- `s` in FP32 over pairs of exact elements. -/
def floatValue (semi : Nat) (ab : List (Num × Num)) : Nat :=
  let sum (p : Num × Num) : Nat :=
    if anyNan [p.1, p.2] then fp32.nanBits else (fp32.result 0 false (addNums 0 [p.1, p.2])).1
  let prod (p : Num × Num) : Nat :=
    if anyNan [p.1, p.2] then fp32.nanBits else (fp32.result 0 false (mulNums p.1 p.2)).1
  match semi with
  | 0 =>
    let ps := ab.map fun p => mulNums p.1 p.2
    if (ab.any fun p => anyNan [p.1, p.2]) || ps.any Option.isNone then fp32.nanBits
    else (fp32.result 0 false (addNums 0 (ps.filterMap id))).1
  | 1 => foldNums false (ab.map sum)
  | 2 => foldNums true (ab.map sum)
  | _ => foldNums true (ab.map prod)
/-- The least or the greatest of integers. -/
def foldInts (greater : Bool) (xs : List Int) : Int :=
  match xs with
  | [] => 0
  | x :: rest => rest.foldl (fun a y => if greater then max a y else min a y) x
/-- The value of a semiring in INT32 over pairs of exact elements. -/
def intValue (semi : Nat) (ab : List (Int × Int)) : Int :=
  match semi with
  | 0 => ab.foldl (fun t p => t + p.1 * p.2) 0
  | 1 => foldInts false (ab.map fun p => p.1 + p.2)
  | 2 => foldInts true (ab.map fun p => p.1 + p.2)
  | 3 => foldInts true (ab.map fun p => p.1 * p.2)
  | _ => if ab.any fun p => p.1 != 0 && p.2 = 1 then 1 else 0
/-- The new FP32 cell (R251): `d` combined with `s`. -/
def floatCell (semi d s : Nat) : Nat :=
  match semi with
  | 0 => (fp32.arith .add 0 false d s 0).1
  | 1 => (fp32.minmax false false false d s).1
  | _ => (fp32.minmax true false false d s).1
/-- The new INT32 cell (R251). -/
def intCell (semi : Nat) (d : Word) (s : Int) : Word :=
  match semi with
  | 0 => d + BitVec.ofInt 32 s
  | 1 => BitVec.ofInt 32 (min d.toInt s)
  | 2 => BitVec.ofInt 32 (max d.toInt s)
  | 3 => BitVec.ofInt 32 (max d.toInt s)
  | _ => if d != 0 || s != 0 then 1 else 0

/-! ## Rows of a product (R251, R252) -/

/-- The exponent byte of element `k` from a scale word. -/
def scaleByte (w : Word) (first k : Nat) : Nat := bits w.toNat (8 * ((first + k / 32) % 4)) 8
/-- Element `k` of A row `l`, scaled. -/
def Scales.a_ (c : Scales) (i : Image) (l k : Nat) : Num :=
  if c.sa then (i.num l k).scale (scaleByte (Lanes.at c.a l) c.abyte k) else i.num l k
/-- Element `k` of B column `j`, scaled. -/
def Scales.b_ (c : Scales) (i : Image) (j k : Nat) : Num :=
  if c.sb then (i.num j k).scale (scaleByte (Lanes.at c.b ((if c.bhalf then 64 else 0) + j)) c.bbyte k) else i.num j k
/-- Row `l` of the tile after a product. -/
def mmaRow (semi : Nat) (c : Scales) (a b : Image) (l : Nat) (old : List Word) : List Word :=
  (List.range 64).map fun j =>
    let d := old.getD j 0
    let ks := List.range (opK a.fmt)
    if opFloat a.fmt then
      BitVec.ofNat 32 (floatCell semi d.toNat (floatValue semi (ks.map fun k => (c.a_ a l k, c.b_ b j k))))
    else intCell semi d (intValue semi (ks.map fun k => (a.int l k, b.int j k)))

/-! ## Bonds, descriptors and rows of a step (R266-R268) -/

def Bond.din (b : Bond) : Nat := bits (BitVec.toNat b) 0 16
def Bond.dout (b : Bond) : Nat := bits (BitVec.toNat b) 16 16
def Bond.n (b : Bond) : Nat := bits (BitVec.toNat b) 32 12
def Bond.m (b : Bond) : Nat := bits (BitVec.toNat b) 44 12
def Bond.semi (b : Bond) : Nat := bits (BitVec.toNat b) 56 3
/-- A bond register is well-formed (R267). -/
def Bond.wf (b : Bond) : Bool :=
  Bond.din b != 0 && Bond.dout b != 0 && Bond.n b != 0 && Bond.m b != 0 && Bond.semi b ≤ 4 &&
    bits (BitVec.toNat b) 59 5 = 0
/-- Fields of the boundary descriptor (R266). -/
def descPre (d : DWord) : Nat := bits d.toNat 0 16
def descBond (d : DWord) : Nat := bits d.toNat 16 16
def descSuf (d : DWord) : Nat := bits d.toNat 32 16
def descTb (d : DWord) : Nat := bits d.toNat 48 4
def descLen (d : DWord) : Nat := descPre d * descBond d * descSuf d
/-- A descriptor is well-formed (R266). -/
def descWf (d : DWord) : Bool := descPre d != 0 && descBond d != 0 && descSuf d != 0 && bits d.toNat 52 12 = 0
/-- The row length after a step. -/
def stepLen (d : DWord) (b : Bond) : Nat := descPre d * Bond.m b * Bond.dout b * (descSuf d / Bond.n b)
/-- The descriptor after a step (R268). -/
def stepDesc (d : DWord) (b : Bond) : DWord :=
  BitVec.ofNat 64 (descTb d * 2 ^ 48 + (descSuf d / Bond.n b) % 2 ^ 16 * 2 ^ 32 + Bond.dout b * 2 ^ 16 +
    descPre d * Bond.m b % 2 ^ 16)
/-- Tiles of 64 columns that hold a row of a length. -/
def tilesFor (len : Nat) : Nat := (len + 63) / 64
/-- The boundary row after a step, from the row before it (R268). -/
def stepRow (d : DWord) (b : Bond) (g : Image) (x : Nat → Word) : List Word :=
  let s2 := descSuf d / Bond.n b
  let q := Bond.din b * Bond.n b
  (List.range (stepLen d b)).map fun j =>
    let r := j % s2
    let c := j / s2 % (Bond.m b * Bond.dout b)
    let p := j / s2 / (Bond.m b * Bond.dout b)
    let u (i : Nat) : Word := x ((p * q + i) * s2 + r)
    let qs := List.range q
    if opFloat g.fmt then
      BitVec.ofNat 32 (floatValue (Bond.semi b) (qs.map fun i => (fp32.decode false (u i).toNat, g.num c i)))
    else BitVec.ofInt 32 (intValue (Bond.semi b) (qs.map fun i => ((u i).toInt, g.int c i)))

/-! ## Tiles -/

/-- A row of zeros. -/
def zeroRow : List Word := List.replicate 64 0
/-- A row of a tile. -/
def TileCell.row (t : TileCell) (l : Nat) : List Word := Tab.get zeroRow t.cells l
/-- Write a row of a tile. -/
def TileCell.setRow (t : TileCell) (l : Nat) (r : List Word) : TileCell := { t with cells := Tab.set zeroRow t.cells l r }
/-- A tile of zeros. -/
def TileCell.zero : TileCell := ⟨[], false⟩

end Sys2Proof.Machine
end

