-- ==== Sys2Proof/Machine/Engine.lean ====
section
/-! DEFINITION. The engine queue (R246, R247), the touches of R248, the allocator of tiles (R245), the checks of a product
(R263) and of a step (R269), and the performing of queued instructions (R253, R254, R258-R262, R268, R276). -/
namespace Sys2Proof.Machine

/-! ## Logical state and checks -/

/-- The logical state of a slot. -/
def Block.slot (b : Block) (n : Nat) : Slot := b.slots.getD n ⟨.free, false, 0⟩
/-- The code of a slot state (R241). -/
def SlotState.code : SlotState → Nat
  | .free => 0
  | .claimed => 1
  | .ready => 2
/-- TRAPADDR of R256. -/
def engineAddr (member num detail : Nat) : DWord :=
  BitVec.ofNat 64 (member % 256 * 2 ^ 16 + num % 256 * 2 ^ 8 + detail % 256)
/-- TRAPADDR of SLOT_STATE with a SUB (R256). -/
def Block.slotAddr (b : Block) (member n sub : Nat) : DWord :=
  engineAddr member n ((if sub = 1 then 3 else (b.slot n).state.code) * 16 + sub)
/-- The first failing check of a list: whether it fails, the cause and TRAPADDR. -/
def firstTrap (xs : List (Bool × Nat × DWord)) : Option (Nat × DWord) := (xs.find? fun x => x.1).map fun x => x.2
/-- SLOT_STATE for a slot under a condition. -/
def Block.slotFail (b : Block) (member n sub : Nat) (fails : Bool) : Bool × Nat × DWord :=
  (fails, 0x0E, b.slotAddr member n sub)
/-- ACC_BOUNDS for a tile number of h or more. -/
def Block.tileFail (b : Block) (member tile : Nat) : Bool × Nat × DWord :=
  (tile ≥ b.held, 0x0D, engineAddr member tile b.held)
/-- The checks of a product by the block that issues it (R263). -/
def Block.mmaCheck (b : Block) (tile va vb semi : Nat) (sa sb : Bool) : Option (Nat × DWord) :=
  let n := b.slots.length
  let x := b.slot va
  let y := b.slot vb
  firstTrap [b.slotFail 0 va 1 (va ≥ n), b.slotFail 0 vb 1 (vb ≥ n),
    b.slotFail 0 va 2 (x.state != .ready), b.slotFail 0 vb 2 (y.state != .ready),
    b.slotFail 0 va 3 x.layoutB, b.slotFail 0 vb 3 (!y.layoutB),
    b.slotFail 0 va 4 (!opPair x.fmt y.fmt semi),
    b.slotFail 0 va 5 (sa && !opScales x.fmt), b.slotFail 0 vb 5 (sb && !opScales y.fmt),
    b.tileFail 0 tile]
/-- The checks of a partner's part of an MMAG (R254). -/
def Block.memberCheck (b : Block) (member tile va bfmt semi : Nat) : Option (Nat × DWord) :=
  let x := b.slot va
  firstTrap [b.slotFail member va 1 (va ≥ b.slots.length), b.slotFail member va 2 (x.state != .ready),
    b.slotFail member va 3 x.layoutB, b.slotFail member va 4 (!opPair x.fmt bfmt semi), b.tileFail member tile]

/-- A step as it is checked: its slot, bond, bond index for TRAPADDR, step index, and the format it loads. -/
structure StepReq where
  slot : Nat
  bond : Bond
  idx  : Nat
  step : Nat
  load : Option Nat
/-- TRAPADDR of BOUNDARY_OVERFLOW and BOND_MISMATCH (R270). -/
def bondAddr (need step idx detail : Nat) : DWord :=
  BitVec.ofNat 64 (need % 2 ^ 16 * 2 ^ 32 + step % 2 ^ 16 * 2 ^ 16 + idx % 256 * 2 ^ 8 + detail % 256)
/-- Checks 3 to 13 of R269. -/
def Block.stepCheck (b : Block) (r : StepReq) : Option (Nat × DWord) :=
  let sl := b.slot r.slot
  let fmt := r.load.getD sl.fmt
  let d := b.desc
  let bm (sub : Nat) (fails : Bool) : Bool × Nat × DWord := (fails, 0x10, bondAddr 0 r.step r.idx sub)
  let mo := Bond.m r.bond * Bond.dout r.bond
  let len := stepLen d r.bond
  let tb := descTb d
  firstTrap [b.slotFail 0 r.slot 1 (r.slot ≥ b.slots.length),
    b.slotFail 0 r.slot 2 (if r.load.isSome then sl.state = .free else sl.state != .ready),
    b.slotFail 0 r.slot 3 (r.load.isNone && !sl.layoutB),
    bm 1 (!Bond.wf r.bond), bm 2 (!descWf d),
    b.slotFail 0 r.slot 4 (!opSemi fmt (Bond.semi r.bond)),
    (tb + tilesFor (descLen d) > b.held, 0x0D, engineAddr 0 tb b.held),
    bm 3 (Bond.din r.bond != descBond d), bm 4 (descSuf d % Bond.n r.bond != 0),
    bm 5 (Bond.din r.bond * Bond.n r.bond > opK fmt || mo > 64),
    (len > 64 * (b.held - tb), 0x0F, bondAddr (tb + tilesFor len) r.step r.idx b.held)]

/-! ## The queue -/

/-- The entry is a TTRUN. -/
def EngineOp.isChain : EngineOp → Bool
  | .ttrun _ _ _ _ _ => true
  | _ => false
/-- Every entry in a queue, or a member's part still to enter one. -/
def State.allEntries (s : State) : List EngineEntry :=
  (s.cores.flatMap fun c => c.queue) ++ s.blocksNow.flatMap fun b => b.parts ++ b.queued
/-- Outstanding queued instructions of a warp of a block: their orders of entry (R247). -/
def State.outstanding (s : State) (blk warp : Nat) : List Nat :=
  ((s.allEntries.filter fun e => e.owner = blk && e.warp = warp).map fun e => e.id).eraseDups
/-- A TTRUN of the issuing block is outstanding (R271). -/
def State.chainRunning (s : State) : Bool :=
  (s.core s.blk.core).queue.any fun e => e.blk = s.blk.id && e.op.isChain
/-- A queued instruction is entered, unless a TTRUN of the block holds it at issue (R255, R271). -/
def State.queued (s : State) (f : Fields) (k : State → State) : State :=
  s.whenEnabled f fun s => if s.chainRunning then s.waitRetry s.iss.lanes else k s
/-- Enter a queued instruction of the issuing group (R246): `regs` are the registers it reads later. -/
def State.enter (s : State) (op : EngineOp) (regs : List Nat) : State :=
  let e : EngineEntry := ⟨s.nextOrder, s.blk.id, s.wp.idx, s.iss, op, 0, regs, 0, s.blk.fenced⟩
  let s1 : State := { s with nextOrder := s.nextOrder + 1, blk := { s.blk with uncov := s.blk.uncov ++ [e] } }.spoilRegion
  (s1.modCore s.blk.core fun c => { c with queue := c.queue ++ [e] }).push (.enginePerform s.blk.core)
/-- Remove an entry from a core's queue. -/
def State.popEntry (s : State) (core : Nat) (e : EngineEntry) : State :=
  s.modCore core fun c => { c with queue := c.queue.filter fun x => !(x.id = e.id && x.blk = e.blk) }
/-- Replace an entry of a core's queue. -/
def State.setEntry (s : State) (core : Nat) (e : EngineEntry) : State :=
  s.modCore core fun c => { c with queue := c.queue.map fun x => if x.id = e.id && x.blk = e.blk then e else x }
/-- Engine work of a block has been performed on its core (R342). -/
def State.engineWorked (s : State) (blk : Nat) : State := s.modBlk blk fun b => { b with worked := some s.now }
/-- An engine instruction of a block has been performed: its node makes progress (R326). -/
def State.engineProgress (s : State) (blk : Nat) : State :=
  match s.block? blk with
  | some b => (s.engineWorked blk).modNode b.ctx b.node fun n => { n with progress := s.now }
  | none => s
/-- An entry has been performed. -/
def State.finishEntry (s : State) (core : Nat) (e : EngineEntry) : State :=
  let s1 := ((s.popEntry core e).engineProgress e.blk).maybeEnd e.blk
  if e.owner = e.blk then s1 else s1.maybeEnd e.owner
/-- PROGIDX with STEP, HALF and RES (R277). -/
def progIdx (step half : Nat) (res : Bool) : DWord :=
  BitVec.ofNat 64 ((if res then 2 ^ 63 else 0) + step % 2 ^ 16 * 2 ^ 32 + half % 4)
/-- PROGIDX of a warp at a trap of an entry it issued: a TTRUN is resumed at its step (R276). -/
def EngineOp.trapIdx (op : EngineOp) (old : DWord) : DWord :=
  match op with
  | .ttrun _ _ k _ _ => progIdx k 0 true
  | _ => old
/-- A queued instruction consumed an uncorrectable error (R336): the record is written in the issuing warp, the unit is
killed. -/
def State.engineKill (s : State) (e : EngineEntry) (src whereAt : Nat) : State :=
  let a := ueAddr src (((s.block? e.blk).map fun (b : Block) => b.partner).getD 0) whereAt
  (s.withWarp e.owner e.warp e.iss fun s =>
    let s1 := s.recordTrap (s.report 0x13 a e.iss.lanes e.iss.pc)
    { s1 with wp := { s1.wp with progIdx := e.op.trapIdx s1.wp.progIdx } }).killUnit e.blk a src whereAt

/-! ## Tiles -/

/-- The cells of an unpredictable row. -/
def freeCells (n l len : Nat) : List Word := (List.range len).map fun j => Config.freeWord n (1024 * l + j)
/-- Change rows of a physical tile of a block; rows of `spoil` take unpredictable cells. -/
def State.editTile (s : State) (blk tile : Nat) (rows spoil : Mask) (g : Nat → List Word → List Word) : State :=
  let edit (t : TileCell) : TileCell := (Mask.lanes rows).foldl (fun t l =>
    t.setRow l (if Mask.has spoil l then freeCells s.free l 64 else g l (t.row l))) t
  { s with free := s.free + 1 }.modBlk blk fun b => { b with tiles := setAt b.tiles tile edit }
/-- The physical tile of a block. -/
def Block.tile (b : Block) (n : Nat) : TileCell := b.tiles.getD n TileCell.zero
/-- Element `j` of the boundary row of lane `l` (R266). -/
def boundaryAt (ts : List TileCell) (tb l j : Nat) : Word := ((ts.getD (tb + j / 64) TileCell.zero).row l).getD (j % 64) 0
/-- Write the first elements of a boundary row; higher elements keep their cells (R268). -/
def putBoundary (ts : List TileCell) (tb l : Nat) (y : List Word) : List TileCell :=
  (List.range (tilesFor y.length)).foldl (fun ts i => setAt ts (tb + i) fun t =>
    t.setRow l ((y.drop (64 * i)).take 64 ++ (t.row l).drop (y.length - 64 * i))) ts

/-! ## Touches (R248) -/

/-- Tile ranges of a step: those it reads, those it writes. -/
def stepTiles (d : DWord) (b : Bond) : Nat × Nat := (tilesFor (descLen d), tilesFor (stepLen d b))
/-- Rows of a tile that an operation writes; `tb` is the first boundary tile of the block. -/
def EngineOp.writes (tb : Nat) (op : EngineOp) (tile : Nat) : Mask :=
  match op with
  | .acczero t rows => if t = tile then rows else 0
  | .accmvTT t _ rows _ _ _ => if t = tile then rows else 0
  | .mma t _ _ _ _ rows _ => if t = tile then rows else 0
  | .mmag t _ _ _ _ _ rows _ _ _ _ => if t = tile then rows else 0
  | .ttc _ bond d rows => if descTb d ≤ tile && tile < descTb d + (stepTiles d bond).2 then rows else 0
  | .ttrun _ _ _ rows _ => if tb ≤ tile then rows else 0
  | _ => 0
/-- Rows of a tile that an operation reads. -/
def EngineOp.reads (tb : Nat) (op : EngineOp) (tile : Nat) : Mask :=
  match op with
  | .accst t rows _ _ _ _ _ => if t = tile then rows else 0
  | .accmvTT _ t rows _ _ _ => if t = tile then rows else 0
  | .ttc _ _ d rows => if descTb d ≤ tile && tile < descTb d + tilesFor (descLen d) then rows else 0
  | op => op.writes tb tile
/-- A warp has made an acquire since the completion of an entry of its block could be observed. -/
def Block.sawDone (b : Block) (w : Warp) (id : Nat) : Bool := b.past.any fun p => p.2.id = id && p.1 ≤ w.synced
/-- The completion of an entry can be observed from now on, by its arrive or by the MWAIT of its issuer; a covered entry whose completion every
live warp of the block has observed is forgotten. -/
def State.addPast (s : State) (blk : Nat) (e : EngineEntry) : State :=
  s.modBlk blk fun b => { b with
    past := (b.past.filter fun p => (b.uncov.any fun x => x.id = p.2.id) ||
      b.warps.any fun w => w.live != 0 && !b.sawDone w p.2.id) ++ [(s.turn, e)] }
/-- The issuing warp has observed the completion of another warp's entry: it has made an acquire since. DESIGN CHOICE (log 130). -/
def State.observed (s : State) (e : EngineEntry) : Bool := s.blk.sawDone s.wp e.id
/-- The queued instructions that the issuing warp could touch (R248): its own that no MWAIT has covered, and those of others, the parts
of products that its block is to perform among them, whose completion it has not observed. -/
def State.touchable (s : State) : List EngineEntry :=
  let id := s.blk.id
  let all := s.blk.uncov ++ s.blk.past.map Prod.snd ++ ((s.core s.blk.core).queue.filter fun e => e.blk = id) ++ s.blk.parts
  let mine (e : EngineEntry) : Bool := e.warp = s.wp.idx && e.owner = id
  s.blk.uncov.filter mine ++ all.filter fun e => !mine e && !s.observed e
/-- Rows of a tile that a touchable instruction writes. -/
def State.writtenRows (s : State) (tile : Nat) : Mask :=
  s.touchable.foldl (fun m e => m ||| e.op.writes (descTb s.blk.desc) tile) 0
/-- Rows of a tile that a touchable instruction reads or writes. -/
def State.namedRows (s : State) (tile : Nat) : Mask :=
  s.touchable.foldl (fun m e =>
    m ||| e.op.writes (descTb s.blk.desc) tile ||| e.op.reads (descTb s.blk.desc) tile) 0
/-- Some entries of a block that write rows of a tile leave unpredictable cells in them. -/
def State.spoilRows (s : State) (b : Block) (ids : List Nat) (tile : Nat) (rows : Mask) : State :=
  let tb := descTb b.desc
  let mark (e : EngineEntry) : EngineEntry :=
    if e.blk = b.id && ids.contains e.id then { e with spoil := e.spoil ||| (e.op.writes tb tile &&& rows) } else e
  (s.modCore b.core fun c => { c with queue := c.queue.map mark }).modBlk b.id fun x => { x with
    parts := x.parts.map mark, queued := x.queued.map mark }
/-- The blocks in whose tiles an entry of the issuing block writes: every member of the gang for an MMAG (R254). -/
def State.writersOf (s : State) (e : EngineEntry) : List Block :=
  match e.op with
  | .mmag _ _ _ _ _ _ _ _ _ _ _ => (List.range s.blk.header.gang).filterMap s.partner?
  | _ => [s.blkNow]
/-- Every cell that an entry writes in a block becomes unpredictable. -/
def State.spoilAll (s : State) (e : EngineEntry) (b : Block) : State :=
  (List.range 16).foldl (fun s t =>
    let rows := e.op.writes (descTb b.desc) t
    if rows = 0 then s else (s.editTile b.id t rows rows fun _ r => r).spoilRows b [e.id] t rows) s
/-- The issuing warp has written registers: every row that an instruction which reads one of them writes becomes
unpredictable (R248). -/
def State.touchRegs (s : State) (written : List Nat) : State :=
  let hit (e : EngineEntry) : Bool := e.warp = s.wp.idx && e.regs.any fun r => written.contains r
  (s.blk.uncov.filter hit).foldl (fun s e => (s.writersOf e).foldl (fun s b => s.spoilAll e b) s) s
/-- Whether the block's queue holds a change of its number of tiles: a direct instruction waits for it. -/
def State.tilesPending (s : State) : Bool :=
  (s.core s.blk.core).queue.any fun e => e.blk = s.blk.id && (match e.op with
    | .accgrow _ => true
    | .accfree _ => true
    | _ => false)

/-! ## The allocator (R245) -/

/-- Tiles of a core that no block holds or has been granted. -/
def State.freeTiles (s : State) (core : Nat) : Nat :=
  let growth (e : EngineEntry) : Nat := match e.op with | .accgrow n => n | _ => 0
  Config.tilesPerCore - (sumBy (fun b => b.tiles.length + sumBy growth b.queued) (s.resident core) +
    sumBy growth (s.core core).queue)
/-- One block is older than another. -/
def Block.older (a b : Block) : Bool := a.age < b.age || (a.age = b.age && a.index < b.index)
/-- A block older than `b` waits on its core. -/
def State.olderWaits (s : State) (b : Block) : Bool :=
  (s.core b.core).tileWaits.any fun t => ((s.block? t.blk).map fun x => x.older b).getD false
/-- A thread goes on from an ACCGROW `.wait`. -/
def Thread.granted (t : Thread) : Thread :=
  match t.status with
  | .waiting (.grant len) => t.resume len
  | _ => t
/-- Grant n tiles to a block: h grows, and the growth enters the queue for the issuing warp. -/
def State.grantTiles (s : State) (n : Nat) : State :=
  ({ s with blk := { s.blk with held := s.blk.held + n } } : State).enter (.accgrow n) []
/-- Answer a waiting ACCGROW with a status. -/
def State.answerGrow (s : State) (core : Nat) (t : TileWait) (status : Nat) : State :=
  (s.modCore core fun c => { c with tileWaits := c.tileWaits.erase t }).withWarp t.blk t.warp (Issue.for t.mask [t.vd])
    fun s =>
      let s1 := if status = 0 then s.grantTiles t.n else s
      let s2 := s1.writeReg t.vd t.mask (.u (BitVec.ofNat 32 status))
      { s2 with wp := s2.wp.mapThreads t.mask fun _ x => x.granted }
/-- The oldest waiter of a list. -/
def State.oldestWait (s : State) : List TileWait → Option TileWait
  | [] => none
  | t :: ts => match s.oldestWait ts with
    | none => some t
    | some u =>
      match s.block? t.blk, s.block? u.blk with
      | some x, some y => if y.older x then some u else some t
      | _, _ => some t
/-- A TTRUN of a block is outstanding: nothing of the block enters the queue (R271). -/
def State.chainOf (s : State) (b : Block) : Bool :=
  ((s.core b.core).queue ++ b.queued).any fun e => e.blk = b.id && e.op.isChain
/-- The allocator grants waiters in age order until one must wait, for tiles or for a TTRUN of its block (DEDUCED, log 131); `fuel`
bounds their number. -/
def State.allocate (s : State) (core : Nat) : Nat → State
  | 0 => s
  | fuel + 1 =>
    match s.oldestWait (s.core core).tileWaits with
    | none => s
    | some t =>
      match s.block? t.blk with
      | none => (s.modCore core fun c => { c with tileWaits := c.tileWaits.erase t }).allocate core fuel
      | some b =>
        if b.held + t.n > b.header.accMax then (s.answerGrow core t 3).allocate core fuel
        else if t.n ≤ s.freeTiles core && !s.chainOf b then (s.answerGrow core t 0).allocate core fuel
        else s
/-- Tiles of a core have freed. -/
def State.tilesFreed (s : State) (core : Nat) : State := s.allocate core (s.core core).tileWaits.length
/-- The ACC_DENIED test of every waiting request (R245). -/
def State.denyWaits (s : State) (core : Nat) : State :=
  (s.core core).tileWaits.foldl (fun s t =>
    match s.block? t.blk with
    | some b => if b.held ≥ 1 && s.olderWaits b then s.answerGrow core t 2 else s
    | none => s) s

/-! ## Performing loads and stores -/

/-- The context of a block. -/
def State.ctxOf (s : State) (b : Block) : Option Ctx := s.ctx? b.ctx
/-- The first byte of an engine read that is poisoned: SOURCE and WHERE. -/
def State.engineConsumed (s : State) (c : Ctx) (b : Block) (scratch : Bool) (at_ n : Nat) : Option (Nat × Nat) :=
  if scratch then (b.scrConsumed at_ n).map fun w => (1, w) else (s.consumed c at_ n).map fun w => (0, w)
/-- Bytes of an engine read, as many as asked for: old or new where no MRFENCE has ordered a store (R249, R304); what no longer translates
is unpredictable. -/
def State.engineRead (s : State) (c : Ctx) (b : Block) (known : Nat) (scratch : Bool) (at_ n : Nat) : List Byte :=
  let bs := if scratch then s.engineScr b known at_ n else s.engineVa c known at_ n
  bs ++ (List.range (n - bs.length)).map fun i => (Config.freeWord s.free i).setWidth 8

/-- Where the scales of an LQ2 row lie (R182, R225): the address and length of its bitmap bytes, the address of its scale
sequence, and its first index. -/
structure LqRow where
  bm  : Nat
  len : Nat
  sc  : Nat
  i0  : Nat
/-- The LQ2 row of `n` indices at local physical address `pa`. -/
def FmtWin.lqRow (w : FmtWin) (n pa : Nat) : LqRow :=
  let r := (localOf pa - w.base) / (64 * w.rowb)
  let i0 := (localOf pa - w.base) % (64 * w.rowb) / 2
  ⟨bits w.bitmap.toNat 0 57 + 4 * w.rowb * r, (i0 + n - 1) / 8 + 1, bits w.scale.toNat 0 57 + 32 * w.rowb * r, i0⟩
/-- The block number of index `i`: the set bits among indices 1 to `i` (R182). -/
def lqBlock (bm : List Byte) (i : Nat) : Nat :=
  ((List.range i).filter fun j => bit (bm.getD ((j + 1) / 8) 0).toNat ((j + 1) % 8)).length
/-- The LQ2 row of `n` indices at a virtual address. -/
def State.lqRowAt (s : State) (c : Ctx) (w : FmtWin) (n va : Nat) : LqRow :=
  match s.xlat c (va % 2 ^ 64) with
  | .ok l => w.lqRow n l.pa
  | _ => w.lqRow n w.base
/-- The addresses of the 16 scale bytes of a row, by an engine read of its bitmap that misses no write up to the turn `known`. -/
def State.lqScaleAt (s : State) (c : Ctx) (known : Nat) (q : LqRow) : List Nat :=
  let bm := s.engineVa c known q.bm q.len
  (List.range 16).map fun j => q.sc + lqBlock bm (q.i0 + j)
/-- The scale tables of an OSLOAD from an LQ2 window: the parts its rows need besides themselves (R258). -/
def State.lqParts (s : State) (c : Ctx) (w : FmtWin) (rows : List Nat) : List (Nat × Nat) :=
  (rows.flatMap fun va => let q := s.lqRowAt c w 16 va; parts q.bm q.len) ++ parts (bits w.codebook.toNat 0 57) 1024
def State.lqScaleParts (s : State) (c : Ctx) (known : Nat) (w : FmtWin) (rows : List Nat) : List (Nat × Nat) :=
  rows.flatMap fun va => (s.lqScaleAt c known (s.lqRowAt c w 16 va)).map fun a => (a, 1)
/-- A window of a context by index. -/
def State.winOf (s : State) (c : Ctx) (i : Nat) : Option FmtWin :=
  s.windows.find? fun w => w.index = i && w.enabled && w.owner = c.id
/-- The addresses of an image's rows. -/
def rowAddrs (base stride n : Nat) : List Nat := (List.range n).map fun r => base + r * stride
/-- The image an engine load reads, or the error it consumes (R242, R258): rows, then for LQ2 the tables. -/
def State.readImage (s : State) (c : Ctx) (b : Block) (known : Nat) (scratch : Bool) (addrs : List Nat) (layoutB : Bool) (fmt : Nat)
    (win : Option Nat) : Option (Nat × Nat) × Image :=
  let n := opRowBytes fmt
  let rows := addrs.map fun a => s.engineRead c b known scratch a n
  let w := if fmt = 11 then win.bind fun i => s.winOf c i else none
  let tabs := match w with | some w => s.lqParts c w addrs ++ s.lqScaleParts c known w addrs | none => []
  let bad := ((addrs.filterMap fun a => s.engineConsumed c b scratch a n) ++
    tabs.filterMap fun p => s.engineConsumed c b false p.1 p.2).head?
  let scales := match w with
    | some w => addrs.map fun a => (s.lqScaleAt c known (s.lqRowAt c w 16 a)).map fun x => (s.engineRead c b known false x 1).headD 0
    | none => []
  let cb := match w with | some w => s.engineRead c b known false (bits w.codebook.toNat 0 57) 1024 | none => []
  (bad, ⟨layoutB, fmt, rows, scales, cb, false⟩)
/-- Put an image into a slot. -/
def State.setImage (s : State) (blk slot : Nat) (i : Option Image) : State :=
  { s with free := s.free + 1 }.modBlk blk fun b => { b with images := b.images.set slot i }
/-- The leading copy forwards what an engine read of a warp gave to the trailing copy, whose queue goes on with it (R345). -/
def State.feed (s : State) (b : Block) (warp : Nat) (x : Fed) : State :=
  match (if b.copy = .leading then ((s.copiesOf b.id).find? fun i => i != b.id).bind s.block? else none) with
  | some t => (s.modBlk t.id fun t => { t with fed := t.fed ++ [(warp, x)] }).push (.enginePerform t.core)
  | none => s
/-- Take the oldest engine read forwarded for a warp of a trailing copy. -/
def State.takeFed (s : State) (b : Block) (warp : Nat) : Option (Fed × State) :=
  match b.fed.find? fun p => p.1 = warp with
  | some p => some (p.2, s.modBlk b.id fun b => { b with fed := b.fed.erase p })
  | none => none
/-- The first of some ranges whose key slot is refused to the context now: a violation, since the access passed issue (R352). -/
def State.refused (s : State) (c : Ctx) (acc : Acc) (rs : List (Nat × Nat)) : Option Nat :=
  rs.findSome? fun r => match s.check c acc r.1 r.2 1 with
    | some (.trap 0x0C 2 a) => some a
    | _ => none
/-- A violation by the entry at the head of a core's queue (R352): the context freezes there, and the entry and what its block entered after
it stop with the block. DESIGN CHOICE (log 170). -/
def State.setAside (s : State) (c : Ctx) (core : Nat) (e : EngineEntry) (va : Nat) : State :=
  let s1 := s.freeze c.id core va
  let es := (s1.core core).queue.filter fun x => x.blk = e.blk
  (s1.modCore core fun k => { k with queue := k.queue.filter fun x => x.blk != e.blk }).modBlk e.blk fun b =>
    { b with queued := es ++ b.queued }
/-- The ranges of memory that an OSLOAD of some rows reads. -/
def State.loadRanges (s : State) (c : Ctx) (known : Nat) (addrs : List Nat) (fmt : Nat) (win : Option Nat) : List (Nat × Nat) :=
  addrs.map (fun a => (a, opRowBytes fmt)) ++ match (if fmt = 11 then win.bind fun i => s.winOf c i else none) with
    | some w => s.lqParts c w addrs ++ s.lqScaleParts c known w addrs
    | none => []
/-- Perform an OSLOAD (R258). A trailing copy takes what the leading copy read of generic memory (R345). -/
def State.performLoad (s : State) (core : Nat) (e : EngineEntry) (b : Block) (slot : Nat) (scratch : Bool)
    (base stride : Nat) (layoutB : Bool) (fmt : Nat) (win : Option Nat) : State :=
  match s.ctxOf b with
  | none => s
  | some c =>
    if b.copy = .trailing && !scratch then
      match s.takeFed b e.warp with
      | some (.image img, s1) => (s1.setImage b.id slot (some img)).finishEntry core e
      | _ => s
    else
      let addrs := rowAddrs base stride (opRows layoutB)
      let (bad, img) := s.readImage c b e.known scratch addrs layoutB fmt win
      match (if scratch then none else s.refused c .load (s.loadRanges c e.known addrs fmt win)), bad with
      | some va, _ => s.setAside c core e va
      | none, some (src, w) => s.engineKill e src w
      | none, none =>
        let s1 := if scratch then s else addrs.foldl (fun s a => s.fillFor c core a (opRowBytes fmt)) (s.feed b e.warp (.image img))
        (s1.setImage b.id slot (some img)).finishEntry core e

/-- Bytes of a row of ACCST (R262). -/
def accstBytes (fmt : Nat) : Nat := if fmt = 0 then 256 else if fmt ≤ 2 then 128 else 64
/-- The elements of a row of ACCST, packed (R262). -/
def accstRow (fmt : Nat) (sat : Bool) (cells : List Word) : List Byte :=
  cells.flatMap fun x =>
    if fmt = 0 then bytesOf x.toNat 4
    else bytesOf (convert (cvType 0) (cvType fmt) 0 0 sat x.toNat).1 (accstBytes fmt / 64)
/-- Perform an ACCST (R262): the rows ascending. Where a row's key slot is refused no row is written and the context freezes (R352). A row
whose translation has been taken away since the issue is not written (DESIGN CHOICE, log 123). -/
def State.performStore (s : State) (core : Nat) (e : EngineEntry) (b : Block) (tile : Nat) (rows : Mask) (scratch : Bool)
    (base stride fmt : Nat) (sat : Bool) : State :=
  match s.ctxOf b with
  | none => s
  | some c =>
    if (b.tile tile).poisoned then s.engineKill e 3 tile
    else match (if scratch then none else s.refused c .store ((Mask.lanes rows).map fun l => (base + l * stride, accstBytes fmt))) with
    | some va => s.setAside c core e va
    | none =>
      ((Mask.lanes rows).foldl (fun s l =>
        let bs := accstRow fmt sat ((b.tile tile).row l)
        if scratch then s.writeScr b.id (base + l * stride) bs
        else if (s.check c .store (base + l * stride) bs.length 1).isSome then s
        else s.storeAs c true false b.id e.warp (base + l * stride) bs) s).finishEntry core e

/-! ## Performing products and steps -/

/-- The home lanes of a half (R253). -/
def halfMask (h : Nat) : Mask := maskOf fun l => l / 64 = h
/-- The next half, from `h` on, with a row to update. -/
def nextHalf (rows : Mask) (h : Nat) : Option Nat :=
  ((List.range 2).filter fun i => h ≤ i && rows &&& halfMask i != 0).head?
/-- The engine reads a slot of a block: whether its data reads as poisoned (R333, R351), and the state after. -/
def State.readSlot (s : State) (b : Block) (n : Nat) (first : Bool) : Bool × State :=
  let bad := ((b.images.getD n none).map fun (i : Image) => i.poisoned).getD false
  let aimed := match s.ctx? b.ctx with
    | some c => bits c.errinj.toNat 32 9 = n && bits c.errinj.toNat 30 2 = b.partner
    | none => false
  if first && aimed then
    let (hit, s1) := s.injected b 1
    (bad || hit, s1)
  else (bad, s)
/-- The image of a slot. -/
def Block.image (b : Block) (n : Nat) : Image := (b.images.getD n none).getD default
/-- The entry goes on to its next half, or it has been performed. -/
def State.afterHalf (s : State) (core : Nat) (e : EngineEntry) (rows : Mask) (h : Nat) (done : State → State) : State :=
  match nextHalf rows (h + 1) with
  | some _ => ((s.setEntry core { e with half := h + 1 }).engineWorked e.blk).push (.mmaHalf core)
  | none => done s
/-- One half of a product with given images (R251, R253). -/
def State.productHalf (s : State) (core : Nat) (e : EngineEntry) (b : Block) (tile semi : Nat) (sc : Scales) (ai bi : Image)
    (rows : Mask) (done : State → State) : State :=
  if (b.tile tile).poisoned then s.engineKill e 3 tile
  else match nextHalf rows e.half with
    | none => done s
    | some h =>
      (s.editTile b.id tile (rows &&& halfMask h) e.spoil fun l old => mmaRow semi sc ai bi l old).afterHalf core e rows h done
/-- The rows of a product are written: the entry leaves the queue and performs its arrive. -/
def State.productDone (core : Nat) (e : EngineEntry) (s : State) : State :=
  let s1 := match e.op.arrive with
    | some off => (s.barrier e.blk off 0 0 1 false).addPast e.blk e
    | none => s
  s1.finishEntry core e
/-- One half of an MMA. -/
def State.mmaStep (s : State) (core : Nat) (e : EngineEntry) (b : Block) (tile va vb semi : Nat) (sc : Scales)
    (rows : Mask) : State :=
  let (badA, s1) := s.readSlot b va (e.half = 0)
  let (badB, s2) := s1.readSlot b vb (e.half = 0)
  if badA then s1.engineKill e 2 va
  else if badB then s2.engineKill e 2 vb
  else s2.productHalf core e b tile semi sc (b.image va) (b.image vb) rows (State.productDone core e)

/-- Give the leader's image B to an entry of the same MMAG. -/
def EngineEntry.withB (e : EngineEntry) (id : Nat) (i : Image) : EngineEntry :=
  match e.op with
  | .mmag t a b bf semi sc rows off leader m _ =>
    if e.id = id then { e with op := .mmag t a b bf semi sc rows off leader m (some i) } else e
  | _ => e
/-- Multicast the leader's image B to every part of an MMAG (R254). -/
def State.multicast (s : State) (id : Nat) (i : Image) : State :=
  let s1 : State := { s with
    cores := s.cores.map fun c => { c with queue := c.queue.map fun e => e.withB id i }
    blocks := s.blocks.map fun b => { b with
      parts := b.parts.map fun e => e.withB id i, queued := b.queued.map fun e => e.withB id i } }
  ((List.range s.cores.length).filter fun c => (s1.core c).queue.any fun e => e.id = id).foldl
    (fun s c => s.push (.enginePerform c)) s1
/-- One half of a member's part of an MMAG (R254); a partner's part waits for the leader's image B. -/
def State.mmagStep (s : State) (core : Nat) (e : EngineEntry) (b : Block) (tile va vb semi : Nat) (sc : Scales)
    (rows : Mask) (member : Nat) (bimg : Option Image) : State :=
  match bimg with
  | none =>
    if member != 0 then s
    else
      let (bad, s1) := s.readSlot b vb true
      if bad then s1.engineKill e 2 vb else s1.multicast e.id (b.image vb)
  | some bi =>
    let (badA, s1) := s.readSlot b va (e.half = 0)
    if badA then s1.engineKill e 2 va
    else s1.productHalf core e b tile semi sc (b.image va) bi rows (State.productDone core e)

/-- One half of a step (R268): each row is read whole before it is written. -/
def State.stepHalf (s : State) (core : Nat) (e : EngineEntry) (b : Block) (slot : Nat) (bond : Bond) (d : DWord)
    (rows : Mask) (done : State → State) : State :=
  let (bad, s1) := s.readSlot b slot (e.half = 0)
  let tb := descTb d
  match (List.range (tilesFor (descLen d))).find? fun i => (b.tile (tb + i)).poisoned with
  | some i => s1.engineKill e 3 (tb + i)
  | none =>
    if bad then s1.engineKill e 2 slot
    else match nextHalf rows e.half with
      | none => done s1
      | some h =>
        let g := b.image slot
        let row (ts : List TileCell) (l : Nat) : List TileCell :=
          putBoundary ts tb l (if Mask.has e.spoil l then freeCells s1.free l (stepLen d bond)
            else stepRow d bond g (boundaryAt ts tb l))
        let s2 := { s1 with free := s1.free + 1 }.modBlk b.id fun b =>
          { b with tiles := (Mask.lanes (rows &&& halfMask h)).foldl row b.tiles }
        s2.afterHalf core e rows h done

/-! ## Chain programs (R275-R277) -/

/-- A thread goes on from a completed TTRUN. -/
def Thread.chained (t : Thread) : Thread :=
  match t.status with
  | .waiting (.chain len) => t.resume len
  | _ => t
/-- The place of a TTRUN that has ended in the order of entry, which MWAIT counts: it names no row and no register any more. -/
def EngineEntry.spent (e : EngineEntry) : EngineEntry := { e with op := .ttrun 0 0 0 0 none, regs := [] }
/-- No MWAIT has to cover a TTRUN any more. -/
def State.coverEntry (s : State) (e : EngineEntry) : State :=
  (s.addPast e.blk e).modBlk e.blk fun b => { b with uncov := b.uncov.map fun x => if x.id = e.id then x.spent else x }
/-- A TTRUN completes: PROGIDX becomes 0 and its threads go on (R276). They have waited for it, so it is covered; requests for tiles that it
held are looked at (R271). -/
def State.chainDone (s : State) (core : Nat) (e : EngineEntry) : State :=
  (((s.withWarp e.blk e.warp e.iss fun s =>
    { s with wp := { s.wp.mapThreads e.iss.lanes (fun _ t => t.chained) with progIdx := 0 } }).finishEntry core e).coverEntry e).tilesFreed core
/-- A TTRUN stops at step `k`: it leaves the queue, PROGIDX holds where it resumes, and its threads stand at it again. -/
def State.chainStop (s : State) (core : Nat) (e : EngineEntry) (k : Nat) (then_ : State → State) : State :=
  (((s.popEntry core e).coverEntry e).tilesFreed core).withWarp e.blk e.warp e.iss fun s =>
      let s1 := s.setStatus e.iss.lanes .eligible
      then_ { s1 with wp := { s1.wp with progIdx := progIdx k 0 true } }
/-- A TTRUN stops at step `k` on a failed check of R213 or a trap. -/
def State.chainFail (s : State) (core : Nat) (e : EngineEntry) (k : Nat) (f : Fail) : State :=
  s.chainStop core e k fun s => s.failWith f s.iss.lanes 0
def State.chainTrap (s : State) (core : Nat) (e : EngineEntry) (k cause : Nat) (addr : DWord) : State :=
  s.chainStop core e k fun s => s.trap cause addr s.iss.lanes

/-- A step record (R275). -/
structure StepRec where
  load : Bool
  slot : Nat
  bond : Nat
  fmt  : Nat
  stride : Nat
  addr : Nat
  /-- Check 2 of R269 fails. -/
  bad  : Bool
/-- The fields of a step record from its two words. -/
def StepRec.of (lo hi : Nat) : StepRec :=
  let load := bit lo 0
  let fmt := bits lo 44 4
  ⟨load, bits lo 7 5, bits lo 12 4, fmt, bits lo 48 16, bits hi 0 57,
    bits lo 1 6 != 0 || bits lo 16 28 != 0 || bits hi 57 7 != 0 ||
      (if load then !(osFormat fmt && fmt != 15) else bits lo 44 20 != 0 || hi != 0)⟩
/-- Check 14 of R269 for the rows of a loaded core: the alignment of OSLOAD (R258), of the address and of the stride, then R213. -/
def State.coreFail (s : State) (c : Ctx) (base stride n fmt : Nat) : Option Fail :=
  if base % 16 != 0 then some (.trap 0x08 0 base)
  else if stride % 16 != 0 then some (.trap 0x08 0 (base + stride))
  else s.checkParts c .load ((rowAddrs base stride n).flatMap fun a => parts a (opRowBytes fmt))
/-- A step that has been checked stands next (R276). -/
def State.chainReady (s : State) (core : Nat) (e : EngineEntry) (addr count k : Nat) (rows : Mask) (slot : Nat) (bond : Bond) (d : DWord) : State :=
  (s.setEntry core { e with half := 0, op := .ttrun addr count k rows (some (slot, bond, d)) }).push (.ttrunStep core)
/-- A loaded core stands in its slot: the rows it does not name are unpredictable (R275). -/
def State.putCore (s : State) (blk slot fmt : Nat) (img : Image) : State :=
  let other := (List.range (64 - img.rows.length)).map fun i =>
    (List.range (opRowBytes fmt)).map fun j => (Config.freeWord s.free (opRowBytes fmt * i + j)).setWidth 8
  (s.setImage blk slot (some { img with rows := img.rows ++ other })).modBlk blk fun b =>
    { b with slots := b.slots.set slot ⟨.ready, true, fmt⟩ }
/-- Checks 2 to 13 of R269 of a step record: the trap they give. -/
def Block.recordFail (b : Block) (r : StepRec) (k : Nat) : Option (Nat × DWord) :=
  if r.bad then some (0x10, bondAddr 0 k r.bond 6)
  else b.stepCheck ⟨r.slot, b.bonds.getD r.bond 0, r.bond, k, if r.load then some r.fmt else none⟩
/-- A step record from its 16 bytes. -/
def StepRec.ofBytes (bs : List Byte) : StepRec :=
  let n := Sys2Proof.ofBytes bs
  StepRec.of (n % 2 ^ 64) (n / 2 ^ 64)
/-- The image in which the bytes of a step record are forwarded. -/
def recordImage (bs : List Byte) : Image := ⟨false, 0, [bs], [], [], false⟩
/-- The leading copy forwards a failed check that traps. -/
def State.feedFail (s : State) (b : Block) (warp : Nat) (f : Fail) : State :=
  match f with
  | .trap cause kind a => s.feed b warp (.failed cause kind a)
  | _ => s
/-- Read and check the next step of a TTRUN, and load its core (R276); the leading copy of a pair forwards what it reads. -/
def State.chainNext (s : State) (core : Nat) (e : EngineEntry) (b : Block) (c : Ctx) (addr count k : Nat) (rows : Mask) :
    State :=
  let at_ := addr + 16 * k
  match s.checkParts c .load (parts at_ 16) with
  | some f => (s.feedFail b e.warp f).chainFail core e k f
  | none =>
    match s.consumed c at_ 16 with
    | some w => s.engineKill e 0 w
    | none =>
      let bs := s.engineRead c b e.known false at_ 16
      let r := StepRec.ofBytes bs
      let bond := b.bonds.getD r.bond 0
      let fed := s.feed b e.warp (.image (recordImage bs))
      match b.recordFail r k with
      | some (cause, a) => fed.chainTrap core e k cause a
      | none =>
        if !r.load then fed.chainReady core e addr count k rows r.slot bond b.desc
        else
          let n := Bond.m bond * Bond.dout bond
          match s.coreFail c r.addr r.stride n r.fmt with
          | some (.demand a) => s.chainFail core e k (.demand a)
          | some f => (fed.feedFail b e.warp f).chainFail core e k f
          | none =>
            let (bad, img) := s.readImage c b e.known false (rowAddrs r.addr r.stride n) true r.fmt none
            match bad with
            | some (src, w) => s.engineKill e src w
            | none =>
              ((fed.feed b e.warp (.image img)).putCore b.id r.slot r.fmt img).chainReady core e addr count k rows r.slot bond b.desc
/-- The next step of a trailing copy's TTRUN: it takes the record and the core that the leading copy read, and makes the other checks itself
(R345). It waits while they have not come. -/
def State.chainFed (s : State) (core : Nat) (e : EngineEntry) (b : Block) (addr count k : Nat) (rows : Mask) : State :=
  match s.takeFed b e.warp with
  | none => s
  | some (.failed cause kind a, s1) => s1.chainFail core e k (.trap cause kind a)
  | some (.image x, s1) =>
    let r := StepRec.ofBytes (x.rows.headD [])
    let bond := b.bonds.getD r.bond 0
    match b.recordFail r k with
    | some (cause, a) => s1.chainTrap core e k cause a
    | none =>
      if !r.load then s1.chainReady core e addr count k rows r.slot bond b.desc
      else match (s1.block? b.id).bind fun b => s1.takeFed b e.warp with
        | some (.failed cause kind a, s2) => s2.chainFail core e k (.trap cause kind a)
        | some (.image img, s2) => (s2.putCore b.id r.slot r.fmt img).chainReady core e addr count k rows r.slot bond b.desc
        | none => s
/-- One unit of a TTRUN: the checks and load of the next step, or a half of the current one (R276). -/
def State.chainUnit (s : State) (core : Nat) (e : EngineEntry) (b : Block) (addr count k : Nat) (rows : Mask)
    (cur : Option (Nat × Bond × DWord)) : State :=
  match cur with
  | none =>
    if k ≥ count then s.chainDone core e
    else if b.copy = .trailing then s.chainFed core e b addr count k rows
    else match s.ctxOf b with
      | some c => s.chainNext core e b c addr count k rows
      | none => s
  | some (slot, bond, d) =>
    s.stepHalf core e b slot bond d rows fun s =>
      ((s.modBlk b.id fun b => { b with desc := stepDesc d bond }).setEntry core
        { e with half := 0, op := .ttrun addr count (k + 1) rows none }).push (.ttrunStep core)

/-! ## One unit of the head of a queue -/

/-- Perform one unit of an entry of a core's queue. -/
def State.performEntry (s : State) (core : Nat) (e : EngineEntry) : State :=
  match s.block? e.blk with
  | none => s.popEntry core e
  | some b =>
    match e.op with
    | .osclaim _ => s.finishEntry core e
    | .osrel n => (s.setImage b.id n none).finishEntry core e
    | .osload slot scr base stride lay fmt win => s.performLoad core e b slot scr base stride lay fmt win
    | .accgrow n =>
      (s.modBlk b.id fun b => { b with tiles := b.tiles ++ List.replicate n TileCell.zero }).finishEntry core e
    | .accfree n =>
      ((s.modBlk b.id fun b => { b with tiles := b.tiles.take (b.tiles.length - n) }).finishEntry core e).tilesFreed core
    | .acczero t rows => (s.editTile b.id t rows e.spoil fun _ _ => zeroRow).finishEntry core e
    | .accst t rows scr base stride fmt sat => s.performStore core e b t rows scr base stride fmt sat
    | .accmvTT dst src rows sc dc cnt =>
      if (b.tile src).poisoned then s.engineKill e 3 src
      else
        (s.editTile b.id dst rows e.spoil fun l old =>
          old.take dc ++ (((b.tile src).row l).drop sc).take cnt ++ old.drop (dc + cnt)).finishEntry core e
    | .mma t va vb semi sc rows _ => s.mmaStep core e b t va vb semi sc rows
    | .mmag t va vb _ semi sc rows _ _ member bimg => s.mmagStep core e b t va vb semi sc rows member bimg
    | .bdset _ _ => s.finishEntry core e
    | .ttc slot bond d rows => s.stepHalf core e b slot bond d rows fun s => s.finishEntry core e
    | .ttrun addr count k rows cur => s.chainUnit core e b addr count k rows cur
/-- Perform one unit of the entry at the head of a core's queue. -/
def State.performHead (s : State) (core : Nat) : State :=
  match (s.core core).queue with
  | [] => s
  | e :: _ => s.performEntry core e
/-- ENGINE_PERFORM (R246). -/
def execEnginePerform (core : Nat) (s : State) : Out := .next (s.performHead core)
/-- The head of a core's queue stands between its halves. -/
def Core.halfDone (c : Core) : Bool := match c.queue with | e :: _ => e.half != 0 | [] => false
/-- MMA_HALF (R253): the second half of the MMA, MMAG part, TTC or chain step at the head. -/
def execMmaHalf (core : Nat) (s : State) : Out :=
  .next (if (s.core core).halfDone then s.performHead core
    else if (s.core core).queue.isEmpty then s else s.push (.enginePerform core))
/-- TTRUN_STEP (R276): the next unit of the TTRUN at the head. -/
def execTtrunStep (core : Nat) (s : State) : Out :=
  .next (match (s.core core).queue with
    | [] => s
    | e :: _ => if e.op.isChain then s.performHead core else s.push (.enginePerform core))
/-- What a part of an MMAG meets at its member (R254): a member that has ended holds no slot. DESIGN CHOICE (log 132). -/
def Block.partFail (b : Block) (member tile va bf semi : Nat) : Option (Nat × DWord) :=
  match b.state with
  | .ended _ => some (0x0E, engineAddr member va 2)
  | _ => b.memberCheck member tile va bf semi
/-- A block takes the parts handed to it: it runs, or it has ended. -/
def Block.takesParts (b : Block) : Bool :=
  match b.state with
  | .running => true
  | .ended _ => true
  | _ => false
/-- MMAG_MEMBER_PART (R254): the oldest part waiting for a member is checked and enters its queue; a failed check
fail-arrives and records a deferred failure for the leader's warp. -/
def execMmagMemberPart (blk : Nat) (s : State) : Out :=
  .next (match s.block? blk with
    | none => s
    | some b =>
      match b.parts with
      | [] => s
      | e :: rest =>
        if !b.takesParts then s
        else
          let s1 := s.modBlk blk fun b => { b with parts := rest }
          match e.op with
          | .mmag t va _ bf semi _ _ off leader member _ =>
            match b.partFail member t va bf semi with
            | some (cause, a) =>
              let s2 := (s1.barrier blk off 0 0 1 true).modBlk leader fun l =>
                { l with deferred := l.deferred ++ [⟨e.id, e.warp, BitVec.ofNat 8 cause, a⟩] }
              (s2.maybeEnd blk).maybeEnd leader
            | none => (s1.modCore b.core fun c => { c with queue := c.queue ++ [e] }).push (.enginePerform b.core)
          | _ => s1)

end Sys2Proof.Machine
end

