-- ==== Sys2Proof/Machine/Matrix.lean ====
section
/-! DEFINITION. The matrix instructions, opcodes 0xC0-0xCD (R247, R249, R255-R264). -/
namespace Sys2Proof.Machine

/-- A trap of the issuing group that a failed check gives, else `k`. -/
def State.checked (s : State) (x : Option (Nat × DWord)) (k : State → State) : State :=
  match x with
  | some (cause, a) => s.trap cause a s.iss.lanes
  | none => k s
/-- The slot number in VB, or IMM32 (R255). -/
def slotB (f : Fields) : Nat := if f.isF96 then f.imm.toNat else f.vb.toNat
/-- EXT in F128, else 0: the offset of OSLOAD (R258). -/
def extOffset (f : Fields) : DWord := if f.isF128 then f.ext else 0
/-- Set the logical state of a slot of the issuing block. -/
def State.setSlot (s : State) (n : Nat) (x : Slot) : State := { s with blk := { s.blk with slots := s.blk.slots.set n x } }

/-! ## Slots -/

/-- OSCLAIM (R257). -/
def execOsclaim (f : Fields) (s : State) : Out :=
  .next (s.queued f fun s => s.needU (uniRegB f) fun s =>
    let r := s.uniB f
    let b := s.blk
    let isFree (n : Nat) : Bool := (b.slot n).state = .free
    let any := r = 0xFFFFFFFF
    if !any && r ≥ b.slots.length then s.trap 0x0E (b.slotAddr 0 r 1) s.iss.lanes
    else
      let got := if any then (List.range b.slots.length).find? isFree else if isFree r then some r else none
      let s1 := match got with
        | some n => s.setSlot n ⟨.claimed, false, 0⟩
        | none => s
      (s1.enter (.osclaim got) []).alu f (.u (match got with | some n => BitVec.ofNat 32 n | none => 0xFFFFFFFF)))
/-- OSREL (R257). -/
def execOsrel (f : Fields) (s : State) : Out :=
  .next (s.queued f fun s => s.needU (uniRegB f) fun s =>
    let n := s.uniB f
    let b := s.blk
    s.checked (firstTrap [b.slotFail 0 n 1 (n ≥ b.slots.length), b.slotFail 0 n 2 ((b.slot n).state = .free)]) fun s =>
      ((s.setSlot n ⟨.free, false, 0⟩).enter (.osrel n) []).advance)

/-- An OSLOAD that passed its checks: the slot becomes READY and the load is entered (R258). -/
def State.loadEntry (s : State) (f : Fields) (scratch : Bool) (base stride fmt : Nat) (win : Option Nat) : State :=
  let n := f.vd.toNat
  (s.setSlot n ⟨.ready, f.b 3, fmt⟩).enter (.osload n scratch base stride (f.b 3) fmt win) []
/-- As `loadEntry`, and the group goes on. -/
def State.enterLoad (s : State) (f : Fields) (scratch : Bool) (base stride fmt : Nat) (win : Option Nat) : State :=
  (s.loadEntry f scratch base stride fmt win).advance
/-- OSLOAD from scratch (R66, R258). -/
def State.osloadScr (s : State) (f : Fields) : State :=
  let base := (s.wp.val f.va.toNat 0 + (extOffset f).setWidth 32).toNat
  let stride := s.uniB f
  let fmt := f.m 7 4
  let en := s.en f
  let addrs := rowAddrs base stride (opRows (f.b 3))
  if fmt = 15 then s.trap 0x0C (BitVec.ofNat 64 (4 * 2 ^ 60 + base)) en
  else match addrs.find? fun a => a % 16 != 0 with
    | some a => s.trap 0x08 (BitVec.ofNat 64 a) en
    | none => match addrs.find? fun a => a + opRowBytes fmt > s.blk.header.scratch with
      | some a => s.trap 0x09 (BitVec.ofNat 64 a) en
      | none => s.enterLoad f true base stride fmt none
/-- The checks of R213 over the rows of a generic OSLOAD, and over the tables of an LQ2 window. -/
def State.osloadFail (s : State) (c : Ctx) (addrs : List Nat) (fmt : Nat) (w : Option FmtWin) : Option Fail :=
  let rows := addrs.flatMap fun a => parts a (opRowBytes fmt)
  match w with
  | none => s.checkParts c .load rows
  | some w =>
    if fmt != 11 then s.checkParts c .load rows
    else match s.checkParts c .load (rows ++ s.lqParts c w addrs) with
      | some x => some x
      | none => s.checkParts c .load (s.lqScaleParts c s.blk.fenced w addrs)
/-- The window of OSLOAD `.win` (R258): the lowest enabled window of the context that holds every row it would load. -/
def State.sourceWindow (s : State) (c : Ctx) (base : Nat) (layoutB : Bool) : Option FmtWin :=
  let holds (w : FmtWin) : Bool :=
    (rowAddrs base (64 * w.rowb) (opRows layoutB)).all fun a => (parts a (opRowBytes w.fmt)).all fun p =>
      match s.xlat c p.1 with
      | .ok l => w.covers l.pa && nodeOf l.pa = s.node
      | _ => a != base
  (s.windows.filter fun w => w.enabled && w.owner = c.id && holds w).foldl (fun b w => match b with
    | none => some w
    | some x => if w.index < x.index then some w else some x) none
/-- A failed check of a generic OSLOAD; the leading copy of a pair forwards the trap (R345). -/
def State.failLoad (s : State) (x : Fail) (en : Mask) : State :=
  match x with
  | .trap code _ _ => (s.forward (.trap (BitVec.ofNat 8 code) x.addr en)).failWith x en 0
  | _ => s.failWith x en 0
/-- The checks of a generic OSLOAD (R258): the failed one, or its stride, format and window. A `.win` source that does not translate lies in
no window, and fails as R213 says (DEDUCED, log 133). -/
def State.osloadCheck (s : State) (f : Fields) (c : Ctx) (base : Nat) : Except Fail (Nat × Nat × Option FmtWin) :=
  let rows (stride fmt : Nat) (w : Option FmtWin) : Except Fail (Nat × Nat × Option FmtWin) :=
    match s.osloadFail c (rowAddrs base stride (opRows (f.b 3))) fmt w with
    | some x => .error x
    | none => .ok (stride, fmt, w)
  if f.m 7 4 = 15 then
    match s.checkParts c .load [(base, 1)], s.sourceWindow c base (f.b 3) with
    | some x, _ => .error x
    | none, none => .error (.trap 0x0C 4 base)
    | none, some w => if base % 32 != 0 then .error (.trap 0x08 0 base) else rows (64 * w.rowb) w.fmt (some w)
  else
    match (rowAddrs base (s.uniB f) (opRows (f.b 3))).find? fun a => a % 16 != 0 with
    | some a => .error (.trap 0x08 0 a)
    | none => rows (s.uniB f) (f.m 7 4) none
/-- The number of a window, or 0 for none, as the leading copy forwards it. -/
def windowNum (w : Option Nat) : Word := match w with | some i => BitVec.ofNat 32 (i + 1) | none => 0
/-- OSLOAD from generic memory (R258). The trailing copy takes the outcome of the leading copy's checks (R345). -/
def State.osloadGen (s : State) (f : Fields) : State :=
  let base := (s.wp.pair f.va.toNat 0 + extOffset f).toNat
  let en := s.en f
  if s.blk.copy = .trailing then
    s.trailing en fun s _ vals =>
      let x (i : Nat) : Nat := ((vals.getD i (.u 0)).at 0).toNat
      s.loadEntry f false base (x 0) (x 1) (if x 2 = 0 then none else some (x 2 - 1))
  else match s.ctx? s.blk.ctx with
  | none => s
  | some c => s.lostFirst fun s =>
    match s.osloadCheck f c base with
    | .error x => s.failLoad x en
    | .ok (stride, fmt, w) =>
      let i := w.map fun w => w.index
      (s.forward (.values en [.u (BitVec.ofNat 32 stride), .u (BitVec.ofNat 32 fmt), .u (windowNum i)])).enterLoad f false base stride fmt i
/-- OSLOAD (R258). -/
def execOsload (f : Fields) (s : State) : Out :=
  let va := f.va.toNat
  let stride := if f.m 7 4 = 15 then [] else uniRegB f
  .next (s.queued f fun s => s.needU ((if f.b 2 then [va] else [va, va + 1]) ++ stride) fun s =>
    let n := f.vd.toNat
    let b := s.blk
    s.checked (firstTrap [b.slotFail 0 n 1 (n ≥ b.slots.length), b.slotFail 0 n 2 ((b.slot n).state = .free)]) fun s =>
      if f.b 2 then s.osloadScr f else s.osloadGen f)

/-- A step of a chain program loads a slot (R275), as its records stand. -/
def State.chainWrites (s : State) (addr count n : Nat) : Bool :=
  match s.ctx? s.blk.ctx with
  | none => false
  | some c => (List.range count).any fun k =>
    let r := StepRec.ofBytes (s.loadVa c (addr + 16 * k) 16)
    r.load && r.slot = n
/-- An outstanding queued instruction of the block writes a slot: an OSLOAD of it, or a TTRUN with a step that loads it. -/
def State.slotBusy (s : State) (n : Nat) : Bool :=
  (s.core s.blk.core).queue.any fun e => e.blk = s.blk.id && (match e.op with
    | .osload m _ _ _ _ _ _ => m = n
    | .ttrun addr count _ _ _ => s.chainWrites addr count n
    | _ => false)
/-- The status word of OSQ (R257). -/
def State.slotWord (s : State) (n : Nat) : Nat :=
  let x := s.blk.slot n
  let ready := x.state = .ready
  (if s.slotBusy n then 0 else 256) +
    (if n ≥ s.blk.slots.length then 3
     else x.state.code + (if ready then (if x.layoutB then 128 else 0) + x.fmt * 8 else 0))
/-- OSQ (R257): the slot number of the lowest enabled thread. -/
def execOsq (f : Fields) (s : State) : Out :=
  .next (s.whenEnabled f fun s =>
    let n := if f.isF96 then f.imm.toNat else (s.wp.val f.vb.toNat (Mask.low (s.en f))).toNat
    s.alu f (.u (BitVec.ofNat 32 (s.slotWord n))))

/-! ## Tiles -/

/-- ACCGROW (R245, R259). -/
def execAccgrow (f : Fields) (s : State) : Out :=
  .next (s.queued f fun s => s.needU (uniRegB f) fun s0 =>
    let s := s0.spoilRegion
    let n := s.uniB f
    let b := s.blk
    let en := s.en f
    if n = 0 then s.alu f (.u 0)
    else if b.held + n > b.header.accMax then s.alu f (.u 3)
    else if !f.b 0 then
      if n ≤ s.freeTiles b.core && !s.olderWaits b then (s.grantTiles n).alu f (.u 0) else s.alu f (.u 1)
    else if b.held ≥ 1 && s.olderWaits b then s.alu f (.u 2)
    else
      let s1 := s.modCore b.core fun c =>
        { c with tileWaits := c.tileWaits ++ [⟨b.id, n, s.wp.idx, en, f.vd.toNat⟩] }
      let s2 := (s1.advanceLanes (s.iss.lanes &&& ~~~en)).setStatus en (.waiting (.grant s.iss.len))
      (s2.denyWaits b.core).tilesFreed b.core)
/-- ACCFREE (R259). -/
def execAccfree (f : Fields) (s : State) : Out :=
  .next (s.queued f fun s => s.needU (uniRegB f) fun s =>
    let n := s.uniB f
    s.checked (firstTrap [(n > s.blk.held, 0x0D, engineAddr 0 n s.blk.held)]) fun s =>
      ({ s with blk := { s.blk with held := s.blk.held - n } }.enter (.accfree n) []).advance)
/-- ACCZERO (R260). -/
def execAcczero (f : Fields) (s : State) : Out :=
  .next (s.queued f fun s => s.checked (firstTrap [s.blk.tileFail 0 f.vd.toNat]) fun s =>
    (s.enter (.acczero f.vd.toNat (s.en f)) []).advance)

/-- A direct instruction (R246): it waits while the block's number of tiles is changing in the queue. -/
def State.direct (s : State) (f : Fields) (tile : Nat) (k : State → State) : State :=
  s.whenEnabled f fun s => s.checked (firstTrap [s.blk.tileFail 0 tile]) fun s =>
    if s.tilesPending then s.waitRetry s.iss.lanes else k s
/-- Read rows of a tile directly, unless its data is poisoned: `k` takes the lanes written, and the cells. A read of a row that an
uncovered instruction writes leaves an unpredictable value in every lane of each register, for which `k` takes no cells (R11, R248). -/
def State.readTile (s : State) (f : Fields) (tile : Nat) (k : State → Mask → Option (Nat → Nat → Word) → State) : State :=
  let en := s.en f
  if (s.blk.tile tile).poisoned then s.consume 3 tile en
  else
    let t := s.blk.tile tile
    let s1 : State := { s with free := s.free + 8 }
    if s.writtenRows tile &&& en = 0 then k s1 en (some fun l j => (t.row l).getD j 0) else k s1 s.wp.live none
/-- Registers of unpredictable values. -/
def State.anyRegs (s : State) (d n : Nat) : List (Nat × RegVal) := (List.range n).map fun i => (d + i, .v (s.freeRow i))
/-- ACCLD (R261). -/
def execAccld (f : Fields) (s : State) : Out :=
  let c := f.m 5 0
  let n := accCount (f.m 7 6)
  .next (s.direct f f.va.toNat fun s => s.readTile f f.va.toNat fun t m cells =>
    (t.pend f.la.toNat false m (match cells with
      | some cell => (List.range n).map fun i => (f.vd.toNat + i, .lanes fun l => cell l (c + i))
      | none => s.anyRegs f.vd.toNat n)).advance)
/-- One cell as a BF16 half (R260). -/
def bf16Half (x : Word) : Nat := (convert (cvType 0) (cvType 2) 0 0 false x.toNat).1
/-- ACCMV `.tr` (R260). -/
def State.moveOut (s : State) (f : Fields) : State :=
  let c := f.m 5 0
  s.direct f f.va.toNat fun s => s.readTile f f.va.toNat fun t m cells =>
    (t.writeRegs m (match cells with
      | some cell => (List.range 4).map fun i => (f.vd.toNat + i, .lanes fun l =>
          BitVec.ofNat 32 (bf16Half (cell l (c + 2 * i + 1)) * 2 ^ 16 + bf16Half (cell l (c + 2 * i))))
      | none => s.anyRegs f.vd.toNat 4)).advance
/-- ACCMV `.rt` (R248, R260). -/
def State.moveIn (s : State) (f : Fields) : State :=
  let c := f.m 5 0
  let tile := f.vd.toNat
  s.direct f tile fun s =>
    let bad := s.namedRows tile
    let w := s.wp
    ((s.editTile s.blk.id tile (s.en f) bad fun l old =>
      old.take c ++ ((List.range 4).map fun i => w.val (f.va.toNat + i) l) ++ old.drop (c + 4)).spoilRows s.blk (s.touchable.map fun e => e.id)
        tile (s.en f)).advance
/-- ACCMV `.tt` (R260). -/
def State.moveTiles (s : State) (f : Fields) : State :=
  s.queued f fun s => s.checked (firstTrap [s.blk.tileFail 0 f.vd.toNat, s.blk.tileFail 0 f.va.toNat]) fun s =>
    let (sc, dc, cnt) := if f.isF128 then (f.e 5 0, f.e 11 6, f.e 18 12) else (0, 0, 64)
    (s.enter (.accmvTT f.vd.toNat f.va.toNat (s.en f) sc dc cnt) []).advance
/-- ACCMV (R260). -/
def execAccmv (f : Fields) (s : State) : Out :=
  .next (match f.m 7 6 with
    | 0 => s.moveTiles f
    | 1 => s.moveIn f
    | _ => s.moveOut f)

/-- ACCST (R262). A leading copy waits for its held stores, which come before it (R304). -/
def execAccst (f : Fields) (s : State) : Out :=
  let scr := f.b 3
  let vc := f.vc.toNat
  .next (s.queued f fun s => s.needU ((if scr then [vc] else [vc, vc + 1]) ++ uniRegB f) fun s =>
    let tile := f.va.toNat
    let en := s.en f
    let base := if scr then s.uni vc else s.uniPair vc
    let stride := s.uniB f
    let fmt := f.m 7 5
    let enterRows (s : State) (m : Mask) : State := s.enter (.accst tile m scr base stride fmt (f.b 4)) []
    s.checked (firstTrap [s.blk.tileFail 0 tile]) fun s => s.whenStored fun s =>
      match (if base % 16 != 0 then some base else if stride % 16 != 0 then some (base + stride) else none) with
      | some a => s.trap 0x08 (if scr then BitVec.ofNat 64 a else (Fail.trap 0x08 0 a).addr) en
      | none =>
        match s.ctx? s.blk.ctx with
        | none => s
        | some c => s.lostFirst fun s =>
          let cause (l : Nat) : Cause :=
            if scr then s.blk.scrCause true (base + l * stride) (accstBytes fmt) 1 false
            else Cause.ofFail (s.check c .store (base + l * stride) (accstBytes fmt) 1)
          s.dealCauses en 1 (causesOf en cause) enterRows)

/-! ## Products -/

/-- The scales of a product as the engine will read them (R252): an exited lane supplies an unpredictable byte. -/
def State.scalesOf (s : State) (f : Fields) (sa : Bool) : Scales :=
  let row (k r : Nat) : Row := Lanes.of fun l => if Mask.has s.wp.live l then s.wp.val r l else Config.freeWord (s.free + k) l
  let sb := f.b 4
  ⟨sa, sb, f.e 1 0, f.e 7 6, f.e 8 8 = 1, f.vc.toNat, f.e 24 16,
    if sa then row 0 f.vc.toNat else Lanes.of fun _ => 0, if sb then row 1 (f.e 24 16) else Lanes.of fun _ => 0⟩
/-- Registers a product reads when it is performed (R248). -/
def productRegs (f : Fields) (va : Bool) : List Nat :=
  (if va then [f.vc.toNat] else []) ++ (if f.b 4 then [f.e 24 16] else [])
/-- The checks of a barrier offset of an engine arrive (R263, R264). -/
def State.arriveAt (s : State) (off : Nat) (en : Mask) (k : State → State) : State :=
  if off % 8 != 0 then s.trap 0x08 (BitVec.ofNat 64 off) en
  else if off + 8 > s.blk.header.scratch then s.trap 0x09 (BitVec.ofNat 64 off) en
  else k s
/-- MMA (R263). -/
def execMma (f : Fields) (s : State) : Out :=
  let sa := f.b 3
  let arv := f.e 63 63 = 1
  let off := f.e 55 32
  .next (s.queued f fun s =>
    let en := s.en f
    s.checked (s.blk.mmaCheck f.vd.toNat f.va.toNat (slotB f) (f.m 2 0) sa (f.b 4)) fun s =>
      let go (s : State) : State :=
        ({ s with free := s.free + 2 }.enter (.mma f.vd.toNat f.va.toNat (slotB f) (f.m 2 0) (s.scalesOf f sa) en
          (if arv then some off else none)) (productRegs f sa)).advance
      if arv then s.arriveAt off en go else go s)
/-- Hand the partners their parts of an MMAG (R254): one that does not run yet, or is halted, takes its part when it does. -/
def State.giveParts (s : State) (e : EngineEntry) (op : Nat → EngineOp) : State :=
  ((List.range s.blk.header.gang).drop 1).foldl (fun s m =>
    match s.partner? m with
    | some b =>
      (s.modBlk b.id fun x => { x with parts := x.parts ++ [{ e with blk := b.id, op := op m }] }).push (.mmagMemberPart b.id)
    | none => s) s
/-- MMAG (R264): the leader enters its part, and each partner's part follows. -/
def execMmag (f : Fields) (s : State) : Out :=
  .next (s.queued f fun s =>
    if s.blk.header.gang = 1 || s.blk.partner != 0 then s.illegal 8 s.iss.lanes
    else s.needU [f.vc.toNat] fun s =>
      let en := s.en f
      s.checked (s.blk.mmaCheck f.vd.toNat f.va.toNat (slotB f) (f.m 2 0) false (f.b 4)) fun s =>
        let off := s.uni f.vc.toNat
        s.arriveAt off en fun s =>
          let sc := s.scalesOf f false
          let lead := s.blk.id
          let op (m : Nat) : EngineOp := .mmag f.vd.toNat f.va.toNat (slotB f) (s.blk.slot (slotB f)).fmt (f.m 2 0) sc en off
            lead m none
          let s1 := { s with free := s.free + 2 }.enter (op 0) (productRegs f true)
          match s1.blk.uncov.getLast? with
          | some e => (s1.giveParts e op).advance
          | none => s1.advance)

/-! ## Waiting for the engine -/

/-- MRFENCE (R249): every store made so far is visible to the engine reads of what the block issues from now on; a leading copy waits for
its held stores. DESIGN CHOICE (log 25): stores that the issuing threads neither made nor observed are among them. -/
def execMrfence (f : Fields) (s : State) : Out :=
  .next (s.whenEnabled f fun s => s.whenStored fun s => s.lostFirst fun s =>
    { s with blk := { s.blk with fenced := s.turn } }.advance)
/-- The instructions a warp entered that an `mwait n` waits for: all but the last `n` entered, a TTRUN as one of them (R247). DEDUCED (log 169). -/
def Block.waitedFor (b : Block) (warp n : Nat) : List Nat :=
  let ids := (b.uncov.filter fun e => e.warp = warp).map EngineEntry.id
  ids.take (ids.length - n)
/-- MWAIT (R247): it covers what it waits for, and raises the first deferred failure of an MMAG that is so covered (R254). -/
def execMwait (f : Fields) (s : State) : Out :=
  .next (s.whenEnabled f fun s =>
    let out := s.outstanding s.blk.id s.wp.idx
    if out.length > f.m 5 0 then s.waitRetry s.iss.lanes
    else
      let ids := (s.blk.waitedFor s.wp.idx (f.m 5 0)).filter fun i => !out.contains i
      let mine (d : Deferred) : Bool := d.warp = s.wp.idx && ids.contains d.id
      let covers (e : EngineEntry) : Bool := e.warp = s.wp.idx && ids.contains e.id
      let s0 := (s.blk.uncov.filter covers).foldl (fun s e => s.addPast s.blk.id e) s
      let s1 : State := { s0 with blk := { s0.blk with
        uncov := s.blk.uncov.filter fun e => !covers e
        deferred := s.blk.deferred.filter fun d => !mine d } }
      match s.blk.deferred.find? mine with
      | some d => s1.trap d.cause.toNat d.addr s.iss.lanes
      | none => s1.advance)

end Sys2Proof.Machine
end

