-- ==== Sys2Proof/Machine/Chain.lean ====
section
/-! DEFINITION. The tensor chain instructions, opcodes 0xE0-0xE4 (R269-R278). -/
namespace Sys2Proof.Machine

/-- The bond index in VB, or IMM32 (R272). -/
def bondB (f : Fields) : Nat := if f.isF96 then f.imm.toNat else f.vb.toNat
/-- BDSET (R273). -/
def execBdset (f : Fields) (s : State) : Out :=
  let va := f.va.toNat
  .next (s.queued f fun s => s.needU [va, va + 1] fun s =>
    let x := BitVec.ofNat 64 (s.uniPair va)
    let i := f.m 3 0
    let b := if f.b 4 then { s.blk with desc := x } else { s.blk with bonds := s.blk.bonds.set i x }
    ({ s with blk := b }.enter (.bdset (if f.b 4 then none else some i) x) []).advance)
/-- BDGET (R273). -/
def execBdget (f : Fields) (s : State) : Out :=
  let x := if f.b 4 then s.blk.desc else s.blk.bonds.getD (f.m 3 0) 0
  .next (s.whenEnabled f fun s => s.aluPair f (halvesU x))
/-- TTC (R274): checked, the logical descriptor updated, and the step entered. -/
def execTtc (f : Fields) (s : State) : Out :=
  .next (s.queued f fun s =>
    let slot := f.va.toNat
    let bond : Bond := if f.isF128 then f.ext else s.blk.bonds.getD (bondB f) 0
    let idx := if f.isF128 then 0x10 else bondB f
    s.checked (s.blk.stepCheck ⟨slot, bond, idx, 0, none⟩) fun s =>
      let d := s.blk.desc
      ({ s with blk := { s.blk with desc := stepDesc d bond } }.enter (.ttc slot bond d (s.en f)) []).advance)
/-- TTRUN (R276): the chain is entered at step 0, or at PROGIDX.STEP when RES is 1, and its threads wait. -/
def execTtrun (f : Fields) (s : State) : Out :=
  let va := f.va.toNat
  let en := s.en f
  .next (s.queued f fun s => s.needU ((if f.isF128 then [] else [va, va + 1]) ++ uniRegB f) fun s =>
    let addr := if f.isF128 then f.e 56 0 else s.uniPair va
    if addr % 16 != 0 then s.trap 0x08 (Fail.trap 0x08 0 addr).addr en
    else s.lostFirst fun s =>
      let p := s.wp.progIdx.toNat
      let k := if bit p 63 then bits p 32 16 else 0
      let s1 : State := { s with wp := { s.wp with progIdx := s.wp.progIdx &&& ~~~(BitVec.ofNat 64 (2 ^ 63)) } }
      (s1.enter (.ttrun addr (s.uniB f % 2 ^ 16) k en none) []).setStatus s.iss.lanes (.waiting (.chain s.iss.len)))
/-- `.need` of TTQ (R278). -/
def Block.chainNeed (b : Block) (bond : Bond) : Nat :=
  if !Bond.wf bond || !descWf b.desc || Bond.din bond != descBond b.desc || descSuf b.desc % Bond.n bond != 0 ||
      Bond.m bond * Bond.dout bond > 64 then 0xFFFFFFFF
  else descTb b.desc + tilesFor (stepLen b.desc bond)
/-- Queued TTC and BDSET of the issuing block that are not performed (R278). -/
def State.chainBusy (s : State) : Nat :=
  ((s.core s.blk.core).queue.filter fun e => e.blk = s.blk.id && (match e.op with
    | .ttc _ _ _ _ => true
    | .bdset _ _ => true
    | _ => false)).length
/-- TTQ (R278). -/
def execTtq (f : Fields) (s : State) : Out :=
  .next (s.whenEnabled f fun s =>
    let n := match f.m 1 0 with
      | 0 => if descWf s.blk.desc then descLen s.blk.desc else 0
      | 1 => s.blk.chainNeed (s.blk.bonds.getD (bondB f) 0)
      | _ => s.chainBusy
    (s.pend f.la.toNat false (s.en f) [(f.vd.toNat, .u (BitVec.ofNat 32 n))]).advance)

end Sys2Proof.Machine
end

