-- ==== Sys2Proof/Machine/Dictionary.lean ====
section
/-! DEFINITION. Dictionaries (R77-R85): entries, images, expansion, the larder; and DLOAD, DSWITCH, DSYNC, DREAD and
DPATCH, opcodes 0xE8-0xEC (R86-R92). -/
namespace Sys2Proof.Machine

/-! ## Entries (R77, R78) -/

/-- The template of an entry. -/
def entryTemplate (e : BitVec 192) : BitVec 128 := e.setWidth 128
/-- Hole `k`: START and WIDTH. -/
def entryHole (e : BitVec 192) (k : Nat) : Nat × Nat := (bits e.toNat (128 + 12 * k + 5) 7, bits e.toNat (128 + 12 * k) 5)
/-- The four holes. -/
def entryHoles (e : BitVec 192) : List (Nat × Nat) := (List.range 4).map (entryHole e)
/-- VALID. -/
def entryValid (e : BitVec 192) : Bool := bit e.toNat 176
/-- The hole width. -/
def entryWidth (e : BitVec 192) : Nat := sumBy Prod.snd (entryHoles e)
/-- Two holes overlap. -/
def holesOverlap : List (Nat × Nat) → Bool
  | [] => false
  | (s, w) :: rest => (rest.any fun p => s < p.1 + p.2 && p.1 < s + w) || holesOverlap rest
/-- The first condition of R78 that a valid entry fails. -/
def entryFault (e : BitVec 192) : Option Nat :=
  let t := entryTemplate e
  let len := lengthOf t
  let op := (wbits t 2 8).toNat
  let f := fieldsOf t len
  let used := (entryHoles e).filter fun p => p.2 != 0
  let holeBits := used.flatMap fun p => (List.range p.2).map (p.1 + ·)
  if len = 4 then some 0x02
  else if (Instr.ofOp op f).isNone || [0xE8, 0xE9, 0xEA, 0xEC].contains op then some 0x03
  else if !formatLegal op f then some 0x04
  else if used.any fun p => p.1 < 10 then some 0x05
  else if used.any fun p => p.1 + p.2 > 8 * len then some 0x06
  else if holesOverlap used then some 0x07
  else if entryWidth e > 22 then some 0x08
  else if holeBits.any t.getLsbD then some 0x09
  else if t >>> (8 * len) != 0 then some 0x0A
  else if bits e.toNat 177 15 != 0 then some 0x0B
  else if (entryHoles e).any fun p => p.2 = 0 && p.1 != 0 then some 0x0C
  else none

/-! ## Images (R79) -/

/-- The 24 bytes of an entry as a number. -/
def entryOf (bs : List Byte) : BitVec 192 := BitVec.ofNat 192 (ofBytes bs)
/-- The entries of an image's bytes. -/
def imageEntries (bs : List Byte) : List (BitVec 192) :=
  (List.range 256).map fun i => entryOf ((bs.drop (64 + 24 * i)).take 24)
/-- Check an image (R79, R87): its dictionary, or the entry and SUB that fail. -/
def imageCheck (bs : List Byte) : Except (Nat × Nat) Dict :=
  let num (o n : Nat) : Nat := ofBytes ((bs.drop o).take n)
  let es := imageEntries bs
  let header := num 0 4 = 0x44435459 && num 4 2 = 1 && num 6 2 = (es.filter entryValid).length &&
    num 8 4 = crc32c ((bs.drop 64).take 6144) && num 12 48 = 0 && num 60 4 = crc32c (bs.take 60)
  if !header then .error (0, 0x01)
  else
    let bad := (List.range 256).filterMap fun i =>
      let e := es.getD i 0
      if entryValid e then (entryFault e).map fun sub => (i, sub) else none
    match bad.head? with
    | some x => .error x
    | none => .ok (Tab.setMany 0 [] 0 es)
/-- The status word of R87. -/
def dictStatus (entry sub : Nat) : Word := BitVec.ofNat 32 (sub * 2 ^ 16 + entry * 2 ^ 8 + 1)

/-! ## Expansion (R80) -/

/-- Put the payload into the holes, hole 0 first. -/
def fillHoles (h : Nat) : List (Nat × Nat) → Nat → Nat → Nat
  | [], _, x => x
  | (start, w) :: rest, used, x => fillHoles h rest (used + w) (x + bits h used w * 2 ^ start)
/-- The expansion of an entry by a payload; nothing when payload bits lie beyond the hole width. -/
def expandEntry (e : BitVec 192) (h : BitVec 22) : Option (BitVec 128) :=
  if entryWidth e < 22 && h.toNat >>> entryWidth e != 0 then none
  else some (BitVec.ofNat 128 (fillHoles h.toNat (entryHoles e) 0 (entryTemplate e).toNat))

/-! ## The larder (R81, R82) -/

/-- A slot of a core's larder. -/
def State.larderSlot (s : State) (core k : Nat) : Option LarderSlot := (s.core core).larder.getD k none
/-- The entries of dictionary `n` of the issuing block; a number bound to none reads as undefined entries. -/
def State.dict (s : State) (n : Nat) : Dict :=
  match s.blk.binds.getD n none with
  | some k => ((s.larderSlot s.blk.core k).map fun (x : LarderSlot) => x.entries).getD []
  | none => []
/-- The slot that dictionary `n` of the issuing block is bound to is poisoned (R333). -/
def State.dictPoisoned (s : State) (n : Nat) : Bool :=
  ((s.blk.binds.getD n none).bind fun k => (s.larderSlot s.blk.core k).map fun (x : LarderSlot) => x.poisoned).getD false
/-- What reads dictionary `n` consumes the error that lies in its slot (R336 SOURCE 6), or goes on. -/
def State.readDict (s : State) (n : Nat) (m : Mask) (k : State → State) : State :=
  if s.dictPoisoned n then s.consume 6 ((s.blk.binds.getD n none).getD 0) m else k s
/-- Set a slot of a core's larder. -/
def State.setLarder (s : State) (core k : Nat) (x : Option LarderSlot) : State :=
  s.modCore core fun c => { c with larder := c.larder.set k x }
/-- A block lets go of a slot: one with no block left becomes free. -/
def State.dropSlot (s : State) (core k : Nat) : State :=
  match s.larderSlot core k with
  | some x => s.setLarder core k (if x.count ≤ 1 then none else some { x with count := x.count - 1 })
  | none => s
/-- The lowest free slot of a larder. -/
def State.freeLarder (s : State) (core : Nat) : Option Nat :=
  (List.range Config.larderSlots).find? fun k => (s.larderSlot core k).isNone
/-- Every thread of the issuing block becomes stale (R83), and the change ends the idempotent region (R322). -/
def State.dictChange (s : State) : State :=
  (s.modWarps s.blk.id fun w => w.mapThreads Mask.all fun _ t => { t with stale := true }).spoilRegion
/-- Take a free slot and rebind the number to it. Poison goes with entries that are kept. -/
def State.copySlot (s : State) (n : Nat) (old : Option Nat) (g : Dict → Dict) (keeps : Bool) (m : Mask) (k : State → State) : State :=
  match s.freeLarder s.blk.core with
  | none => s.trap 0x04 (BitVec.ofNat 64 n) m
  | some j =>
    let core := s.blk.core
    let es := s.dict n
    let bad := keeps && s.dictPoisoned n
    let s1 := match old with | some i => s.dropSlot core i | none => s
    let s2 := s1.setLarder core j (some ⟨s.blk.ctx, s.blk.obj, s.blk.tag, none, true, 1, g es, bad⟩)
    k { s2 with blk := { s2.blk with binds := s2.blk.binds.set n (some j) } }.dictChange
/-- Modify dictionary `n` of the issuing block under R82, then `k`; DICT_NOSLOT, of the enabled threads, when no slot is free.
DESIGN CHOICE (log 159). -/
def State.changeDict (s : State) (n : Nat) (g : Dict → Dict) (keeps : Bool) (m : Mask) (k : State → State) : State :=
  let core := s.blk.core
  let old := s.blk.binds.getD n none
  let here := old.bind fun j => (s.larderSlot core j).map fun x => (j, x)
  match here with
  | some (j, x) =>
    if x.count = 1 then
      k (s.setLarder core j (some { x with modified := true, entries := g x.entries, poisoned := keeps && x.poisoned })).dictChange
    else s.copySlot n (some j) g keeps m k
  | none => s.copySlot n none g keeps m k

/-! ## The instructions -/

/-- The bytes of some U words. -/
def wordBytes (xs : List RegVal) : List Byte := xs.flatMap fun x => bytesOf (x.at 0).toNat 4
/-- Bytes as U words, forwarded to a trailing copy. -/
def bytesWords (bs : List Byte) : List RegVal :=
  (List.range ((bs.length + 3) / 4)).map fun i => .u (BitVec.ofNat 32 (ofBytes ((bs.drop (4 * i)).take 4)))
/-- Read bytes as one plain load by the lowest enabled thread, then `k` (R88, R92). A trap of the read names every enabled thread. DESIGN CHOICE
(log 160). -/
def State.plainLoad (s : State) (f : Fields) (a n need : Nat) (k : State → List Byte → State) : State :=
  let en := s.en f
  if s.blk.copy = .trailing then s.trailing en fun s _ vals => k s (wordBytes vals)
  else if s.blk.copy = .leading && s.pairBusy then s.waitRetry s.iss.lanes
  else
    let x : Access := ⟨fun _ => a, n, need, true, false, true⟩
    s.access en true x fun s c _ =>
      let bs := s.loadVa c a n
      k ((s.fillRange c a n).forward (.values en (bytesWords bs))) bs
/-- The address of DLOAD: the pair's low 57 bits, or EXT. -/
def State.imageAddr (s : State) (f : Fields) : Nat := if f.isF128 then f.e 56 0 else s.uniPair f.va.toNat % 2 ^ 57
/-- DLOAD (R88). -/
def execDload (f : Fields) (s : State) : Out :=
  .next (s.whenEnabled f fun s => s.needU (if f.isF128 then [] else [f.va.toNat, f.va.toNat + 1]) fun s =>
    s.plainLoad f (s.imageAddr f) 6208 64 fun s bs =>
      match imageCheck bs with
      | .error (entry, sub) => s.spoilRegion.writeReg f.vd.toNat (s.en f) (.u (dictStatus entry sub))
      | .ok d => s.changeDict (f.m 1 0) (fun _ => d) false (s.en f) fun s => s.writeReg f.vd.toNat (s.en f) (.u 0))
/-- DSWITCH (R89). -/
def execDswitch (f : Fields) (s : State) : Out :=
  .next (s.whenEnabled f fun s => { s with blk := { s.blk with active := f.m 1 0 } }.dictChange.advance)
/-- DSYNC (R90). -/
def execDsync (f : Fields) (s : State) : Out :=
  .next { s with wp := s.wp.mapThreads (s.en f) fun _ t => { t with stale := false } }.advance
/-- DREAD (R91). -/
def execDread (f : Fields) (s : State) : Out :=
  let n := if f.b 2 then s.blk.active else f.m 1 0
  let d := s.dict n
  let word (i : Nat) (x : Word) : Word := BitVec.ofNat 32 (bits (Tab.get 0 d (x.toNat % 256)).toNat (32 * i) 32)
  .next (s.whenEnabled f fun s => s.readDict n (s.en f) fun s =>
    (s.writeRegs (s.en f) ((List.range 6).map fun i => (f.vd.toNat + i, lift1 (word i) (s.rvA f)))).advance)
/-- The change DPATCH makes with an entry's data: a status for an entry that is not well-formed (R92). -/
def State.patch (s : State) (f : Fields) (e : BitVec 192) : State :=
  let i := s.uni f.va.toNat % 256
  match (if entryValid e then entryFault e else none) with
  | some sub => s.spoilRegion.writeReg f.vd.toNat (s.en f) (.u (dictStatus i sub))
  | none => s.changeDict (f.m 1 0) (fun d => Tab.set 0 d i e) true (s.en f) fun s => s.writeReg f.vd.toNat (s.en f) (.u 0)
/-- DPATCH (R92). -/
def execDpatch (f : Fields) (s : State) : Out :=
  let vb := f.vb.toNat
  let regs := f.va.toNat :: if f.isF128 then [] else (List.range 6).map (vb + ·)
  .next (s.whenEnabled f fun s => s.needU regs fun s =>
    if f.isF128 then s.plainLoad f (f.e 56 0) 24 8 fun s bs => s.patch f (entryOf bs)
    else (s.patch f (entryOf (wordBytes ((List.range 6).map fun i => s.wp.rv (vb + i))))).goOn)

end Sys2Proof.Machine
end

