-- ==== Sys2Proof/Machine/Graph.lean ====
section
/-! DEFINITION. The dependence graph: launch records (R32, R33), completion records (R34-R36), the take, deliveries
(R38-R40), readiness (R41-R43) and copy nodes (R37); the events RECORD_TAKE, DELAYED_DELIVERY, PRIORITY_AGING and
COPY_BURST. -/
namespace Sys2Proof.Machine

/-! ## Launch records (R32) -/

/-- A little-endian field of a record: `n` bytes at offset `o`. -/
def fieldAt (bs : List Byte) (o n : Nat) : Nat := ofBytes ((bs.drop o).take n)
/-- The fields of a launch record. -/
def Record.of (bs : List Byte) : Record where
  seq := fieldAt bs 0 2
  kind := fieldAt bs 2 1
  ctrl := fieldAt bs 3 1
  preds := fieldAt bs 4 2
  nsucc := fieldAt bs 6 1
  nxform := fieldAt bs 7 1
  nodeid := fieldAt bs 8 4
  nsuccx := fieldAt bs 0x0C 4
  src := fieldAt bs 0x10 8
  dst := fieldAt bs 0x18 8
  blocks := fieldAt bs 0x20 4
  argsize := fieldAt bs 0x24 4
  doneaddr := fieldAt bs 0x28 8
  succptr := fieldAt bs 0x30 8
  xfptr := fieldAt bs 0x38 8
  succ := (List.range 8).map fun i => fieldAt bs (0x40 + 4 * i) 4
/-- Step 1 of R33: a record that was read whole, with its SEQ, RECCRC and DONEADDR good. -/
def recordGood (bs : List Byte) (seq : Nat) : Bool :=
  let r := Record.of bs
  bs.length = 128 && r.seq = seq && fieldAt bs 0x7C 4 = crc32c (bs.take 0x7C) && r.doneaddr != 0 && r.doneaddr % 64 = 0
/-- The ranges of R32 that depend on KIND. -/
def Record.kindOk (r : Record) : Bool :=
  match r.kind with
  | 0 => 1 ≤ r.blocks && r.blocks ≤ 2 ^ 24 && r.argsize % 4 = 0 && r.argsize ≤ 4096
  | 1 => r.src % 256 = 0 && r.dst % 256 = 0 && r.blocks % 256 = 0 && r.blocks ≥ 256 && r.argsize = 0 && r.nxform = 0
  | 2 => r.src = 0 && r.dst = 0 && r.blocks = 0 && r.argsize = 0 && r.nxform = 0
  | _ => false
/-- Step 2 of R33: every field in its range and every reserved bit zero. -/
def recordFields (bs : List Byte) : Bool :=
  let r := Record.of bs
  r.kindOk && bits r.ctrl 5 3 = 0 && !bit r.ctrl 3 && r.nsucc ≤ 8 && r.nxform ≤ 4 && r.nsuccx ≤ 4096 &&
  (r.nsuccx != 0 || r.succptr = 0) && (r.nxform != 0 || r.xfptr = 0) &&
  ((List.range 8).all fun i => decide (i < r.nsucc) = (r.succ.getD i 0 != 0)) && fieldAt bs 0x60 28 = 0
/-- PRIO and RETAIN of CTRL. -/
def Record.prio (r : Record) : Nat := bits r.ctrl 0 3
def Record.retain (r : Record) : Bool := bit r.ctrl 4
/-- BLOCKS of the completion record (R34): blocks, bursts, or 0. -/
def Record.total (r : Record) : Nat :=
  match r.kind with
  | 1 => r.blocks / 256
  | 2 => 0
  | _ => r.blocks

/-! ## Transform bindings (R44) -/

/-- Fields of a binding. -/
def xfSrc (b : BitVec 128) : Nat := bits b.toNat 64 64
def xfStride (b : BitVec 128) : Nat := bits b.toNat 44 20
def xfCount (b : BitVec 128) : Nat := bits b.toNat 32 12
def xfOffset (b : BitVec 128) : Nat := bits b.toNat 20 12
def xfWin (b : BitVec 128) : Nat := bits b.toNat 14 6
def xfOp (b : BitVec 128) : Nat := bits b.toNat 0 8
/-- A binding follows R44 for a header's SCRATCH. -/
def xfOk (scratch : Nat) (b : BitVec 128) : Bool :=
  xfSrc b < 2 ^ 57 && 1 ≤ xfCount b && xfCount b ≤ 1536 && xfOffset b + xfCount b ≤ scratch / 256 &&
  bits b.toNat 8 6 = 0 && [0x00, 0x01, 0x02, 0x03, 0x10].contains (xfOp b) && (xfOp b = 0x10 || xfWin b = 0)
/-- The device reads a range of a context: every page translates, and no byte is poisoned or lies on a lost node. -/
def State.canRead (s : State) (c : Ctx) (va n : Nat) : Bool := s.mapped c va n && (s.consumed c va n).isNone
/-- The bindings of a record; nothing when the table cannot be read, and the record is then a BAD_XFORM. DESIGN CHOICE (log 155). -/
def State.readXforms (s : State) (c : Ctx) (r : Record) : Option (List (BitVec 128)) :=
  if r.nxform = 0 then some []
  else if !s.canRead c r.xfptr (16 * r.nxform) then none
  else
    let bs := s.loadVa c r.xfptr (16 * r.nxform)
    some ((List.range r.nxform).map fun i => BitVec.ofNat 128 (fieldAt bs (16 * i) 16))

/-! ## Completion records (R34) -/

/-- The current version of an object. -/
def CodeObj.version (o : CodeObj) (tag : Nat) : Option Version := o.versions.find? fun v => v.tag = tag
/-- An object of a context by its address. -/
def Ctx.object? (c : Ctx) (addr : Nat) : Option CodeObj := c.objects.find? fun o => o.addr = addr
/-- BLKLIST of a node: its latest block list (R344). -/
def Ctx.blkList (c : Ctx) (key : Nat) : Nat :=
  (((c.lists.filter fun x => x.1 = key).getLast?).map fun x => x.2.2).getD 0
/-- The 64 bytes of a completion record. -/
def Node.completion (n : Node) (list : Nat) : List Byte :=
  bytesOf n.final 1 ++ bytesOf n.reason 1 ++ bytesOf 0 2 ++ bytesOf n.record.nodeid 4 ++ bytesOf n.record.total 4 ++
  bytesOf n.done 4 ++ bytesOf n.fail 4 ++ bytesOf n.kill 4 ++ bytesOf n.rel 4 ++
  bytesOf (n.firstBlk.getD 0xFFFFFFFF) 4 ++ bytesOf n.firstCause 1 ++ bytesOf 0 7 ++ bytesOf list 8 ++
  bytesOf (n.tstart.getD 0) 8 ++ bytesOf n.tend 8
/-- Write the completion record of a node; REASON and the first block are shown as they stand. DESIGN CHOICE (log 101): bytes
at a DONEADDR that does not translate are not written. -/
def State.writeDone (s : State) (ctx key : Nat) : State :=
  match s.ctx? ctx, s.node? ctx key with
  | some c, some n =>
    let shown := if n.final = 0 then { n with reason := 0 } else n
    s.storeVa c n.record.doneaddr (shown.completion (c.blkList key))
  | _, _ => s

/-! ## Nodes -/

/-- A node as the take makes it. -/
def Node.make (key : Nat) (r : Record) (queue : Option Nat) (wdcfg : DWord) (die : Nat) : Node where
  key := key
  record := r
  state := .waiting
  queue := queue
  wdcfg := wdcfg
  count := 0
  failures := 0
  readyAt := 0
  readyClk := 0
  aged := 0
  tag := 0
  ilock := false
  retained := false
  xforms := []
  bank1 := []
  bad1 := []
  next := 0
  nextClk := 0
  passed := false
  starved := false
  done := 0
  fail := 0
  kill := 0
  rel := 0
  firstBlk := none
  fails := []
  firstCause := 0
  reason := 0
  nonIdem := false
  cancelled := false
  ctxKilled := false
  tstart := none
  tend := 0
  die := die
  final := 0
  copyPos := 0
  frozen := false
  progress := 0
  wdExpired := none
  relaunched := []
  redo := []
  ranOn := []
/-- The node occupies an entry of the node table (R40). -/
def Node.live (n : Node) : Bool := n.state != .finished
/-- A node by the name a live one holds. -/
def Ctx.named (c : Ctx) (id : Nat) : Option Node := c.nodes.find? fun n => n.live && n.record.nodeid = id
/-- The node table is full (R38, R40). -/
def Ctx.tableFull (c : Ctx) : Bool := (c.nodes.filter Node.live).length ≥ Config.nodeEntries
/-- The attic is full (R43). -/
def Ctx.atticFull (c : Ctx) : Bool := c.attic.length ≥ c.regions.atticN
/-- The header of the current version of an object a record names. -/
def Ctx.headerFor (c : Ctx) (r : Record) : Option Header :=
  if r.kind != 0 then none else (c.object? r.src).bind fun o => (o.version o.current).map fun (v : Version) => v.header
/-- A record is judged retained before its checks (R43). -/
def Ctx.judgedRetained (c : Ctx) (r : Record) : Bool :=
  r.kind = 0 && (r.retain || ((c.headerFor r).map Header.retain).getD false)
/-- An attic entry's bytes at an offset. -/
def State.atticWrite (s : State) (c : Ctx) (slot off : Nat) (bs : List Byte) : State :=
  s.storeVa c (c.regions.attic + 4352 * slot + off) bs
/-- The lowest free attic entry. -/
def Ctx.freeAttic (c : Ctx) : Nat :=
  ((List.range (c.attic.length + 1)).find? fun i => !c.attic.any fun a => a.slot = i).getD 0

/-! ## Versions that are retained (R23) -/

/-- Some launch bound to a version has not retired: its node is live or provisional. -/
def Ctx.bound (c : Ctx) (obj tag : Nat) : Bool :=
  c.nodes.any fun n => n.record.kind = 0 && n.record.src = obj && n.tag = tag && (n.final = 0 || n.final = 1 || n.final = 3)
/-- Versions that are not current and that no launch holds are released. -/
def Ctx.prune (c : Ctx) : Ctx :=
  { c with objects := c.objects.map fun o =>
      { o with versions := o.versions.filter fun v => v.tag = o.current || c.bound o.addr v.tag } }

/-! ## Finishing and deliveries (R36, R38-R40) -/

/-- The deliveries a node makes, in list order: to the successors named inline, then to those that the entries of the overflow
list name when the delivery is made. -/
def Record.deliveries (r : Record) (key : Nat) (fail atTake : Bool) : List Delivery :=
  let n := if r.nsuccx ≤ 4096 && !(atTake && r.succptr = 0) then r.nsuccx else 0
  ((r.succ.take (min r.nsucc 8)).filter (· != 0)).map (fun d => ⟨d, r.nodeid, key, fail, none⟩) ++
    (List.range n).map fun i => ⟨0, r.nodeid, key, fail, some (r.succptr + 4 * i)⟩
/-- Deliveries of a node to its successors. -/
def State.deliver (s : State) (ctx key : Nat) (r : Record) (fail atTake : Bool) : State :=
  match r.deliveries key fail atTake with
  | [] => s
  | ds => (s.modCtx ctx fun c => { c with delayed := c.delayed ++ ds }).push (.delayedDelivery ctx)
/-- The device looks at every queue of a context that has records to take. -/
def State.pump (s : State) (ctx : Nat) : State :=
  match s.ctx? ctx with
  | none => s
  | some c => c.queues.foldl (fun s q => if q.head != q.tail && !q.error then s.push (.recordTake ctx q.id) else s) s
/-- A node retires (R23, R43): its attic entry and its version are released; a node whose status cannot change again
leaves the model's list. -/
def State.retireNode (s : State) (ctx key : Nat) (keep : Bool) : State :=
  (s.modCtx ctx fun c =>
    Ctx.prune { c with
      attic := c.attic.filter fun a => a.node != key
      nodes := if keep then c.nodes else c.nodes.filter fun n => n.key != key }).pump ctx
/-- A node finishes with a status (R36): its final record is written, its entry frees, and it makes its deliveries. -/
def State.finishNode (s : State) (ctx key status reason : Nat) (deliver : Bool) : State :=
  match s.node? ctx key with
  | none => s
  | some n =>
    let s1 := s.modNode ctx key fun n =>
      { n with final := status, reason := reason, state := .finished, tend := (s.die n.die).clk }
    let s2 := s1.writeDone ctx key
    let fails := status = 4 || status = 5 || status = 7
    let s3 := if deliver then s2.deliver ctx key n.record fails false else s2
    let s4 := if status = 1 || status = 3 then s3.pump ctx else s3.retireNode ctx key (status = 6)
    s4.push .placementDecision
/-- The final status of a node whose counts are complete (R36), and its reason (R35). -/
def Node.outcome (n : Node) : Nat × Nat :=
  if n.kill != 0 then (5, if n.ctxKilled then 0x0D else 0x0C)
  else if n.nonIdem then (7, 0x0A)
  else if n.fail != 0 then (4, n.reason)
  else if n.record.kind != 0 then (2, 0)
  else if n.rel != 0 then (3, 0)
  else (1, 0)
/-- A node whose blocks have all ended finishes; in place of a DONE status a node with a block list finishes SUSPECT (R343). -/
def State.checkFinish (s : State) (ctx key : Nat) : State :=
  match s.ctx? ctx, s.node? ctx key with
  | some c, some n =>
    if n.live && n.state != .waiting && n.done + n.fail + n.kill = n.record.total then
      let o := n.outcome
      let st := if (o.1 = 1 || o.1 = 3) && c.lists.any (fun x => x.1 = key) then 6 else o.1
      s.finishNode ctx key st o.2 true
    else s.writeDone ctx key
  | _, _ => s

/-- FIRSTBLK and FIRSTCAUSE are those of the first block counted failed or killed, REASON that of the first counted failed (R34).
DESIGN CHOICE (log 125): the reason of the first. -/
def Node.refirst (n : Node) : Node :=
  { n with
    firstBlk := n.fails.head?.map fun x => x.1
    firstCause := (n.fails.head?.map fun x => x.2.1).getD 0
    reason := ((n.fails.map fun x => x.2.2).find? fun r => r != 0).getD 0 }
/-- Count the end of some blocks or bursts in a node (R34): the index is that of the first of them. -/
def Node.count_ (n : Node) (idx cnt : Nat) (e : Ending) : Node :=
  let note (n : Node) (cause reason : Nat) : Node :=
    if cnt = 0 then n else { n with fails := n.fails ++ [(idx, cause, reason)] }.refirst
  match e with
  | .done => { n with done := n.done + cnt }
  | .failed reason cause => note { n with fail := n.fail + cnt } cause reason
  | .killed => note { n with kill := n.kill + cnt } 0 0
  | .consumed _ _ => note { n with fail := n.fail + cnt } 0x13 0x08

/-! ## Readiness (R41-R43) -/

/-- The bytes of constant bank 1 (R42): poison moves with them (R333). DESIGN CHOICE (log 75): free values when ARGPTR does not translate. -/
def State.readArgs (s : State) (c : Ctx) (r : Record) : List Byte :=
  if s.mapped c r.dst r.argsize then s.loadVa c r.dst r.argsize
  else (List.range r.argsize).map fun i => (Config.freeWord s.free i).setWidth 8
/-- A node becomes ready: a join finishes at once, a copy goes to the copy engines, and a compute node has its arguments
copied and is offered to the placement unit. -/
def State.becomeReady (s : State) (ctx key : Nat) : State :=
  match s.ctx? ctx, s.node? ctx key with
  | some c, some n =>
    let s1 := { s with nextOrder := s.nextOrder + 1, free := s.free + 1 }.modNode ctx key fun n =>
      { n with state := .ready, readyAt := s.nextOrder, readyClk := s.now, nextClk := s.now, passed := false, progress := s.now }
    match n.record.kind with
    | 2 => s1.finishNode ctx key 2 0 true
    | 1 => s1.push (.copyBurst (.node ctx key))
    | _ =>
      let args := s.readArgs c n.record
      let s2 := s1.modNode ctx key fun n => { n with bank1 := args, bad1 := s.badBytes c n.record.dst n.record.argsize }
      let s3 := match c.attic.find? fun a => a.node = key with
        | some a => s2.atticWrite c a.slot 192 (args ++ List.replicate (4096 - args.length) 0)
        | none => s2
      s3.push .placementDecision
  | _, _ => s
/-- The test of a waiting node's count (R38, R39). -/
def State.testCount (s : State) (ctx key : Nat) : State :=
  match s.node? ctx key with
  | none => s
  | some n =>
    if n.state = .waiting && n.count = 0 then
      if n.failures != 0 then s.finishNode ctx key 4 0x06 true else s.becomeReady ctx key
    else s

/-! ## The take (R33) -/

/-- A record that fails a check of R33: its completion record is written, and the failure delivered. -/
def State.failTake (s : State) (ctx key : Nat) (reason : Nat) (deliver : Bool) : State :=
  match s.node? ctx key with
  | none => s
  | some n =>
    let s1 := (s.modNode ctx key fun n =>
      { n with final := 4, reason := reason, state := .finished, tend := (s.die n.die).clk }).writeDone ctx key
    let s2 := if deliver then s1.deliver ctx key n.record true true else s1
    s2.modCtx ctx fun c => { c with nodes := c.nodes.filter fun n => n.key != key }
/-- The reason a record fails steps 2 to 5 with, and for a record that passes the header and tag it binds and its
transform bindings. That a table which cannot be read has the reason 0x04 is a DESIGN CHOICE (log 155). -/
def State.takeCheck (s : State) (c : Ctx) (bs : List Byte) : Except Nat (Option (Header × Nat) × List (BitVec 128)) :=
  let r := Record.of bs
  if !recordFields bs then .error 0x01
  else if r.nodeid != 0 && (c.named r.nodeid).isSome then .error 0x02
  else if r.kind != 0 then .ok (none, [])
  else match c.object? r.src with
    | none => .error 0x03
    | some o =>
      match o.version o.current with
      | none => .error 0x03
      | some v =>
        if r.blocks % v.header.gang != 0 then .error 0x01
        else match s.readXforms c r with
          | none => .error 0x04
          | some xs => if xs.all (xfOk v.header.scratch) then .ok (some (v.header, o.current), xs) else .error 0x04
/-- The binding of a compute node (R22, R25, R43). -/
def Node.bind (n : Node) (stepping : Nat) (ilock : Bool) (h : Header) (tag : Nat) (xs : List (BitVec 128)) : Node :=
  { n with tag := tag, ilock := h.stepping != stepping || ilock, retained := n.record.retain || h.retain, xforms := xs }
/-- Take a record that passed step 1: the rest of R33, then R38. -/
def State.takeRecord (s : State) (ctx : Nat) (bs : List Byte) (queue : Option Nat) (wdcfg : DWord) (die : Nat) : State :=
  match s.ctx? ctx with
  | none => s
  | some c =>
    let r := Record.of bs
    let key := s.nextOrder
    let n := Node.make key r queue wdcfg die
    let add (n : Node) : State :=
      { s with nextOrder := key + 1 }.modCtx ctx fun c => { c with nodes := c.nodes ++ [n] }
    match s.takeCheck c bs with
    | .error 0x02 => (add n).failTake ctx key 0x02 false
    | .error why =>
      let s1 := (add n).modCtx ctx fun c => { c with credits := c.credits.filter fun x => x.nodeid != r.nodeid || r.nodeid = 0 }
      (s1.failTake ctx key why true).push (.delayedDelivery ctx)
    | .ok (obj, xs) =>
      let cr := if r.nodeid = 0 then none else c.credits.find? fun x => x.nodeid = r.nodeid
      let decs := (cr.map Credit.decs).getD 0
      let fails := (cr.map Credit.fails).getD 0
      let n1 := match obj with | some (h, tag) => n.bind s.stepping (c.ctxcfg.getLsbD 0) h tag xs | none => n
      let n2 := { n1 with count := r.preds - (decs + fails), failures := fails }
      let s1 := (add n2).modCtx ctx fun c =>
        { c with credits := c.credits.filter fun x => x.nodeid != r.nodeid || r.nodeid = 0 }
      let s2 := if n2.retained then
          let slot := c.freeAttic
          let s2 := s1.modCtx ctx fun c => { c with attic := c.attic ++ [⟨slot, key⟩] }
          s2.atticWrite c slot 0 (bs ++ (xs.flatMap fun x => bytesOf x.toNat 16) ++ bytesOf 0 (16 * (4 - xs.length))) |>.atticWrite
            c slot 4288 (bytesOf n2.tag 64)
        else s1
      let s3 := s2.writeDone ctx key
      let s4 := if cr.isSome then s3.push (.delayedDelivery ctx) else s3
      if decs + fails > r.preds then s4.finishNode ctx key 4 0x05 false else s4.testCount ctx key

/-- A queue of a context. -/
def Ctx.queue? (c : Ctx) (q : Nat) : Option LaunchQ := c.queues.find? fun x => x.id = q
/-- Change a queue of a context. -/
def State.modQueue (s : State) (ctx q : Nat) (f : LaunchQ → LaunchQ) : State :=
  s.modCtx ctx fun c => { c with queues := c.queues.map fun x => if x.id = q then f x else x }
/-- RECORD_TAKE (R29, R33, R40, R43): the record at HEAD of a queue is taken, unless the node table or, for a retained
record, the attic is full. HEAD is not written where the watched line does not translate (log 157), and die 0 takes the record, so that TSTART and
TEND are of its clock (log 158). DESIGN CHOICE. -/
def execRecordTake (ctx q : Nat) (s : State) : Out :=
  .next (match s.ctx? ctx with
    | none => s
    | some c =>
      match c.queue? q with
      | none => s
      | some x =>
        let va := x.base + x.head % 2 ^ x.log2 * 128
        let bs := if s.canRead c va 128 then s.loadVa c va 128 else []
        if c.state != .running || x.error || x.head = x.tail || c.tableFull then s
        else if c.judgedRetained (Record.of bs) && c.atticFull then s
        else
          let h := (x.head + 1) % 2 ^ 32
          let s1 := (s.modQueue ctx q fun x => { x with head := h }).storeNum c (x.watch + 8) h 4
          let s2 := if h != x.tail then s1.push (.recordTake ctx q) else s1
          if recordGood bs (x.head % 2 ^ 16) then s2.takeRecord ctx bs (some q) x.wdcfg 0
          else (s2.modQueue ctx q fun x => { x with bad := x.bad + 1 }).post ctx 0x02 0 (BitVec.ofNat 64 q)
            (BitVec.ofNat 64 x.head) 0)

/-! ## Deliveries -/

/-- The node a delivery goes to (R38): an entry of an overflow list is read now; one that cannot be read names no node, as 0
does. DESIGN CHOICE (log 78). -/
def State.destOf (s : State) (c : Ctx) (d : Delivery) : Nat :=
  match d.listed with
  | none => d.dest
  | some va => if s.canRead c va 4 then fieldAt (s.loadVa c va 4) 0 4 else 0
/-- A delivery to a node can be made now (R40). -/
def Ctx.deliverable (c : Ctx) (dest : Nat) : Bool :=
  dest = 0 || (c.named dest).isSome || (c.credits.any fun x => x.nodeid = dest) || c.credits.length < Config.creditEntries
/-- The first delivery that can be made and follows no other of its node. -/
def State.nextDelivery (s : State) (c : Ctx) : Option Delivery :=
  c.delayed.find? fun d => c.deliverable (s.destOf c d) && (c.delayed.find? fun e => e.from_ = d.from_) = some d
/-- Count a delivery in the credit table. -/
def Ctx.credit (c : Ctx) (d : Delivery) : Ctx :=
  let add (x : Credit) : Credit := if d.fail then { x with fails := x.fails + 1 } else { x with decs := x.decs + 1 }
  if c.credits.any fun x => x.nodeid = d.dest then
    { c with credits := c.credits.map fun x => if x.nodeid = d.dest then add x else x }
  else { c with credits := c.credits ++ [add ⟨d.dest, 0, 0⟩] }
/-- Make one delivery (R38, R39). -/
def State.makeDelivery (s : State) (c : Ctx) (d : Delivery) : State :=
  match c.named d.dest with
  | none => s.modCtx c.id fun c => c.credit d
  | some n =>
    if n.state = .waiting then
      (s.modNode c.id n.key fun n =>
        { n with count := n.count - 1, failures := n.failures + (if d.fail then 1 else 0) }).testCount c.id n.key
    else
      s.post c.id 0x0D n.record.nodeid (BitVec.ofNat 64 d.dest)
        (BitVec.ofNat 64 ((if d.fail then 2 ^ 63 else 0) + d.src)) n.die
/-- DELAYED_DELIVERY (R38-R40): the next delivery that the credit table has room for is made. -/
def execDelayedDelivery (ctx : Nat) (s : State) : Out :=
  .next (match s.ctx? ctx with
    | none => s
    | some c =>
      match s.nextDelivery c with
      | none => s
      | some d =>
        let s1 := s.modCtx ctx fun c => { c with delayed := c.delayed.erase d }
        let dest := s.destOf c d
        let s2 := if dest = 0 then s1 else s1.makeDelivery c { d with dest := dest }
        if c.delayed.length > 1 then s2.push (.delayedDelivery ctx) else s2)

/-! ## Priority (R41) -/

/-- Whole milliseconds a ready node has been ready, brought up to date. -/
def Node.age_ (n : Node) (now : Nat) : Node :=
  if n.state = .ready || n.state = .running then { n with aged := min 7 ((now - n.readyClk) / Config.cyclesPerMs) } else n
/-- The effective priority. -/
def Node.priority (n : Node) : Nat := min 7 (n.record.prio + n.aged)
/-- A node goes before another: higher effective priority, then order of becoming ready. -/
def Node.before (a b : Node) : Bool :=
  a.priority > b.priority || (a.priority = b.priority && a.readyAt ≤ b.readyAt)
/-- PRIORITY_AGING (R41): the node's effective priority rises by the full milliseconds it has been ready. -/
def execPriorityAging (ctx node : Nat) (s : State) : Out :=
  .next ((s.modNode ctx node fun n => n.age_ s.now).push .placementDecision)

/-! ## Copy nodes (R37) -/

/-- The ready copy node that goes first. -/
def State.bestCopy (s : State) : Option (Nat × Node) :=
  let ns := s.ctxs.flatMap fun c => if c.state = .running then
      (c.nodes.filter fun n => n.state = .ready && n.record.kind = 1).map fun n => (c.id, n.age_ s.now) else []
  ns.foldl (fun a x => match a with | none => some x | some y => some (if y.2.before x.2 then y else x)) none
/-- A copy node fails at its cursor (R37, R294): the bursts it has not performed are counted FAILED with reason COPY. -/
def State.failCopyNode (s : State) (ctx key : Nat) : State :=
  (s.modNode ctx key fun n => n.count_ n.copyPos (n.record.total - n.copyPos) (.failed 0x09 0x12)).checkFinish ctx key
/-- One burst of a running copy node. -/
def State.copyNodeBurst (s : State) (ctx key : Nat) : State :=
  match s.ctx? ctx, s.node? ctx key with
  | some c, some n =>
    let off := 256 * n.copyPos
    match s.burst c (.gen (n.record.src + off)) (.gen (n.record.dst + off))
      (s.copyBad c (.gen n.record.src) (.gen n.record.dst) n.record.blocks) with
    | .ok s1 =>
      (s1.modNode ctx key fun n =>
        { n.count_ n.copyPos 1 .done with copyPos := n.copyPos + 1, progress := s.now }).checkFinish ctx key
    | .demand va kind => (s.askFault c va kind n.record.nodeid n.die (.copyNode key)).2
    | .failed _ _ s1 => s1.failCopyNode ctx key
    | .fatal => s.push (.errorDetected (fatalOf ctx n.die))
    | .frozen va =>
      (s.modNode ctx key fun n => { n with frozen := true }).post ctx 0x06 n.record.nodeid (BitVec.ofNat 64 (2 ^ 60 + 2 ^ 32 + key))
        (BitVec.ofNat 64 va) n.die
  | _, _ => s
/-- The burst event of a copy node: a node that has not started lets the first ready copy node start. -/
def State.copyNodeStep (s : State) (ctx key : Nat) : State :=
  match s.ctx? ctx, s.node? ctx key with
  | some c, some n =>
    if c.state != .running || n.frozen || (c.faults.any fun f => f.owner = .copyNode key) then s
    else if n.state = .running then
      (s.copyNodeBurst ctx key).push (.copyBurst (.node ctx key))
    else if n.state = .ready then
      match s.bestCopy with
      | none => s
      | some (cx, m) =>
        let start (n : Node) : Node := { n with state := .running, tstart := some (s.die n.die).clk, progress := s.now }
        ((s.modNode cx m.key start).copyNodeBurst cx m.key).push (.copyBurst (.node ctx key))
    else s
  | _, _ => s
/-- COPY_BURST (R290, R293): one burst of a block's copy or of a copy node. -/
def execCopyBurst (r : CopyRef) (s : State) : Out :=
  .next (match r with
    | .block blk h => s.copyStep blk h
    | .node ctx key => s.copyNodeStep ctx key)

end Sys2Proof.Machine
end

