-- ==== Sys2Proof/Machine/Launch.lean ====
section
/-! DEFINITION. LAUNCH, opcode 0x0C (R171-R175). -/
namespace Sys2Proof.Machine

/-- The record address of a thread (R171): its pair, or the base of EXT and, without `.once`, its place. -/
def State.launchAddr (s : State) (f : Fields) (l : Nat) : Nat :=
  if f.isF128 then f.e 56 0 + (if f.b 0 then 0 else 128 * (128 * s.wp.idx + l))
  else (s.wp.pair f.va.toNat (if f.b 0 then Mask.low (s.en f) else l)).toNat
/-- Take one child (R172): its status. -/
def State.takeChild (s : State) (bs : List Byte) : State × Nat :=
  match s.ctx? s.blk.ctx with
  | none => (s, 0x02)
  | some c =>
    if c.tableFull then (s, 0x02)
    else if !recordGood bs 0 then (s, 0x01)
    else if c.judgedRetained (Record.of bs) && c.atticFull then (s, 0x04)
    else
      let wd := ((s.node? c.id s.blk.node).map fun (n : Node) => n.wdcfg).getD 0
      (s.takeRecord c.id bs none wd (dieOf s.blk.core), 0x00)
/-- Take the children in order; after the first that is not taken none is tried. -/
def State.takeChildren (s : State) (stop : Bool) : List (List Byte) → State × List Nat
  | [] => (s, [])
  | bs :: rest =>
    if stop then
      let (s1, sts) := s.takeChildren true rest
      (s1, 0x03 :: sts)
    else
      let (s1, st) := s.takeChild bs
      let (s2, sts) := s1.takeChildren (st != 0) rest
      (s2, st :: sts)
/-- The end of a LAUNCH in either copy (R173): the status register, or LAUNCH_FAIL with the ordinal and CODE of the first
child not taken, raised by the threads that issued it. -/
def State.launchEnd (s : State) (f : Fields) (m : Mask) (st : RegVal) : State :=
  if f.vd.toNat != 511 then s.writeReg f.vd.toNat m st
  else
    let ls := Mask.lanes m
    match (List.range ls.length).find? fun i => st.at (ls.getD i 0) != 0 with
    | none => s
    | some i => ({ s with iss := { s.iss with lanes := s.issuers } } : State).trapAt 0x19 (BitVec.ofNat 64 (i + (st.at (ls.getD i 0)).toNat % 256 * 2 ^ 16)) m s.nextPc
/-- One instance of LAUNCH whose threads passed their checks. -/
def State.launchAll (s : State) (f : Fields) (c : Ctx) (m : Mask) : State :=
  let once := f.b 0
  let list := if once then [Mask.low m] else Mask.lanes m
  let (s1, sts) := s.takeChildren false (list.map fun l => s.loadVa c (s.launchAddr f l) 128)
  let s2 := if sts.any (· = 0) then s1.setNonIdem.spoilRegion else s1
  let code (l : Nat) : Word := BitVec.ofNat 32 (if once then sts.headD 0 else sts.getD (list.idxOf l) 0)
  let st := statusVal m code
  (s2.forward (.values m [st])).launchEnd f m st
/-- LAUNCH (R172): a release at `.pod` comes before its record reads (R174); every record is checked and read before a child is taken; in
paired execution the leading copy performs it once, when the stores before it have been performed (R358). -/
def execLaunch (f : Fields) (s : State) : Out :=
  let en := s.en f
  .next (s.whenEnabled f fun s =>
    let x : Access := ⟨s.launchAddr f, 128, 128, true, false, true⟩
    let key := 0x0C :: f.mod.toNat :: (Mask.lanes en).map (s.launchAddr f)
    s.paired 4 key [] en (fun s => (s.release s.blk.core 4).access en (f.b 0) x fun s c m => s.launchAll f c m)
      fun s m vals =>
        let st := vals.headD (.u 0)
        (if (Mask.lanes m).any fun l => st.at l = 0 then s.spoilRegion else s).launchEnd f m st)

end Sys2Proof.Machine
end

