-- ==== Sys2Proof/Machine/Placement.lean ====
section
/-! DEFINITION. Placement (R50-R64, R67): what a block costs, healthy cores, the choice of cores for a block, a gang or a
pair, admission, and the placement decision; the events PLACEMENT_DECISION and BLOCK_STARVED. -/
namespace Sys2Proof.Machine

/-! ## Bytes of a code version (R21) -/

/-- Bytes of a version at an offset of its object: a page an update changed reads as the version holds it, any other as
memory holds it. -/
def State.versionBytes (s : State) (c : Ctx) (obj : Nat) (v : Version) (off n : Nat) : List Byte :=
  let bs := s.loadVa c (obj + off) n
  if v.pages.isEmpty then bs
  else (List.range n).map fun i =>
    match v.pages.find? fun p => p.1 = (off + i) / 4096 with
    | some p => p.2.getD ((off + i) % 4096) 0
    | none => bs.getD i 0
/-- The dictionary of image `i` of a version. -/
def State.imageDict (s : State) (c : Ctx) (obj : Nat) (v : Version) (i : Nat) : Dict :=
  match imageCheck (s.versionBytes c obj v (v.header.dicts.getD i 0) 6208) with
  | .ok d => d
  | .error _ => []

/-! ## Healthy cores (R50, R63) -/

/-- A healthy core: enabled and unfenced. -/
def Core.healthy (c : Core) : Bool := c.cond = .serving
/-- A core takes blocks: it is healthy, powered, and not in vigil (R341). -/
def State.takesBlocks (s : State) (core : Nat) : Bool :=
  core < s.cores.length && (s.core core).healthy && (s.core core).vigil = .none && (s.die (dieOf core)).powered
/-- The cores of a context's grant that are healthy. -/
def State.grantHealthy (s : State) (c : Ctx) : List Nat :=
  c.grant.filter fun k => k < s.cores.length && (s.core k).healthy

/-! ## What a block costs (R52-R54) -/

/-- The block has ended and holds only its scratch for its gang (R61). -/
def Block.isEnded (b : Block) : Bool := match b.state with | .ended _ => true | _ => false
/-- Warps of a header. -/
def Header.warpCount (h : Header) : Nat := sumBy Role.warps h.roles
/-- Scratch ranges reserved on a core. -/
def State.scratchRanges (s : State) (core : Nat) : List (Nat × Nat) :=
  (s.blocksNow.filter fun b => b.core = core).map fun b => (b.base, b.header.scratch)
/-- The lowest base at which a range of `n` bytes fits (R52). -/
def State.fitScratch (s : State) (core n : Nat) : Option Nat :=
  let rs := s.scratchRanges core
  let ok (b : Nat) : Bool := b + n ≤ Config.scratchBytes && rs.all fun r => r.2 = 0 || n = 0 || b + n ≤ r.1 || r.1 + r.2 ≤ b
  (0 :: rs.map fun r => r.1 + r.2).foldl (fun a b =>
    if ok b then (match a with | none => some b | some x => some (min x b)) else a) none
/-- The slot of a core's larder that holds an unmodified image for a context and version. -/
def State.heldImage (s : State) (core : Nat) (b : Block) (i : Nat) : Option Nat :=
  (List.range Config.larderSlots).find? fun k =>
    match s.larderSlot core k with
    | some x => x.ctx = b.ctx && x.obj = b.obj && x.tag = b.tag && x.image = some i && !x.modified
    | none => false
/-- What a dictionary number of a block is bound to: an image reference or modified contents (R85). -/
def Block.dictWants (b : Block) : List (Option (Option Nat × Dict)) :=
  if b.started then b.dicts
  else (List.range 4).map fun i => if i < b.header.dicts.length then some (some i, []) else none
/-- New larder slots a block needs on a core (R54). -/
def State.larderCost (s : State) (core : Nat) (b : Block) : Nat :=
  (b.dictWants.filter fun w => match w with
    | some (some i, _) => (s.heldImage core b i).isNone
    | some (none, _) => true
    | none => false).length
/-- Free larder slots of a core. -/
def State.larderFree (s : State) (core : Nat) : Nat :=
  ((List.range Config.larderSlots).filter fun k => (s.larderSlot core k).isNone).length
/-- Warps and operand slots reserved on a core. -/
def State.warpsReserved (s : State) (core : Nat) : Nat := sumBy (fun b => b.header.warpCount) (s.resident core)
def State.slotsReserved (s : State) (core : Nat) : Nat := sumBy (fun b => b.header.slots) (s.resident core)
/-- The core admits a block (R52). A block that has ended needs its scratch range alone; one that is restored needs its tiles,
which are restored with it (R67). -/
def State.admits (s : State) (core : Nat) (b : Block) : Bool :=
  (s.fitScratch core b.header.scratch).isSome &&
  (b.isEnded ||
    (s.warpsReserved core + b.header.warpCount ≤ Config.warpsPerCore &&
     s.rowsReserved core + b.header.rowCost ≤ Config.rowsPerCore &&
     max (max b.header.accMin b.held) b.tiles.length ≤ s.freeTiles core &&
     s.slotsReserved core + b.header.slots ≤ Config.slotsPerCore &&
     s.larderCost core b ≤ s.larderFree core))

/-! ## Choosing cores (R57, R59, R62) -/

/-- Rows of a core that are not free: reserved, or lent to warps above their reserve (R57). -/
def State.rowsUsed (s : State) (core : Nat) : Nat := min Config.rowsPerCore (s.rowsReserved core + s.rowsLent core)
/-- Insert a core into a list that rises by used rows, then by number. -/
def insertCore (x : Nat × Nat) : List (Nat × Nat) → List (Nat × Nat)
  | [] => [x]
  | y :: ys => if x.1 < y.1 || (x.1 = y.1 && x.2 < y.2) then x :: y :: ys else y :: insertCore x ys
/-- Cores with their used rows, most free rows first, ties to the lowest number. -/
def State.rankCores (s : State) (cs : List Nat) : List (Nat × Nat) :=
  cs.foldl (fun a c => insertCore (s.rowsUsed c, c) a) []
/-- Cores of a grant that take blocks and have room for a block. -/
def State.candidates (s : State) (c : Ctx) (b : Block) : List Nat := c.grant.filter fun k => s.takesBlocks k && s.admits k b
/-- The sublists of `n` elements, in order. -/
def pickN {α : Type} : Nat → List α → List (List α)
  | 0, _ => [[]]
  | _ + 1, [] => []
  | n + 1, x :: xs => (pickN n xs).map (x :: ·) ++ pickN (n + 1) xs
/-- Of two choices of cores with the rows they use, the one with more free rows, the first of equal ones. -/
def roomier (a : Option (Nat × List Nat)) (x : Nat × List Nat) : Option (Nat × List Nat) :=
  match a with
  | none => some x
  | some y => if x.1 < y.1 then some x else a
/-- The chosen cores of a quad for the members of a gang, each admitting its own, in ascending order, with the rows they use (R59). -/
def State.quadChoice (s : State) (c : Ctx) (bs : List Block) (quad : Nat) : Option (Nat × List Nat) :=
  let ks := (c.grant.filter fun k => quadOf k = quad && s.takesBlocks k).foldl (fun a k => insertNat k a) []
  let fits (cs : List Nat) : Bool := (List.zip bs cs).all fun x => s.admits x.2 x.1
  (((pickN bs.length ks).filter fits).map fun cs => (sumBy s.rowsUsed cs, cs)).foldl roomier none
/-- The cores for a gang (R59). -/
def State.gangCores (s : State) (c : Ctx) (bs : List Block) : Option (List Nat) :=
  let quads := (c.grant.map quadOf).foldl (fun a q => insertNat q a) []
  ((quads.filterMap (s.quadChoice c bs)).foldl roomier none).map Prod.snd
/-- The cores for the leading and the trailing copy of a pair, of which each admits one (R62). -/
def State.pairCores (s : State) (leads trails : List Nat) : Option (List Nat) :=
  match (s.rankCores leads).head? with
  | none => none
  | some (_, lead) =>
    let others := trails.filter fun k => quadOf k != quadOf lead
    let near := others.filter fun k => dieOf k = dieOf lead
    match (s.rankCores (if near.isEmpty then others else near)).head? with
    | none => none
    | some (_, trail) => some [lead, trail]
/-- The cores a unit takes, one for each of its blocks, or nothing when it fits nowhere now. -/
def State.findCores (s : State) (c : Ctx) (bs : List Block) : Option (List Nat) :=
  match bs with
  | [] => none
  | b :: rest =>
    if b.copy != .single then s.pairCores (s.candidates c b) (s.candidates c (rest.headD b))
    else if b.header.gang > 1 then s.gangCores c bs
    else (s.rankCores (s.candidates c b)).head?.map fun x => [x.2]
/-- The unit would fit some healthy cores of the grant, were every core empty (R55). -/
def State.couldFit (s : State) (c : Ctx) (h : Header) : Bool :=
  let cs := s.grantHealthy c
  h.rowCost ≤ Config.rowsPerCore && h.warpCount ≤ Config.warpsPerCore && h.scratch ≤ Config.scratchBytes &&
  h.accMin ≤ Config.tilesPerCore && h.slots ≤ Config.slotsPerCore &&
  (if h.paired then cs.any fun a => cs.any fun b => quadOf a != quadOf b
   else cs.any fun a => (cs.filter fun b => quadOf b = quadOf a).length ≥ h.gang)

/-! ## Blocks as they are placed -/

/-- Roles by %warp (R18): the role index of each warp. -/
def rolesFrom (k : Nat) : List Role → List (Nat × Role)
  | [] => []
  | r :: rs => List.replicate r.warps (k, r) ++ rolesFrom (k + 1) rs
/-- A new block of a node (R18, R42, R52). -/
def Node.block (n : Node) (ctx : Nat) (h : Header) (index : Nat) (copy : CopyRole) : Block :=
  let rs := rolesFrom 0 h.roles
  { Block.empty with
    ctx := ctx, node := n.key, index := index, copy := copy, obj := n.record.src, tag := n.tag, header := h
    ilock := n.ilock, age := n.key, state := .prologue
    warps := (List.range rs.length).map fun i =>
      let r := rs.getD i (0, ⟨0, 0, 0, 0⟩)
      Warp.start i r.1 r.2.vmax 0 h.depth (BitVec.ofNat 57 r.2.entry) fun _ => 0
    slots := List.replicate h.slots ⟨.free, false, 0⟩
    images := List.replicate h.slots none
    held := h.accMin
    tiles := List.replicate h.accMin TileCell.zero }
/-- The blocks of the unit whose lowest block is `first`. -/
def Node.unit (n : Node) (ctx : Nat) (h : Header) (first : Nat) : List Block :=
  if h.paired then [n.block ctx h first .leading, n.block ctx h first .trailing]
  else (List.range h.gang).map fun i => n.block ctx h (first + i) .single

/-- Warps on each pipe that have not ended (R56). -/
def State.pipeLoad (s : State) (core pipe : Nat) : Nat :=
  sumBy (fun b => (b.warps.filter fun w => w.pipe = pipe && w.live != 0).length) (s.resident core)
/-- The pipe for the next warp of a block: fewest resident warps, then fewest of the block with the same KIND, then the
lowest; one with 12 is never chosen. -/
def choosePipe (load : Nat → Nat) (same : Nat → Nat) : Nat :=
  let better (a b : Nat) : Bool := load a < load b || (load a = load b && same a < same b)
  ((List.range 4).filter fun p => load p < Config.warpsPerPipe).foldl (fun (a : Option Nat) p =>
    match a with | none => some p | some q => if better p q then some p else some q) none |>.getD 0
/-- Put warps on pipes in ascending order (R56). -/
def assignPipes (h : Header) (base : Nat → Nat) (placed : List Warp) : List Warp → List Warp
  | [] => placed
  | w :: ws =>
    let kind (x : Warp) : Nat := (h.roles.getD x.role ⟨0, 0, 0, 0⟩).kind
    if w.live = 0 then assignPipes h base (placed ++ [w]) ws
    else
      let mine := placed.filter fun x => x.live != 0
      let p := choosePipe (fun p => base p + (mine.filter fun x => x.pipe = p).length)
        fun p => (mine.filter fun x => x.pipe = p && kind x = kind w).length
      assignPipes h base (placed ++ [{ w with pipe := p }]) ws

/-- Give warps the lowest slots of a slot set that are not in use (R111). -/
def assignSlots (used : List Nat) : List Warp → List Warp
  | [] => []
  | w :: ws =>
    let k := ((List.range 48).find? fun i => !used.contains i).getD 0
    { w with slot := k } :: assignSlots (k :: used) ws
/-- Slots in use on a core. -/
def State.slotsUsed (s : State) (core : Nat) : List Nat := (s.resident core).flatMap fun b => b.warps.map Warp.slot
/-- The spilled registers of a block are placed in the slot set of its core (R111, R328). -/
def State.placeSpilled (s : State) (b : Block) : State :=
  b.warps.foldl (fun s w => (w.regs.filter fun p => p.2.spilled).foldl (fun s p => s.useCellar b w p.1 false) s) s

/-- The rows a restored warp takes for its registers, in ascending order: its reserve, then `pool` rows of the core's shared pool; a
register that finds none is spilled (R108, R109). DESIGN CHOICE (log 126). -/
def seatRows (vmax : Nat) : Nat → Nat → Tab Reg → Nat × Tab Reg
  | _, pool, [] => (pool, [])
  | held, pool, (i, r) :: rest =>
    if r.val.compact || r.spilled then
      let (p, t) := seatRows vmax held pool rest
      (p, (i, r) :: t)
    else if held < vmax then
      let (p, t) := seatRows vmax (held + 1) pool rest
      (p, (i, r) :: t)
    else
      let (p, t) := seatRows vmax (held + 1) (pool - 1) rest
      (p, (i, { r with spilled := pool = 0 }) :: t)
/-- The rows of restored warps. -/
def seatWarps : Nat → List Warp → List Warp
  | _, [] => []
  | pool, w :: ws =>
    let (p, t) := seatRows w.vmax 0 pool w.regs
    { w with regs := t } :: seatWarps p ws
/-- The warps of a restored block have made an acquire (R328). -/
def syncWarps (turn : Nat) (ws : List Warp) : List Warp := ws.map fun w => w.syncPod turn
/-- Bind one dictionary number of a block on a core (R54, R81, R85): the slot, and the state with it taken. -/
def State.bindDict (s : State) (c : Ctx) (core : Nat) (b : Block) (w : Option (Option Nat × Dict)) : Option Nat × State :=
  let take (image : Option Nat) (es : Dict) : Option Nat × State :=
    match s.freeLarder core with
    | none => (none, s)
    | some k => (some k, s.setLarder core k (some ⟨b.ctx, b.obj, b.tag, image, image.isNone, 1, es, false⟩))
  match w with
  | none => (none, s)
  | some (none, es) => take none es
  | some (some i, _) =>
    match s.heldImage core b i with
    | some k =>
      match s.larderSlot core k with
      | some x => (some k, s.setLarder core k (some { x with count := x.count + 1 }))
      | none => (none, s)
    | none => take (some i) (match s.version? c.id b.obj b.tag with | some v => s.imageDict c b.obj v i | none => [])
/-- Bind every number. -/
def State.bindDicts (s : State) (c : Ctx) (core : Nat) (b : Block) : List (Option (Option Nat × Dict)) → List (Option Nat) × State
  | [] => ([], s)
  | w :: ws =>
    let (k, s1) := s.bindDict c core b w
    let (ks, s2) := s1.bindDicts c core b ws
    (k :: ks, s2)
/-- A thread of a saved block whose shoot-down has completed meanwhile goes on (R237). -/
def Thread.shotMeanwhile (t : Thread) (pending : List Nat) : Thread :=
  match t.status with
  | .waiting (.shoot i len) => if pending.contains i then t else t.resume len
  | _ => t
/-- A restored block's work goes on (R288, R291, R329): its engine entries, parts and copies, the SBARs that completed while
it was saved, and the barriers its threads wait at. -/
def State.resumeWork (s : State) (b : Block) : State :=
  let s1 := s.modCore b.core fun k => { k with queue := k.queue ++ b.queued }
  let s2 := b.queued.foldl (fun s _ => s.push (.enginePerform b.core)) s1
  let s3 := b.parts.foldl (fun s _ => s.push (.mmagMemberPart b.id)) s2
  let running := (List.range 16).filter fun h => ((b.copies.getD h none).map fun (x : Copy) => x.isRunning).getD false
  let s4 := running.foldl (fun s h => s.push (.copyBurst (.block b.id h))) s3
  let s5 := b.sbars.foldl (fun s a => match a.result with
    | some st => s.deliverSbar b.id a.scope a.id st
    | none => s) s4
  let ids := s5.shootdowns.map Shootdown.id
  let s6 := s5.modWarps b.id fun w => w.mapThreads Mask.all fun _ t => t.shotMeanwhile ids
  (b.pbwaits.map PbWait.off).foldl (fun s o => s.wake b.id o) s6
/-- A restored block has taken its rows: while the core holds more rows than it has, one is won by a spill, or the last register of the block
itself stays spilled (R52, R109, R110). `fuel` bounds the spills. -/
def State.winRows (s : State) (core id : Nat) : Nat → State
  | 0 => s
  | fuel + 1 =>
    if s.rowsHeld core ≤ Config.rowsPerCore then s
    else
      let own := ((s.block? id).map fun b => b.warps.flatMap fun w =>
        (w.regs.filter fun p => !p.2.val.compact && !p.2.spilled).map fun p => (w.idx, p.1)).getD []
      match leastVictim (s.victims core []), own.getLast? with
      | some (_, b, w, r), _ => (s.spill b w r).winRows core id fuel
      | none, some (w, r) => (s.spill id w r).winRows core id fuel
      | none, none => s
/-- Admit a block to a core (R52): its resources are reserved. A saved block goes on as it was, after an acquire at `.pod` (R328); on a core
where a violation froze its context it halts (R352). -/
def State.admitBlock (s : State) (c : Ctx) (core : Nat) (b : Block) : State :=
  let base := (s.fitScratch core b.header.scratch).getD 0
  if b.isEnded then { s with blocks := s.blocks ++ [{ b with core := core, base := base }] }.push (.blockEnd b.id)
  else
    let (binds, s1) := s.bindDicts c core b b.dictWants
    let ws := assignSlots (s.slotsUsed core) (assignPipes b.header (s.pipeLoad core) [] b.warps)
    let pool := Config.rowsPerCore - (s.rowsReserved core + b.header.rowCost + s.rowsLent core)
    let b1 := { b with core := core, base := base, warps := syncWarps s.turn (seatWarps pool ws), fenced := s.turn, binds := binds, dicts := [], worked := none }
    let s2 := s1.modCore core fun k => { k with gated := false }
    if b.started then
      let frozen := s.frozenCtxs.contains (b.ctx, core) && b.state = .running
      let halted := frozen || b.state = .halted
      let b2 := { b1 with since := s.now, queued := if halted then b.queued else [], state := if frozen then .halted else b.state
                          haltCause := if frozen then 0 else b.haltCause }
      let s3 := ({ s2 with blocks := s2.blocks ++ [b2] }.placeSpilled b1).acquire core 4
      let s4 := s3.winRows core b.id (s3.rowsHeld core - Config.rowsPerCore)
      if halted then s4 else s4.resumeWork { b1 with queued := b.queued }
    else
      let id := s.nextBlock
      { s2 with blocks := s2.blocks ++ [{ b1 with id := id }], nextBlock := id + 1 }.push (.prologueFill id)

/-! ## The placement decision (R57, R58) -/

/-- The header a node runs: that of its bound version. -/
def Ctx.nodeHeader (c : Ctx) (n : Node) : Option Header :=
  ((c.object? n.record.src).bind fun o => o.version n.tag).map fun (v : Version) => v.header
/-- The saved blocks of a node that are to be placed again, by units. -/
def Ctx.savedUnit (c : Ctx) (n : Node) (h : Header) : Option (List Block) :=
  let bs := c.saved.filter fun b => b.node = n.key
  match bs with
  | [] => none
  | b :: _ =>
    let unit := bs.filter fun x => x.index / h.gang = b.index / h.gang
    let lead := unit.filter fun x => x.copy != .trailing
    let trail := unit.filter fun x => x.copy = .trailing
    some (lead ++ trail)
/-- A unit offered for placement: its context, its node, its blocks, and whether it is new, made again or saved. -/
inductive Offer where
  | saved
  | again (first : Nat)
  | fresh (first : Nat)
  deriving DecidableEq, Repr
/-- The next unit of a node (R57, R339, R67): saved blocks, units to be placed again, then blocks in ascending order. DESIGN
CHOICE (log 139): saved units come before those to be placed again. -/
def Ctx.nextUnit (c : Ctx) (n : Node) (h : Header) : Option (Offer × List Block) :=
  match c.savedUnit n h with
  | some bs => some (.saved, bs)
  | none =>
    match n.redo with
    | first :: _ => some (.again first, n.unit c.id h first)
    | [] => if n.next < n.record.blocks && !n.cancelled then some (.fresh n.next, n.unit c.id h n.next) else none
/-- Nodes of a context that are offered to the placement unit (R41); one that the watchdog stops is not (R327). -/
def Ctx.offered (c : Ctx) : List Node :=
  if c.state != .running then []
  else c.nodes.filter fun n => n.record.kind = 0 && (n.state = .ready || n.state = .running) && n.wdExpired.isNone
/-- A node has a block to be placed next. -/
def Ctx.hasNext (c : Ctx) (n : Node) : Bool :=
  (n.next < n.record.blocks && !n.cancelled) || !n.redo.isEmpty || c.saved.any fun b => b.node = n.key
/-- A starved block of another node of its context holds the node back (R58); a starved one is held back by a higher priority
alone. -/
def Ctx.heldBack (c : Ctx) (n : Node) : Bool :=
  c.offered.any fun x => x.starved && c.hasNext x && x.key != n.key &&
    (n.priority < x.priority || (n.priority = x.priority && !n.starved))
/-- The next block of a node starves (R58). -/
def Ctx.starves (c : Ctx) (n : Node) (now : Nat) : Bool :=
  n.passed && !n.starved && c.hasNext n && n.nextClk + Config.cyclesPerMs ≤ now && (n.state = .ready || n.state = .running)
/-- The order in which nodes are tried: effective priority; among equals, after the node of that priority placed last, by
order of becoming ready. -/
def State.goesFirst (s : State) (a b : Node) : Bool :=
  let wrapped (n : Node) : Bool := s.lastNode.any fun x => x.1 = n.priority && n.readyAt ≤ x.2
  a.priority > b.priority || (a.priority = b.priority &&
    (if wrapped a = wrapped b then a.readyAt < b.readyAt else wrapped b))
/-- Insert a node into the order of trying. -/
def State.insertNode (s : State) (x : Nat × Node) : List (Nat × Node) → List (Nat × Node)
  | [] => [x]
  | y :: ys => if s.goesFirst x.2 y.2 then x :: y :: ys else y :: s.insertNode x ys
/-- Every offered node with its context, in the order of trying. -/
def State.tryOrder (s : State) : List (Nat × Node) :=
  (s.ctxs.flatMap fun c => (c.offered.filter fun n => !c.heldBack n).map fun n => (c.id, n)).foldl
    (fun a x => s.insertNode x a) []
/-- A placement that can be made. -/
structure Placing where
  ctx   : Nat
  node  : Node
  offer : Offer
  blks  : List Block
  cores : List Nat
/-- The placement of a node's next unit, when it fits. -/
def State.placing (s : State) (x : Nat × Node) : Option Placing :=
  match s.ctx? x.1 with
  | none => none
  | some c =>
    match c.nodeHeader x.2 with
    | none => none
    | some h =>
      match c.nextUnit x.2 h with
      | none => none
      | some (o, bs) => (s.findCores c bs).map fun cores => ⟨x.1, x.2, o, bs, cores⟩
/-- Of the placements that can be made, the first; where another context competes for a core that was placed on for the
first one's context last, that context's placement (R57). -/
def State.alternate (s : State) (ps : List Placing) : Option Placing :=
  match ps with
  | [] => none
  | p :: rest =>
    let mine := p.cores.filter fun k => s.lastPlaced.any fun x => x.1 = k && x.2 = p.ctx
    match rest.find? fun q => q.ctx != p.ctx && q.cores.any fun k => mine.contains k with
    | some q => some q
    | none => some p
/-- The node that was placed for. -/
def Node.placed (n : Node) (o : Offer) (gang now : Nat) : Node :=
  let n1 := match o with
    | .saved => n
    | .again _ => { n with redo := n.redo.drop 1 }
    | .fresh _ => { n with next := n.next + gang }
  { n1 with nextClk := now, passed := false, starved := false }
/-- Make a placement. -/
def State.place (s : State) (p : Placing) : State :=
  match s.ctx? p.ctx with
  | none => s
  | some c =>
    let gang := ((p.blks.head?).map fun (b : Block) => b.header.gang).getD 1
    let s1 := (List.zip p.blks p.cores).foldl (fun s x => s.admitBlock c x.2 x.1) s
    let s2 : State := { s1 with
      ctxs := s1.ctxs.map fun c =>
        { c with
          saved := if c.id = p.ctx && p.offer = .saved then c.saved.filter fun b => !p.blks.any fun x => x.id = b.id else c.saved
          nodes := c.nodes.map fun n => if c.id = p.ctx && n.key = p.node.key then n.placed p.offer gang s.now
            else if c.hasNext n && (n.state = .ready || n.state = .running) then { n with passed := true } else n }
      lastNode := (s1.lastNode.filter fun x => x.1 != p.node.priority) ++ [(p.node.priority, p.node.readyAt)]
      lastPlaced := (s1.lastPlaced.filter fun x => !p.cores.contains x.1) ++ p.cores.map fun k => (k, p.ctx) }
    s2.push .placementDecision
/-- A node that can never be placed (R55): every unplaced block is counted FAILED with reason NO_FIT. -/
def State.noFit (s : State) (ctx : Nat) (n : Node) (h : Header) : State :=
  let left := n.record.blocks - n.next + h.gang * n.redo.length
  let first := n.redo.foldl min n.next
  if left = 0 then s
  else (s.modNode ctx n.key fun n =>
    { n with
      fail := n.fail + left, fails := (first, 0, 0x0E) :: n.fails
      next := n.record.blocks, redo := [], starved := false, passed := false, state := .running }.refirst).checkFinish ctx n.key
/-- The nodes that fail the test of R55, with their headers. -/
def State.unplaceable (s : State) : List (Nat × Node × Header) :=
  s.ctxs.flatMap fun c => c.offered.filterMap fun n =>
    match c.nodeHeader n with
    | some h => if (n.next < n.record.blocks || !n.redo.isEmpty) && !s.couldFit c h then some (c.id, n, h) else none
    | none => none
/-- PLACEMENT_DECISION (R55, R57): one decision; another follows while a unit can be placed. -/
def execPlacementDecision (s : State) : Out :=
  let s0 : State := { s with ctxs := s.ctxs.map fun c => { c with nodes := c.nodes.map fun n => n.age_ s.now } }
  let s1 := s0.unplaceable.foldl (fun s x => s.noFit x.1 x.2.1 x.2.2) s0
  .next (match s1.alternate (s1.tryOrder.filterMap s1.placing) with
    | none => s1
    | some p => s1.place p)
/-- BLOCK_STARVED (R58): the node's next block has been next for 1 ms while blocks of other nodes were placed. -/
def execBlockStarved (ctx node : Nat) (s : State) : Out :=
  .next (match s.ctx? ctx with
    | none => s
    | some c => s.modNode ctx node fun n => if c.starves n s.now then { n with starved := true } else n)

end Sys2Proof.Machine
end

