-- ==== Sys2Proof/Machine/Fetch.lean ====
section
/-! DEFINITION. Fetching an instruction of a block (R13, R68, R75 steps 1 and 2), and what a short form stands for (R80). -/
namespace Sys2Proof.Machine

/-- The virtual address of a code offset of a block (R13). -/
def Block.codeVa (b : Block) (pc : BitVec 57) : Nat := b.obj + 256 + pc.toNat
/-- The 32-byte fetch block an address lies in (R68). -/
def fetchBlock (va : Nat) : Nat := va / 32 * 32
/-- What a fetch gives. -/
inductive Fetched where
  /-- The word, zero-extended from its length. -/
  | word (w : BitVec 128) (len : Nat)
  /-- The read fails a check of R213. -/
  | fail (f : Fail)
  /-- The block is poisoned, SOURCE 5, or its node is lost, SOURCE 0 (R336, R364). -/
  | ue (src va : Nat)
  /-- The instruction crosses its fetch block. -/
  | crossing (w : BitVec 128) (len : Nat)
  deriving DecidableEq, Repr

/-- XLATE and PROTECTION of a fetch hold the address of the instruction's first byte (R75). -/
def Fail.atVa (f : Fail) (va : Nat) : Fail :=
  match f with
  | .trap cause kind _ => .trap cause kind va
  | g => g
/-- A word cut to its length. -/
def cutWord (w : BitVec 128) (len : Nat) : BitVec 128 := BitVec.ofNat 128 (w.toNat % 2 ^ (8 * len))
/-- The word at an address of a version's code, read as the bytes of its fetch block stand. -/
def State.codeWord (s : State) (c : Ctx) (b : Block) (pc : BitVec 57) : BitVec 128 :=
  match s.version? b.ctx b.obj b.tag with
  | none => 0
  | some v => wordOfBytes (s.versionBytes c b.obj v (256 + pc.toNat) (min 16 (32 - b.codeVa pc % 32)))
/-- Fetch the instruction of a block at a code offset (R68, R75). -/
def State.fetch (s : State) (c : Ctx) (b : Block) (pc : BitVec 57) : Fetched :=
  let va := b.codeVa pc
  match s.check c .fetch (fetchBlock va) 32 1 with
  | some f => .fail (f.atVa va)
  | none =>
    if (s.consumed c (fetchBlock va) 32).isSome then
      .ue (if (s.segs c (fetchBlock va) 32).any fun p => s.lostNodes.contains (nodeOf p.1) then 0 else 5) va
    else
      let w := s.codeWord c b pc
      let len := lengthOf w
      if va % 32 + len > 32 then .crossing (cutWord w (32 - va % 32)) len else .word (cutWord w len) len

/-- The D32 word of a payload and an index (R72). -/
def dxWord (h : BitVec 22) (i : BitVec 8) : Word := h ++ i ++ (0 : BitVec 2)
/-- What a short form of the issuing group stands for: the expansion, or a cause of R310 and the ILLEGAL subcode (R80). -/
def State.expand (s : State) (h : BitVec 22) (i : BitVec 8) : Except (Nat × Nat) (BitVec 128) :=
  if (Mask.lanes s.iss.lanes).any fun l => (s.wp.thread l).stale then .error (0x03, 0)
  else
    let e := Tab.get 0 (s.dict s.blk.active) i.toNat
    if !entryValid e then .error (0x02, 0)
    else match expandEntry e h with
      | none => .error (0x01, 0x5)
      | some x => .ok x
/-- The issue of a group for a word: a short form is shown by its expansion when one is formed (R76, R311). -/
def issueOf (lanes : Mask) (pc : BitVec 57) (w : BitVec 128) (len : Nat) : Issue :=
  { Issue.idle with lanes := lanes, pc := pc, len := len, word := w
                    d32 := if len = 4 && w != 0 then some (w.setWidth 32) else none }

/-- The word a waiting group is shown with in a trap record: the instruction as fetched, or the expansion of a short form. -/
def State.shownIssue (s : State) (c : Ctx) (lanes : Mask) (pc : BitVec 57) : Issue :=
  match s.fetch c s.blk pc with
  | .word w len =>
    let i := issueOf lanes pc w len
    match decodeWord w with
    | .ok (.dx h e) _ => (match { s with iss := i }.expand h e with
      | .ok x => { i with word := x, exp := true }
      | .error _ => i)
    | _ => i
  | .crossing w len => issueOf lanes pc w len
  | _ => issueOf lanes pc 0 0
/-- TRAPWORD of an instruction of some lanes of a warp of a block (R311). -/
def State.shownWord (s : State) (blk warp : Nat) (lanes : Mask) (pc : BitVec 57) : BitVec 128 :=
  let t := s.checkin.checkout blk warp { Issue.idle with lanes := lanes, pc := pc }
  match t.ctx? t.blk.ctx with
  | some c => (t.shownIssue c lanes pc).word
  | none => 0

/-! ## What an instruction touches -/

/-- The registers an instruction of the map reads or writes. -/
def touchesOf (i : Instr) : List Nat :=
  match i.isa with
  | some (op, f) => touchedRegs op f
  | none => []
/-- The instruction that a decoded one performs: that of its expansion for a short form. -/
def State.performed (s : State) (i : Instr) : Instr :=
  match i with
  | .dx h e => (match s.expand h e with
    | .ok x => (match decodeF x with
      | .ok j _ => j
      | .illegal _ _ => i)
    | .error _ => i)
  | _ => i
/-- The registers an instruction reads. -/
def readsOf (i : Instr) : List Nat :=
  match i.isa with
  | none => []
  | some (op, f) => match opSpec op f with
    | none => []
    | some k => k.va.regs f.va ++ (if immReplaces op f then [] else k.vb.regs f.vb) ++ k.vc.regs f.vc ++ scaleRegs op f
/-- The registers whose values an instruction reads: SHQ and SHASSERT read the shape alone, and SHFORCE.V changes no value (R115-R118). -/
def valuesOf (i : Instr) : List Nat :=
  match i.isa with
  | some (0x10, _) => []
  | some (0x11, _) => []
  | some (0x12, f) => if f.m 1 0 = 2 then [] else readsOf i
  | _ => readsOf i
/-- A thread is enabled for an instruction. -/
def State.enabled (s : State) (i : Instr) : Bool := (i.isa.map fun p => s.en p.2 != 0).getD false
/-- The registers an instruction writes, when a thread is enabled. -/
def State.writesOf (s : State) (i : Instr) : List Nat :=
  match i.isa with
  | none => []
  | some (op, f) => if s.en f = 0 then [] else writtenRegs op f
/-- The instruction the issuing group would issue at a PC, as it would be performed. -/
def State.nextInstr (s : State) (c : Ctx) (pc : BitVec 57) : Option Instr :=
  match s.fetch c s.blk pc with
  | .word w _ => match decodeWord w with
    | .ok i _ => some (s.performed i)
    | .illegal _ _ => none
  | _ => none

end Sys2Proof.Machine
end

