-- ==== Sys2Proof/Machine/Lifecycle.lean ====
section
/-! DEFINITION. The life of a block: the prologue engine (R44, R45), the start (R18, R185), the end (R36, R61, R154), the
relaunch decision (R339) and the end of a context; the events PROLOGUE_FILL, BLOCK_START and BLOCK_END. -/
namespace Sys2Proof.Machine

/-! ## Releasing what a block holds -/

/-- A block lets go of everything but its scratch range (R61). -/
def State.releaseParts (s : State) (id : Nat) : State :=
  match s.block? id with
  | none => s
  | some b =>
    let s1 := s.dropEngine id
    let s2 := b.binds.foldl (fun s k => match k with | some j => s.dropSlot b.core j | none => s) s1
    s2.modBlk id fun b => { b with binds := [none, none, none, none], tiles := [], queued := [], parts := [] }
/-- A core that drains for its vigil and holds no block begins its scan (R341). -/
def State.settleVigil (s : State) (core : Nat) : State :=
  match (s.core core).vigil with
  | .draining _ =>
    if s.blocksNow.any fun b => b.core = core then s
    else s.modCore core fun c => { c with vigil := .scanning s.now }
  | _ => s
/-- A block leaves the device: every resource is released, and waiting tile requests are looked at. -/
def State.releaseBlock (s : State) (id : Nat) : State :=
  match s.block? id with
  | none => s
  | some b =>
    let s1 := s.releaseParts id
    ({ s1 with blocks := s1.blocks.filter fun x => x.id != id }.tilesFreed b.core).settleVigil b.core
/-- A block that retired an instruction on its core, or had engine work performed there, ran on it until it last did (R342). -/
def State.noteRan (s : State) (b : Block) : State :=
  match b.worked with
  | some t => s.modNode b.ctx b.node fun n => { n with ranOn := n.ranOn ++ [(b.index, b.core, b.since, t)] }
  | none => s

/-! ## Transforms (R44) -/

/-- The source of a binding for a block, and its length in bytes. -/
def xfFrom (x : BitVec 128) (index : Nat) : Nat := xfSrc x + 256 * xfStride x * index
def xfLen (x : BitVec 128) : Nat :=
  let n := 256 * xfCount x
  match xfOp x with
  | 0x01 => 2 * n
  | 0x02 => n / 2
  | 0x03 => 2 * n
  | 0x10 => n / 8
  | _ => n
/-- What a read of the prologue engine gives: no failure, a page on demand, a failure with its FIRSTCAUSE, or a walk that
met an uncorrectable error. -/
inductive XfRead where
  | fine
  | demand (va : Nat)
  | failed (cause : Nat)
  | fatal
  deriving DecidableEq, Repr
/-- A source read is translated, protection-checked and guard-tag-checked as a copy is (R45). DESIGN CHOICE (log 55): memory of
a management queue counts as a protection failure, 0x0C. -/
def State.xfCheck (s : State) (c : Ctx) (va n : Nat) : XfRead :=
  match s.check c .load va n 1 with
  | some (.trap 0x0B _ _) => .failed 0x0B
  | some (.trap _ _ _) => .failed 0x0C
  | some (.demand a) => .demand a
  | some .fatal => .fatal
  | some (.violation _) => .failed 0x0C
  | none =>
    if (s.segs c va n).any fun p => s.lostNodes.contains (nodeOf p.1) then .failed 0x0B
    else if (s.consumed c va n).isSome ||
        ((s.segs c va n).any fun p => (List.range ((p.1 % 256 + p.2 + 255) / 256)).any fun i => s.tagBad (p.1 / 256 + i)) then .failed 0x12
    else .fine
/-- The first read of a list that does not succeed. -/
def State.xfChecks (s : State) (c : Ctx) (ps : List (Nat × Nat)) : XfRead :=
  ((ps.map fun p => s.xfCheck c p.1 p.2).find? fun r => r != .fine).getD .fine
/-- A source in bursts of 256 bytes, which are judged one after another (R290, R294). -/
def bursts (va n : Nat) : List (Nat × Nat) := (List.range ((n + 255) / 256)).map fun i => (va + 256 * i, min 256 (n - 256 * i))
/-- Values of one width converted to another, low element first (R179). -/
def convertAll (src dst : CvType) (sat : Bool) (bs : List Byte) : List Byte :=
  let w := src.width / 8
  (List.range (bs.length / w)).flatMap fun i =>
    bytesOf (convert src dst 0 0 sat (fieldAt bs (w * i) w)).1 (dst.width / 8)
/-- The LQ2 indices of a source: where each lies, the row of its window, and its scale's address. -/
def State.lqIndex (s : State) (c : Ctx) (w : FmtWin) (va : Nat) : LqRow × Nat :=
  let q := s.lqRowAt c w 1 va
  (q, q.sc + lqBlock (s.loadVa c q.bm q.len) q.i0)
/-- The window of an LQ2 binding, when the context owns it. -/
def State.xfWindow (s : State) (c : Ctx) (x : BitVec 128) : Option FmtWin :=
  (s.winOf c (xfWin x)).bind fun w => if w.fmt = 11 then some w else none
/-- The 16 bytes an LQ2 index becomes: eight BF16 values, free where its address lies outside the window. -/
def State.lqBytes (s : State) (c : Ctx) (w : FmtWin) (va k : Nat) : List Byte :=
  let idx := ofBytes (s.loadVa c va 2)
  let (_, sc) := s.lqIndex c w va
  let cb := ofBytes (s.loadVa c (bits w.codebook.toNat 0 57 + 4 * bits idx 8 8) 4)
  let covered := match s.xlat c va with | .ok l => w.covers l.pa | _ => false
  let scale := ofBytes (s.loadVa c sc 1)
  (List.range 8).flatMap fun j =>
    if covered then bytesOf (lq2Scaled idx cb scale j).1 2
    else bytesOf (Config.freeWord s.free (8 * k + j)).toNat 2
/-- The bytes a binding writes for a block, or the read that does not succeed (R44, R45). An LQ2 binding fails by its own bytes first, then by
its window, its bitmap, and its scales and codebook. DESIGN CHOICE (log 156). -/
def State.xfBytes (s : State) (c : Ctx) (x : BitVec 128) (index : Nat) : XfRead × List Byte :=
  let va := xfFrom x index
  let n := xfLen x
  match s.xfChecks c (bursts va n) with
  | .fine =>
    let bs := s.loadVa c va n
    match xfOp x with
    | 0x01 => (.fine, convertAll (cvType 0) (cvType 2) false bs)
    | 0x02 => (.fine, convertAll (cvType 2) (cvType 0) false bs)
    | 0x03 => (.fine, convertAll (cvType 2) (cvType 3) true bs)
    | 0x10 =>
      match s.xfWindow c x with
      | none => (.failed 0x0C, [])
      | some w =>
        let ks := List.range (n / 2)
        let rows := ks.map fun k => (s.lqIndex c w (va + 2 * k)).1
        match s.xfChecks c (rows.map fun q => (q.bm, q.len)) with
        | .fine =>
          let idx (k : Nat) : Nat := fieldAt bs (2 * k) 2
          let tabs := ks.flatMap fun k =>
            [((s.lqIndex c w (va + 2 * k)).2, 1), (bits w.codebook.toNat 0 57 + 4 * bits (idx k) 8 8, 4)]
          (match s.xfChecks c tabs with
            | .fine => (.fine, ks.flatMap fun k => s.lqBytes c w (va + 2 * k) k)
            | r => (r, []))
        | r => (r, [])
    | _ => (.fine, bs)
  | r => (r, [])

/-! ## The prologue (R45) -/

/-- Perform bindings in order for the copies of a block. -/
def State.fillBindings (s : State) (c : Ctx) (ids : List Nat) (index : Nat) : List (BitVec 128) → XfRead × State
  | [] => (.fine, s)
  | x :: xs =>
    match s.xfBytes c x index with
    | (.fine, bs) =>
      let s1 : State := { s with free := s.free + 1 }
      (ids.foldl (fun s i => s.modBlk i fun b => b.writeScr (256 * xfOffset x) bs) s1).fillBindings c ids index xs
    | (r, _) => (r, s)
/-- The blocks of a unit leave unstarted. -/
def State.dropUnit (s : State) (b : Block) : State := (s.unitOf b).foldl (fun s i => s.releaseBlock i) s
/-- Every block of a unit has its scratch filled. -/
def State.unitFilled (s : State) (b : Block) : Bool :=
  (s.unitOf b).all fun i => ((s.block? i).map fun (x : Block) => decide (x.state = .filled)).getD false
/-- Blocks of a unit as its node counts them: a pair is one block. -/
def Block.unitSize (b : Block) : Nat := b.header.gang
def Block.unitFirst (b : Block) : Nat := b.index / b.header.gang * b.header.gang
/-- The failures that the prologues of a unit's members give, `b` failing with a cause: each member's index and cause. DEDUCED (log
82): a member whose own prologue has still to be performed is judged as it would be now. -/
def State.failures (s : State) (b : Block) (cause : Nat) : List (Nat × Nat) :=
  (b.index, cause) :: match s.ctx? b.ctx, s.node? b.ctx b.node with
    | some c, some n => (s.unitOf b).filterMap fun i => (s.block? i).bind fun x =>
        if x.state != .prologue || x.index = b.index then none
        else match (s.fillBindings c [] x.index n.xforms).1 with
          | .failed k => some (x.index, k)
          | _ => none
    | _, _ => []
/-- The transfer of a unit fails (R45): its blocks are counted FAILED with reason XFORM, FIRSTBLK the lowest failing index. -/
def State.failPrologue (s : State) (b : Block) (cause : Nat) : State :=
  let low := (s.failures b cause).foldl (fun a x => if x.1 < a.1 then x else a) (b.index, cause)
  let s1 := (s.dropUnit b).modNode b.ctx b.node fun n =>
    { n.count_ low.1 b.unitSize (.failed 0x07 low.2) with state := .running }
  (s1.checkFinish b.ctx b.node).push .placementDecision
/-- PROLOGUE_FILL (R45): the bindings of a block are performed; when every member of its gang is filled they start, and a
failure fails them all. -/
def execPrologueFill (blk : Nat) (s : State) : Out :=
  .next (match s.block? blk with
    | none => s
    | some b =>
      match s.ctx? b.ctx, s.node? b.ctx b.node with
      | some c, some n =>
        if b.state != .prologue || c.state != .running then s
        else
          let ids := s.copiesOf blk
          match s.fillBindings c ids b.index n.xforms with
          | (.fine, s1) =>
            let s2 := ids.foldl (fun s i => s.modBlk i fun b => { b with state := .filled }) s1
            if s2.unitFilled b then (s2.unitOf b).foldl (fun s i => s.push (.blockStart i)) s2 else s2
          | (.demand va, _) => (s.askFault c va 0 n.record.nodeid (dieOf b.core) (.prologue blk)).2
          | (.failed cause, _) => s.failPrologue b cause
          | (.fatal, _) => s.push (.errorDetected (fatalOf c.id b.core))
      | _, _ => s)

/-! ## The start (R18, R185) -/

/-- Seed the stochastic states of a warp. -/
def Warp.seed (w : Warp) (seed : Word) (block : Nat) : Warp :=
  w.mapThreads Mask.all fun l t => { t with sr := srSeed seed block w.idx l }
/-- The copies of a block are seeded when the first of them starts, so that both hold the same seeds (R185). -/
def State.seedCopies (s : State) (blk : Nat) (seed : Word) : State :=
  let ids := s.copiesOf blk
  if ids.any fun i => ((s.block? i).map fun (x : Block) => x.started).getD false then s
  else ids.foldl (fun s i => s.modBlk i fun b => { b with warps := b.warps.map fun w => w.seed seed b.index }) s
/-- BLOCK_START (R18): the warps of a filled block start, as after an acquire at `.pod` (R174); on a core
where a violation froze its context the block halts (R352). -/
def execBlockStart (blk : Nat) (s : State) : Out :=
  .next (match s.block? blk with
    | none => s
    | some b =>
      match s.ctx? b.ctx with
      | none => s
      | some c =>
        if b.state != .filled || c.state != .running then s
        else
          let s1 := (s.seedCopies blk c.srseed).modBlk blk fun b =>
            { b with
                     warps := b.warps.map fun w => w.syncPod s.turn, fenced := s.turn
                     state := if s.frozenCtxs.contains (b.ctx, b.core) then .halted else .running
                     started := true, inject := true, since := s.now }
          ((b.parts.foldl (fun s _ => s.push (.mmagMemberPart blk)) s1).acquire b.core 4).modNode c.id b.node fun n =>
            { n with state := .running, progress := if n.state = .running then n.progress else s.now
                     tstart := some (n.tstart.getD (s.die n.die).clk) })

/-! ## The end (R36, R61, R154, R339) -/

/-- Every asynchronous operation a block started has completed (R154). -/
def State.quiet (s : State) (b : Block) : Bool :=
  (s.entriesOf b.id).isEmpty &&
  b.copies.all (fun x => match x with | some y => !y.isRunning | none => true) &&
  b.colls.all fun x => match x with | some h => h.status.isSome | none => true
/-- A handle holds an unreported failure (R291). -/
def Block.copyFailed (b : Block) : Bool :=
  b.copies.any fun x => match x with | some y => y.status != .ok && y.status != .running | none => false
/-- The blocks counted together: both copies of a pair (R36, R62). -/
def State.endedCopies (s : State) (b : Block) : Option Ending :=
  (s.copiesOf b.id).foldl (fun (a : Option Ending) i =>
    match a, s.block? i with
    | some e, some x => (match x.state with
      | .ended .done => some e
      | .ended y => some y
      | _ => none)
    | _, _ => none) (some .done)
/-- Count a block that has ended, and release what it holds; its scratch stays until its gang has ended (R61). -/
def State.countBlock (s : State) (b : Block) (e : Ending) : State :=
  let ids := s.copiesOf b.id
  let s1 := ids.foldl (fun s i => match s.block? i with | some x => (s.noteRan x).sendCsrs b.ctx i fun _ => true | none => s) s
  let s2 := ids.foldl (fun s i => (s.releaseParts i).modBlk i fun x => { x with counted := some e }) s1
  let s3 := s2.tilesFreed b.core
  let s4 := s3.modNode b.ctx b.node fun n => n.count_ b.index 1 e
  let unit := s4.unitOf b
  let allOver := unit.all fun i => ((s4.block? i).map fun (x : Block) => x.counted.isSome).getD true
  let s5 := if allOver then unit.foldl (fun s i => s.releaseBlock i) s4 else s4
  (s5.checkFinish b.ctx b.node).push .placementDecision
/-- Take back how a member of a unit that is run again was counted. -/
def Node.uncount (n : Node) (idx : Nat) (e : Ending) : Node :=
  let n1 := match e with
    | .done => { n with done := n.done - 1 }
    | .killed => { n with kill := n.kill - 1 }
    | _ => { n with fail := n.fail - 1 }
  { n1 with fails := n1.fails.eraseP fun x => x.1 = idx }.refirst
/-- The unit that starts at a block is to be placed again, and is the node's next from now on (R58). -/
def Node.again (n : Node) (first now : Nat) : Node := { n with redo := insertNat first n.redo, nextClk := now, passed := false }
/-- Relaunches of the unit that starts at a block. -/
def Node.relaunches (n : Node) (first : Nat) : Nat := ((n.relaunched.find? fun x => x.1 = first).map (·.2)).getD 0
/-- A relaunch of a unit: it goes ahead of the unstarted blocks (R339). -/
def Node.relaunch (n : Node) (first now : Nat) : Node :=
  { n.again first now with
    rel := n.rel + 1
    relaunched := (n.relaunched.filter fun x => x.1 != first) ++ [(first, n.relaunches first + 1)] }
/-- The outcome of a killed unit that is not relaunched (R339). -/
def Node.killOutcome (n : Node) (nonIdem : Bool) (first : Nat) : Option Ending :=
  if n.cancelled || n.ctxKilled then some .killed
  else if !n.retained then some (.failed 0x08 0x13)
  else if nonIdem then some (.failed 0x0A 0x13)
  else if n.relaunches first ≥ 2 then some (.failed 0x0B 0x13)
  else none
/-- The decision of R339 for a unit that consumed an uncorrectable error. -/
def State.decideUnit (s : State) (b : Block) (addr : DWord) (core : Nat) : State :=
  match s.node? b.ctx b.node with
  | none => s.dropUnit b
  | some n =>
    let unit := (s.unitOf b).filterMap s.block?
    let first := b.unitFirst
    let nonIdem := unit.any fun x => x.nonIdem
    let s1 := unit.foldl (fun s x => match x.counted with
      | some e => s.modNode b.ctx b.node fun n => n.uncount x.index e
      | none => s.noteRan x) s
    let s2 := s1.dropUnit b
    match n.killOutcome nonIdem first with
    | some e =>
      let lost := e = .failed 0x0A 0x13
      let s3 := s2.modNode b.ctx b.node fun n => { n.count_ first b.unitSize e with nonIdem := n.nonIdem || lost }
      (s3.checkFinish b.ctx b.node).push .placementDecision
    | none =>
      let s3 := s2.modNode b.ctx b.node fun n => n.relaunch first s.now
      let s4 := s3.writeDone b.ctx b.node
      (s4.post b.ctx 0x07 n.record.nodeid addr
        (BitVec.ofNat 64 (core * 2 ^ 48 + (n.rel + 1) % 256 * 2 ^ 40 + 0x13 * 2 ^ 32 + first)) (dieOf core)).push .placementDecision
/-- The PC of a warp that ended: that of its last EXIT. -/
def Warp.exitPc (w : Warp) : BitVec 57 := (w.thread 0).pc
/-- A lost store that no later instruction reported is consumed before the block ends (R364), by the EXIT of the warp. TRAPMASK holds
the threads that stand at that EXIT. DESIGN CHOICE (log 167). -/
def State.reportLost (s : State) (b : Block) (warp addr : Nat) : State :=
  let a := ueAddr 0 b.partner addr
  let w := (b.warp? warp).getD Warp.empty
  let pc := w.exitPc
  let m := w.threads.mask fun t => t.pc = pc
  (s.modWarp b.id warp fun w => { w with trap := ⟨0x13, pc, s.shownWord b.id warp m pc, a, m⟩, entryMask := m }).killUnit b.id a 0 addr
/-- BLOCK_END (R154): a block whose warps have ended and whose operations have completed ends; a block that has ended is
counted, and a killed unit is decided on (R339). -/
def execBlockEnd (blk : Nat) (s : State) : Out :=
  .next (match s.block? blk with
    | none => s
    | some b =>
      match b.state with
      | .running =>
        if !(b.warps.all fun w => w.live = 0) || !s.quiet b then s
        else match b.lost with
          | some (w, a) => s.reportLost b w a
          | none => s.endBlock blk (if b.copyFailed then .failed 0x09 0x12 else .done) false
      | .ended (.consumed addr core) => s.decideUnit b addr core
      | .ended _ =>
        if b.counted.isSome then s
        else match s.endedCopies b with
          | some e => s.countBlock b e
          | none => s
      | _ => s)

/-! ## The end of a context -/

/-- The lowest block or burst of a node that has not ended. -/
def State.lowestOpen (s : State) (ctx : Nat) (n : Node) : Nat :=
  if n.record.kind != 0 then n.copyPos
  else
    let saved := ((s.ctx? ctx).map Ctx.saved).getD []
    let open_ := ((s.blocksNow ++ saved).filter fun b => b.ctx = ctx && b.node = n.key && b.counted.isNone).map Block.index
    (open_ ++ n.redo).foldl min n.next
/-- A node finishes KILLED with its context (R327, R333): what has not ended is counted killed, `first` the lowest of it. -/
def State.killNode (s : State) (ctx key first cause : Nat) : State :=
  match s.node? ctx key with
  | none => s
  | some n =>
    if !n.live then s
    else
      let left := n.record.total - (n.done + n.fail + n.kill)
      let s1 := s.modNode ctx key fun n =>
        let n1 := n.count_ first left .killed
        { n1 with ctxKilled := true, redo := [], firstCause := if cause != 0 then cause else n1.firstCause }
      s1.finishNode ctx key 5 0x0D true
/-- A context is killed (R327, R333): its blocks leave the device, and each of its live nodes finishes KILLED with reason
CTX_KILLED; a node the watchdog acted on records its cause. -/
def State.killContext (s : State) (ctx : Nat) (watched : Option Nat) : State :=
  match s.ctx? ctx with
  | none => s
  | some c =>
    let bs := s.blocksNow.filter fun b => b.ctx = ctx
    let start := s
    let s1 := bs.foldl (fun s b => s.noteRan b) s
    let s2 := bs.foldl (fun s b => s.modBlk b.id fun b => b.stopCopies) s1
    let s3 := bs.foldl (fun s b => s.releaseBlock b.id) s2
    let s4 := s3.modCtx ctx fun c => { c with state := .killed, saved := [], faults := [] }
    let s5 := c.nodes.foldl (fun s n => s.killNode ctx n.key (start.lowestOpen ctx n) (if watched = some n.key then 0x15 else 0)) s4
    if s5.blk.ctx = ctx && s5.blk.id != 0 then { s5 with blk := Block.empty, wp := Warp.empty } else s5

end Sys2Proof.Machine
end

