-- ==== Sys2Proof/Machine/Control.lean ====
section
/-! DEFINITION. The control instructions, opcodes 0x01-0x0A (R148-R159), but for EXIT, YIELD and LAUNCH. -/
namespace Sys2Proof.Machine

/-- NOP (R151). -/
def execNop (_f : Fields) (s : State) : Out := .next s.advance
/-- The fill word executes as NOP and advances the PC by its length, 4 (R72). -/
def execFillWord (s : State) : Out := .next s.advance

/-- A target a transfer may not take (R148). -/
def State.badTarget (s : State) (t : BitVec 57) : Bool := t.toNat % 4 != 0 || t.toNat ≥ s.blk.header.codeSize
/-- Enabled lanes whose target is bad. -/
def State.badLanes (s : State) (en : Mask) (tgt : Nat → BitVec 57) : Mask :=
  maskOf fun l => Mask.has en l && s.badTarget (tgt l)
/-- Enabled threads take their targets; the others fall through (R152). -/
def State.jump (s : State) (en : Mask) (tgt : Nat → BitVec 57) : State :=
  { s with wp := s.wp.mapThreads s.iss.lanes fun l t =>
    { t with pc := if Mask.has en l then tgt l else s.iss.pc + BitVec.ofNat 57 s.iss.len } }
/-- Check every target (R148), then do `k`. -/
def State.checkTargets (s : State) (en : Mask) (tgt : Nat → BitVec 57) (k : State → State) : State :=
  let bad := s.badLanes en tgt
  if bad != 0 then s.illegal 0x8 bad else k s
/-- The target of BRA and CALL: the PC of the branch plus a signed offset. -/
def State.branchTo (s : State) (f : Fields) (l : Nat) : BitVec 57 := s.iss.pc + ((s.rvB f).at l).signExtend 57
/-- The target of BRX and CALLX. -/
def State.targetA (s : State) (f : Fields) (l : Nat) : BitVec 57 := ((s.rvA f).at l).setWidth 57
/-- The return address (R24, R153). -/
def State.returnAddr (s : State) : DWord :=
  BitVec.ofNat 64 (s.blk.tag % 16 * 2 ^ 60) ||| s.nextPc.setWidth 64

/-- BRA (R152). -/
def execBra (f : Fields) (s : State) : Out :=
  let en := s.en f
  .next (s.checkTargets en (s.branchTo f) fun s => s.jump en (s.branchTo f))
/-- BRX (R152). -/
def execBrx (f : Fields) (s : State) : Out :=
  let en := s.en f
  .next (s.checkTargets en (s.targetA f) fun s => s.jump en (s.targetA f))
/-- CALL and CALLX: the return address into VD, then the transfer (R153). -/
def State.callTo (s : State) (f : Fields) (tgt : Nat → BitVec 57) : State :=
  let en := s.en f
  s.checkTargets en tgt fun s =>
    let ra := halvesU s.returnAddr
    (s.writePair f.vd.toNat en ra.1 ra.2).jump en tgt
/-- CALL (R153). -/
def execCall (f : Fields) (s : State) : Out := .next (s.callTo f (s.branchTo f))
/-- CALLX (R153). -/
def execCallx (f : Fields) (s : State) : Out := .next (s.callTo f (s.targetA f))
/-- RET (R153, R24). -/
def execRet (f : Fields) (s : State) : Out :=
  let en := s.en f
  let x (l : Nat) : DWord := s.wp.pair f.va.toNat l
  let wrong := maskOf fun l => Mask.has en l &&
    (bits (x l).toNat 60 4 != s.blk.tag % 16 || bits (x l).toNat 57 3 != 0)
  .next (
    if wrong != 0 then s.illegal 0x7 wrong
    else s.checkTargets en (fun l => (x l).setWidth 57) fun s => s.jump en fun l => (x l).setWidth 57)

/-- The number of a reconvergence entry is checked first (R156); an instruction that enables no thread only goes on (R69). -/
def State.entry (s : State) (f : Fields) (k : Nat) (go : State → State) : State :=
  if s.en f = 0 then s.advance
  else if k ≥ s.blk.header.depth then s.trap 0x18 (BitVec.ofNat 64 (k % 32)) s.iss.lanes else go s
/-- Replace an expected set. -/
def State.setExpect (s : State) (k : Nat) (m : Mask) : State :=
  { s with wp := { s.wp with rcv := s.wp.rcv.set k m } }
/-- The release test of R158 at an entry of the issuing warp. -/
def State.releaseAt (s : State) (k : Nat) : State := { s with wp := s.wp.release k }

/-- RCVARM (R157). -/
def execRcvarm (f : Fields) (s : State) : Out :=
  let k := f.m 4 0
  let en := s.en f
  .next (s.entry f k fun s =>
    ((s.setExpect k (en ||| (if f.b 5 then s.wp.rcv.getD k 0 else s.wp.waitingAt k))).advance).releaseAt k)
/-- RCVWAIT (R158). -/
def execRcvwait (f : Fields) (s : State) : Out :=
  let k := f.m 4 0
  let wait := s.en f &&& s.wp.rcv.getD k 0
  .next (s.entry f k fun s =>
    ((s.advanceLanes (s.iss.lanes &&& ~~~wait)).setStatus wait (.waiting (.rcv k s.iss.len))).releaseAt k)
/-- RCVDROP (R159). -/
def execRcvdrop (f : Fields) (s : State) : Out :=
  let k := f.m 4 0
  let en := s.en f
  .next (s.entry f k fun s =>
    ((s.setExpect k (s.wp.rcv.getD k 0 &&& ~~~en)).advance).releaseAt k)

end Sys2Proof.Machine
end

