-- ==== Sys2Proof/Machine/System.lean ====
section
/-! DEFINITION. The system class, opcodes 0xF0-0xF7: TRAP, TRET, the control registers of R320, SYSQ, REGION, BRK and PCMP
(R314, R318-R325, R350). -/
namespace Sys2Proof.Machine

/-! ## Traps and returns -/

/-- TRAP (R324). -/
def execTrap (f : Fields) (s : State) : Out :=
  .next (s.whenEnabled f fun s =>
    let en := s.en f
    s.trapAt 0x16 (((s.rvB f).at (Mask.low en)).setWidth 64) en s.nextPc)
/-- BRK (R318). -/
def execBrk (f : Fields) (s : State) : Out :=
  .next (s.whenEnabled f fun s => s.trapAt 0x17 (BitVec.ofNat 64 (0xF + f.mod.toNat * 2 ^ 8)) (s.en f) s.nextPc)
/-- TRET (R314): a group with no handler thread is ILLEGAL; the count of a restart point a mismatch used is reset (R349). -/
def execTret (f : Fields) (s : State) : Out :=
  let en := s.en f
  let tgt (l : Nat) : BitVec 57 := ((s.rvA f).at l).setWidth 57
  let back (s : State) : State :=
    if en = 0 then s.advance
    else
      let s1 := (s.advanceLanes (s.iss.lanes &&& ~~~en)).spoilRegion
      let s2 := if s1.wp.trap.cause = 0x14 then { s1 with blk := s1.blk.setUsed s1.wp.idx 0 } else s1
      { s2 with wp := s2.wp.trapReturn en fun l => if f.b 0 then some (tgt l) else none }
  .next (
    if s.wp.handlers &&& s.iss.lanes = 0 then s.illegal 0x8 s.iss.lanes
    else if f.b 0 then s.checkTargets (en &&& s.wp.handlers) tgt back
    else back s)

/-! ## Control and status registers (R320) -/

/-- TSTAT (R320). -/
def Warp.tstat (w : Warp) : DWord :=
  BitVec.ofNat 64 ((if w.trapQueue.isEmpty then 0 else 4) + (if w.handlers != 0 then 2 else 0) + (if w.rvalid then 1 else 0))
/-- A warp register by number. -/
def Warp.csr (w : Warp) (n : Nat) : DWord :=
  match n with
  | 0x000 => w.trap.cause.setWidth 64
  | 0x001 => w.trap.pc.setWidth 64
  | 0x002 => w.trap.word.setWidth 64
  | 0x003 => (w.trap.word >>> 64).setWidth 64
  | 0x004 => w.trap.addr
  | 0x005 => w.trap.mask.setWidth 64
  | 0x006 => (w.trap.mask >>> 64).setWidth 64
  | 0x007 => w.trapBase
  | 0x008 => w.progIdx
  | 0x009 => w.regionPc.setWidth 64
  | 0x00A => w.regionCnt
  | 0x00B => w.tstat
  | _ => w.fpstat.setWidth 64
/-- The value CSRR reads. -/
def State.csr (s : State) (n : Nat) : DWord :=
  if n ≤ 0x010 then s.wp.csr n
  else match s.ctx? s.blk.ctx with
    | some c => s.csrSeen c n
    | none => 0

/-- Replace one half of a 128-bit register. -/
def setHalf (old : BitVec 128) (hi : Bool) (x : DWord) : BitVec 128 :=
  if hi then x ++ old.setWidth 64 else (old >>> 64).setWidth 64 ++ x
/-- Write a warp register; the fields "RW in handler" of the trap record change only while a handler thread exists (R311). -/
def Warp.setCsr (w : Warp) (n : Nat) (x : DWord) : Warp :=
  let rec_ (t : TrapRec) : Warp := if w.handlers != 0 then { w with trap := t } else w
  match n with
  | 0x000 => rec_ { w.trap with cause := x.setWidth 8 }
  | 0x001 => rec_ { w.trap with pc := x.setWidth 57 }
  | 0x002 => rec_ { w.trap with word := setHalf w.trap.word false x }
  | 0x003 => rec_ { w.trap with word := setHalf w.trap.word true x }
  | 0x004 => rec_ { w.trap with addr := x }
  | 0x005 => rec_ { w.trap with mask := setHalf w.trap.mask false x }
  | 0x006 => rec_ { w.trap with mask := setHalf w.trap.mask true x }
  | 0x007 => { w with trapBase := x &&& 0x01FFFFFFFFFFFFFD }
  | 0x008 => { w with progIdx := x &&& 0x8000FFFF00000003 }
  | 0x010 => { w with fpstat := w.fpstat &&& ~~~(x.setWidth 7) }
  | _ => w
/-- The value ERRINJ takes from a write (R351): FIRED is W1C, and KIND 6 or 7 clears ARM. -/
def errinjWrite (old x : DWord) : DWord :=
  let v := (x &&& 0xFFFF01FFC0000000) ||| (old &&& 1 &&& ~~~x)
  if bits x.toNat 60 3 ≥ 6 then v &&& ~~~(BitVec.ofNat 64 (2 ^ 63)) else v
/-- Write ERRINJ of a context: events are counted in blocks that start after it (R351). -/
def State.setErrinj (s : State) (ctx : Nat) (x : DWord) : State :=
  let stop (b : Block) : Block := if b.ctx = ctx then { b with inject := false } else b
  let s1 : State := { s with blk := stop s.blk, blocks := s.blocks.map stop }
  s1.modCtx ctx fun c =>
    { c with errinj := errinjWrite c.errinj x, errCount := 0, saved := c.saved.map fun b => { b with inject := false } }
/-- Write a context register (R320): the others are read-only. -/
def State.setCtxCsr (s : State) (ctx n : Nat) (x : DWord) : State :=
  if 0x018 ≤ n && n ≤ 0x01F then
    s.modCtx ctx fun c => { c with bpa := c.bpa.set (n - 0x018) (x &&& 0xE1FFFFFFFFFFFFFF) }
  else match n with
    | 0x011 => s.modCtx ctx fun c => { c with srseed := x.setWidth 32 }
    | 0x012 => s.modCtx ctx fun c => { c with ctxcfg := x &&& 3 }
    | 0x020 => match s.ctx? ctx with
      | some c => if c.test then s.setErrinj ctx x else s
      | none => s
    | _ => s
/-- A write of a context register by the issuing warp is recorded, for those who have not acquired it (R321). -/
def State.logCsr (s : State) (n : Nat) (old : DWord) : State :=
  s.modCtx s.blk.ctx fun c =>
    if s.ctxCsr c n = old then c else { c with csrLog := c.csrLog ++ [⟨n, old, s.ctxCsr c n, s.blk.id, s.wp.idx, s.turn, none⟩] }
/-- The write CSRW makes. -/
def State.setCsr (s : State) (n : Nat) (x : DWord) : State :=
  if n ≤ 0x010 then { s with wp := s.wp.setCsr n x }
  else match s.ctx? s.blk.ctx with
    | none => s
    | some c => (s.setCtxCsr c.id n x).logCsr n (s.ctxCsr c n)
/-- The CSR number of an instruction, checked at issue (R320), after every earlier write of the warp (R321). -/
def State.atCsr (s : State) (f : Fields) (regs : List Nat) (k : State → Nat → State) : State :=
  s.whenEnabled f fun s => s.needU (regs ++ uniRegB f) fun s =>
    let n := s.uniB f
    if !csrKnown n then s.illegal 0x8 s.iss.lanes else k s.completeAll n
/-- CSRR (R321). -/
def execCsrr (f : Fields) (s : State) : Out := .next (s.atCsr f [] fun s n => s.aluPair f (halvesU (s.csr n)))
/-- CSRW (R321): every home warp writes the same value. -/
def execCsrw (f : Fields) (s : State) : Out :=
  .next (s.atCsr f [f.va.toNat, f.va.toNat + 1] fun s n =>
    (s.spoilRegion.setCsr n (s.wp.pair f.va.toNat 0)).advance)

/-- A word of the context feature record (R325). -/
def Features.word (r : Features) (i : Nat) : Nat :=
  match i with
  | 0 => r.stepping
  | 1 => r.featLo
  | 2 => r.featHi
  | 3 => r.cores
  | 4 => r.quads
  | 5 => r.dies
  | 6 => r.pkgs
  | 7 => Config.scratchBytes
  | 8 => Config.tilesPerCore
  | 9 => Config.slotsPerCore
  | 10 => Config.larderSlots
  | 11 => Config.rowsPerCore
  | 12 => Config.warpsPerCore
  | 13 => r.level
  | _ => 0
/-- SYSQ (R325). -/
def execSysq (f : Fields) (s : State) : Out :=
  .next (s.whenEnabled f fun s => s.needU (uniRegB f) fun s =>
    let x := ((s.ctx? s.blk.ctx).map fun (c : Ctx) => c.feat.word (s.uniB f)).getD 0
    (s.pend f.la.toNat true (s.en f) [(f.vd.toNat, .u (BitVec.ofNat 32 x))]).advance)

/-! ## Idempotent regions and compare points -/

/-- A new restart point (R322). -/
def Warp.takePoint (w : Warp) (pc : BitVec 57) : Warp :=
  { w with
    regionPc := pc, regionCnt := w.regionCnt + 1, rvalid := true, restarted := false, trace := RegionTrace.empty
    snapshot := some ⟨Lanes.of fun l => (w.thread l).sr, Lanes.of fun l => (w.thread l).preds, w.rcv⟩ }
/-- REGION (R322, R357). -/
def execRegion (f : Fields) (s : State) : Out :=
  let w := s.wp
  .next (s.whenEnabled f fun s =>
    if w.live &&& ~~~(s.en f) != 0 then { s with wp := { w with rvalid := false, restarted := false } }.advance
    else if w.restarted && w.regionPc = s.iss.pc then
      { s with wp := { w with regionCnt := w.regionCnt + 1, restarted := false, trace := RegionTrace.empty } }.advance
    else { s with wp := w.takePoint s.iss.pc, blk := s.blk.setUsed w.idx 0 }.advance)
/-- The signature of PCMP (R350): the home lane and each register of each enabled thread, as 32-bit words. -/
def State.signature (s : State) (f : Fields) : Nat :=
  (Mask.lanes (s.en f)).foldl (fun sig l => (List.range (f.m 2 0 + 1)).foldl (fun sig i =>
    crc32cFrom sig (bytesOf l 4 ++ bytesOf (s.wp.val (f.va.toNat + i) l).toNat 4)) sig) 0
/-- PCMP (R350). -/
def execPcmp (f : Fields) (s : State) : Out :=
  .next (s.whenEnabled f fun s =>
    if s.blk.copy = .single then s.advance
    else if s.pairFull then s.waitRetry s.iss.lanes
    else (s.enterPair ⟨s.wp.idx, 3, [s.signature f], [], none, false, false⟩).goOn)

end Sys2Proof.Machine
end

