-- ==== Sys2Proof/Machine/Preempt.lean ====
section
/-! DEFINITION. Pre-emption (R328), the saved record of a warp (R329), and the watchdog (R326, R327); the events PREEMPTION,
WATCHDOG_EXPIRY and WATCHDOG_GRACE_EXPIRY. -/
namespace Sys2Proof.Machine

/-! ## The saved record of a warp (R329) -/

/-- Pack items of `w` bits, item 0 lowest. -/
def packBits (w : Nat) (xs : List Nat) : Nat := xs.foldr (fun x a => a * 2 ^ w + x % 2 ^ w) 0
/-- The lanes. -/
def laneList : List Nat := List.range 128
/-- PCMODE is 0: every thread that has not exited has one PC. -/
def Warp.onePc (w : Warp) : Bool := (Mask.lanes w.live).all fun l => (w.thread l).pc = (w.thread (Mask.low w.live)).pc
/-- The 2-bit code of a register in SHMAP. -/
def Reg.code (r : Reg) : Nat := if r.spilled then 3 else r.val.shape
/-- The 2-bit code of a thread in TSTATE. -/
def Status.code : Status → Nat
  | .eligible => 0
  | .waiting _ => 1
  | .parked _ => 2
  | .exited => 3
/-- WAITAT of a thread. -/
def Thread.waitAt (t : Thread) : Nat :=
  match t.status with
  | .waiting (.rcv k _) => k
  | .waiting .meet => 0x20
  | .waiting (.bsync _ _) => 0x20
  | .waiting (.sbar _ _ _) => 0x20
  | .waiting .pb => 0x20
  | _ => 0xFF
/-- PRED: `p0`-`p6`, 16 bytes each. -/
def predBytes (preds : Nat → BitVec 7) : List Byte :=
  (List.range 7).flatMap fun p => bytesOf (maskOf fun l => (preds l).getLsbD p).toNat 16
/-- Masks in a reconvergence row of 32 entries. -/
def rcvBytes (es : List Mask) : List Byte := (List.range 32).flatMap fun k => bytesOf (es.getD k 0).toNat 16
/-- The shape entry of a compact register (R112). -/
def RegVal.entry : RegVal → Nat
  | .u x => x.toNat
  | .a b s => s.toNat * 2 ^ 32 + b.toNat
  | .v _ => 0
/-- The fixed part of a saved warp: 1,552 bytes. -/
def Warp.fixedRecord (w : Warp) : List Byte :=
  let one := w.onePc
  bytesOf ((if one then 0 else 2 ^ 56) + w.role % 256 * 2 ^ 48 + w.idx % 256 * 2 ^ 40) 8 ++
  bytesOf (packBits 2 ((List.range 384).map fun i => (w.reg i).code)) 96 ++
  bytesOf (packBits 2 (laneList.map fun l => (w.thread l).status.code)) 32 ++
  bytesOf (maskOf fun l => (w.thread l).stale).toNat 16 ++
  bytesOf w.handlers.toNat 16 ++
  predBytes (fun l => (w.thread l).preds) ++
  (laneList.map fun l => BitVec.ofNat 8 (w.thread l).waitAt) ++
  bytesOf (if one then (w.thread (Mask.low w.live)).pc.toNat else 0) 8 ++
  (laneList.flatMap fun l => bytesOf (w.thread l).sr.toNat 4) ++
  bytesOf w.trap.cause.toNat 8 ++ bytesOf w.trap.pc.toNat 8 ++ bytesOf w.trap.word.toNat 16 ++
  bytesOf w.trap.addr.toNat 8 ++ bytesOf w.trap.mask.toNat 16 ++ bytesOf w.entryMask.toNat 16 ++
  bytesOf w.trapBase.toNat 8 ++ bytesOf w.progIdx.toNat 8 ++ bytesOf w.regionPc.toNat 8 ++ bytesOf w.regionCnt.toNat 8 ++
  bytesOf w.fpstat.toNat 4 ++ bytesOf w.tstat.toNat 4 ++
  (laneList.flatMap fun l => bytesOf ((w.snapshot.map fun (p : Snapshot) => (Lanes.at p.sr l).toNat).getD 0) 4)
/-- The 64 bytes of a pending trap. -/
def TrapRec.bytes (r : TrapRec) : List Byte :=
  bytesOf r.cause.toNat 8 ++ bytesOf r.pc.toNat 8 ++ bytesOf r.word.toNat 16 ++ bytesOf r.addr.toNat 8 ++
  bytesOf r.mask.toNat 16 ++ bytesOf 0 8
/-- The record of a saved warp; a cellar reference, which the manual gives no form, is free. -/
def Warp.record (w : Warp) (depth n : Nat) : List Byte :=
  let regs := List.range 384
  w.fixedRecord ++
  ((regs.filter fun i => (w.rv i).compact).flatMap fun i => bytesOf (w.rv i).entry 8) ++
  (if w.onePc then [] else laneList.flatMap fun l => bytesOf (w.thread l).pc.toNat 8) ++
  predBytes (fun l => (w.snapshot.map fun (p : Snapshot) => Lanes.at p.preds l).getD 0) ++
  (if depth = 0 then [] else rcvBytes w.rcv ++ rcvBytes ((w.snapshot.map Snapshot.rcv).getD [])) ++
  ((regs.filter fun i => !(w.rv i).compact).flatMap fun i =>
    if (w.reg i).spilled then (List.range 8).map fun k => (Config.freeWord n (8 * i + k)).setWidth 8
    else laneList.flatMap fun l => bytesOf (w.val i l).toNat 4) ++
  (w.trapQueue.flatMap fun p => p.1.bytes)
/-- Bytes a saved block takes in the save region: its warps, scratch window, tiles, slots, modified dictionaries, and 16 KiB
for the rest (DESIGN CHOICE, log 30: the manual gives the warps' bytes alone). -/
def Block.savedBytes (b : Block) : Nat :=
  sumBy (fun w => (w.record b.header.depth 0).length) b.warps + b.header.scratch + 32768 * b.tiles.length +
  8192 * (b.slots.filter fun x => x.state != .free).length + 6144 * 4 + 16384
/-- The 256 entries of a dictionary in the layout of R77. -/
def dictBytes (d : Dict) : List Byte := (List.range 256).flatMap fun i => bytesOf (Tab.get 0 d i).toNat 24
/-- The dictionary state of a saved block (R85): the active number, each binding, a reference with its version tag or its entries. -/
def Block.dictRecord (b : Block) : List Byte :=
  bytesOf b.active 8 ++ b.dicts.flatMap fun w =>
    match w with
    | none => bytesOf 0 8
    | some (some i, _) => bytesOf (1 + i * 256 + b.tag * 65536) 8
    | some (none, d) => bytesOf 2 8 ++ dictBytes d
/-- A slot that is not FREE, and what it holds (R241, R242). -/
def slotRecord (n : Nat) (x : Slot) (i : Option Image) : List Byte :=
  match x.state with
  | .free => []
  | st => bytesOf (n + (if st = .ready then 2 else 1) * 256 + (if x.layoutB then 1 else 0) * 65536 + x.fmt * 2 ^ 24) 8 ++
    (match i with
      | some y => y.rows.flatten ++ y.scales.flatten ++ y.codebook
      | none => [])
/-- The cells of a tile, row by row (R244). -/
def tileRecord (t : TileCell) : List Byte :=
  (List.range 128).flatMap fun l => (Tab.get [] t.cells l ++ List.replicate 64 0).take 64 |>.flatMap fun (x : Word) => bytesOf x.toNat 4
/-- The operands, status and cursor of a copy (R291). -/
def copyRecord (h : Nat) (x : Copy) : List Byte :=
  bytesOf h 8 ++ bytesOf x.dst 8 ++ bytesOf x.src 8 ++ bytesOf x.len 4 ++ bytesOf x.cursor 4 ++
  bytesOf ((if x.dstScr then 1 else 0) + if x.srcScr then 2 else 0) 4 ++ bytesOf (x.bar.getD 0xFFFFFFFF) 4 ++
  bytesOf (match x.status with | .running => 6 | .ok => 0 | .failed c k => k * 256 + c) 8
/-- The group, number and status of a collective handle (R379). -/
def collRecord (h : Nat) (x : CollHandle) : List Byte :=
  bytesOf h 8 ++ bytesOf x.group 8 ++ bytesOf x.seq 8 ++ bytesOf (x.status.getD 2).toNat 8
/-- Arrivals at an instance of BSYNC (R287). -/
def bsyncRecord (x : BsyncInst) : List Byte :=
  bytesOf (x.id + x.roles * 256) 8 ++ x.arrived.flatMap fun p => bytesOf p.1 8 ++ bytesOf p.2.toNat 16
/-- What the record of a saved block holds after its warps, in the order R329 names it (DESIGN CHOICE, log 30). The operands of a
saved engine entry, which the manual gives no form, are free. -/
def Block.restRecord (b : Block) (n : Nat) : List Byte :=
  b.readScr 0 b.header.scratch ++ b.dictRecord ++
  ((List.range b.slots.length).flatMap fun i => slotRecord i (b.slots.getD i ⟨.free, false, 0⟩) (b.images.getD i none)) ++
  bytesOf b.held 8 ++ b.tiles.flatMap tileRecord ++
  (b.bonds.flatMap fun x => bytesOf x.toNat 8) ++ bytesOf b.desc.toNat 8 ++
  ((b.queued ++ b.parts).flatMap fun e => bytesOf e.half 8 ++ (List.range 56).map fun k => (Config.freeWord n (e.id * 64 + k)).setWidth 8) ++
  ((List.range 16).flatMap fun h => match b.copies.getD h none with | some x => copyRecord h x | none => []) ++
  ((List.range 4).flatMap fun h => match b.colls.getD h none with | some x => collRecord h x | none => []) ++
  b.bsyncs.flatMap bsyncRecord ++ bytesOf b.tag 8 ++ bytesOf b.age 8 ++ bytesOf b.index 8
/-- The record of a saved block (R329). -/
def Block.savedRecord (b : Block) (n : Nat) : List Byte := (b.warps.flatMap fun w => w.record b.header.depth n) ++ b.restRecord n
/-- The records of a context's saved blocks stand one after another in its save region (R328 step 5; DESIGN CHOICE, log 30). -/
def State.writeSaved (s : State) (ctx : Nat) : State :=
  match s.ctx? ctx with
  | none => s
  | some c =>
    if s.mapped c c.regions.save c.regions.saveSz then
      { s with free := s.free + 1 }.storeVa c c.regions.save ((c.saved.flatMap fun (b : Block) => b.savedRecord s.free).take c.regions.saveSz)
    else s

/-! ## Pre-emption (R328) -/

/-- Perform a block's entries ahead of its first product, step or chain (R328 step 3). -/
def State.drainEntries (s : State) (core : Nat) : List EngineEntry → State
  | [] => s
  | e :: es => if e.op.isSimple then (s.performEntry core e).drainEntries core es else s
/-- The warps of a block complete their pending writes (R328 step 2). -/
def State.completeBlock (s : State) (b : Block) : State :=
  b.warps.foldl (fun s w => s.withWarp b.id w.idx Issue.idle State.completeAll) s
/-- A thread as it is saved: a withdrawn ACCGROW and an EVWAIT are issued afresh (R245, R328), and every other wait is saved as it is. -/
def Thread.saved (t : Thread) : Thread :=
  match t.status with
  | .waiting (.grant _) => { t with status := .eligible }
  | .waiting .evwait => { t with status := .eligible }
  | _ => t
/-- PROGIDX of a warp whose chain program is saved (R277). -/
def Warp.savedChain (w : Warp) (es : List EngineEntry) : Warp :=
  match es.find? fun e => e.warp = w.idx && e.op.isChain with
  | some e => (match e.op with
    | .ttrun _ _ k _ _ => { w with progIdx := Sys2Proof.Machine.progIdx k e.half true }
    | _ => w)
  | none => w
/-- The trap record of a warp that the watchdog stopped (R310). -/
def Warp.watched (w : Warp) : Warp :=
  if w.live = 0 then w
  else { w with trap := ⟨0x15, (w.thread (Mask.low w.live)).pc, 0, 0, w.live⟩ }
/-- What a dictionary number of a block is saved as (R85). -/
def State.savedDict (s : State) (b : Block) (k : Option Nat) : Option (Option Nat × Dict) :=
  match k with
  | none => none
  | some j =>
    match s.larderSlot b.core j with
    | none => none
    | some x => if x.modified then some (none, x.entries) else some (x.image, [])
/-- The spilled registers of a block are read from the cellar to be saved (R111, R328). -/
def State.readSpilled (s : State) (b : Block) : State :=
  b.warps.foldl (fun s w => (w.regs.filter fun p => p.2.spilled).foldl (fun s p => s.useCellar b w p.1 true) s) s
/-- A block as it is saved (R329). -/
def State.savedBlock (s : State) (b : Block) (watchdog : Bool) : Block :=
  let es := ((s.core b.core).queue.filter fun e => e.blk = b.id) ++ b.queued
  { b with
    warps := b.warps.map fun w =>
      let w1 := (w.mapThreads Mask.all fun _ t => t.saved).savedChain es
      if watchdog then w1.watched else w1
    evwaits := [], queued := es, dicts := b.binds.map fun k => s.savedDict b k, binds := [none, none, none, none] }
/-- The blocks fit in what is left of the save region (R370). -/
def State.saveFits (s : State) (ctx : Nat) (bs : List Block) : Bool :=
  match s.ctx? ctx with
  | none => false
  | some c => sumBy Block.savedBytes (c.saved ++ bs) ≤ c.regions.saveSz
/-- Pre-empt the unit of a block (R328): nothing is done when the save region is too small. A unit that has not started is
placed afresh. -/
def State.preemptUnit (s : State) (b : Block) (watchdog : Bool) : Option State :=
  let ids := s.unitOf b
  let bs := ids.filterMap s.block?
  if !(bs.any fun x => x.started) then
    let s1 := (s.dropUnit b).modNode b.ctx b.node fun n => n.again b.unitFirst s.now
    some (s1.push .placementDecision)
  else if !s.saveFits b.ctx bs then none
  else
    let s1 := bs.foldl (fun s x => s.completeBlock x) s
    let s2 := bs.foldl (fun s x =>
      s.drainEntries x.core ((s.core x.core).queue.filter fun e => e.blk = x.id)) s1
    let s2 := (ids.filterMap s2.block?).foldl (fun s x => (s.readSpilled x).sendCsrs x.ctx x.id fun _ => true) s2
    let now := ids.filterMap s2.block?
    if now.any fun x => x.cellarFail || (match x.state with | .ended (.consumed _ _) => true | _ => false) then some s2
    else
      let saved := now.map fun x => s2.savedBlock x watchdog
      let s3 := now.foldl (fun s x => s.noteRan x) s2
      let s4 := now.foldl (fun s x => (s.release x.core 4).releaseBlock x.id) s3
      let s5 := (s4.modCtx b.ctx fun c => { c with saved := c.saved ++ saved }).modNode b.ctx b.node fun n =>
        { n with nextClk := s.now, passed := false }
      some ((s5.writeSaved b.ctx).push .placementDecision)
/-- A node has a block on the device. -/
def State.hasBlocks (s : State) (ctx key : Nat) : Bool := s.blocksNow.any fun b => b.ctx = ctx && b.node = key

/-! ## The watchdog (R326, R327) -/

/-- LIMIT and GRACE in cycles. -/
def Node.limit (n : Node) : Nat := bits n.wdcfg.toNat 0 16 * Config.cyclesPerMs
def Node.grace (n : Node) : Nat := bits n.wdcfg.toNat 16 16 * Config.cyclesPerMs
/-- A node the watchdog stopped has no block left on the device: it is suspended, and WATCHDOG is posted. -/
def State.trySuspend (s : State) (ctx key : Nat) : State :=
  match s.node? ctx key with
  | none => s
  | some n =>
    if n.wdExpired.isNone || n.state != .running || s.hasBlocks ctx key then s
    else (s.modNode ctx key fun n => { n with state := .suspended, wdExpired := none }).post ctx 0x05 n.record.nodeid
      (BitVec.ofNat 64 (n.queue.getD 0xFFFFFFFF)) 0 n.die
/-- The running node is past its LIMIT. -/
def Node.overdue (n : Node) (now : Nat) : Bool := n.state = .running && n.wdExpired.isNone && n.progress + n.limit ≤ now
/-- The pre-emption of a node has taken longer than its GRACE. -/
def Node.graceOver (n : Node) (now : Nat) : Bool := n.state = .running && match n.wdExpired with | some t => t + n.grace ≤ now | none => false
/-- WATCHDOG_EXPIRY (R327): every started block of the node is pre-empted. -/
def execWatchdogExpiry (ctx node : Nat) (s : State) : Out :=
  .next (match s.ctx? ctx, s.node? ctx node with
    | some c, some n =>
      if c.state != .running || !n.overdue s.now then s
      else
        let s1 := s.modNode ctx node fun n => { n with wdExpired := some s.now }
        let bs := s.blocksNow.filter fun b => b.ctx = ctx && b.node = node
        (bs.foldl (fun s b => s.push (.preemption b.id)) s1).trySuspend ctx node
    | _, _ => s)
/-- WATCHDOG_GRACE_EXPIRY (R327): a pre-emption that did not complete within GRACE kills the context. -/
def execWatchdogGraceExpiry (ctx node : Nat) (s : State) : Out :=
  .next (match s.node? ctx node with
    | some n => if n.graceOver s.now then s.killContext ctx (some node) else s
    | none => s)
/-- PREEMPTION (R328): forced by the watchdog, or for rebalancing of a block whose kernel sets PREEMPT_OK. A pre-emption
that finds the save region too small kills the context when the watchdog forced it, and is not performed otherwise. -/
def execPreemption (blk : Nat) (s : State) : Out :=
  .next (match s.block? blk with
    | none => s
    | some b =>
      let watched := ((s.node? b.ctx b.node).map fun (n : Node) => n.wdExpired.isSome).getD false
      if !watched && !(b.header.preemptOk && b.state = .running) then s
      else match s.preemptUnit b watched with
        | some s1 => s1.trySuspend b.ctx b.node
        | none => if watched then s.killContext b.ctx (some b.node) else s)

end Sys2Proof.Machine
end

