-- ==== Sys2Proof/Machine/Contain.lean ====
section
/-! DEFINITION. Containment and health: HEALTH (R353, R388), fencing and spares (R63, R64), detected errors and soft errors
(R333, R340), vigils (R341-R344), lost stores (R364) and planted faults (R351); their events. -/
namespace Sys2Proof.Machine

/-! ## HEALTH (R353, R388) -/

/-- Cores of a die that serve. -/
def State.servingOn (s : State) (die : Nat) : Nat :=
  ((List.range s.cores.length).filter fun c => dieOf c = die && (s.core c).healthy).length
/-- Healthy enabled cores, spares not yet enabled, and ports down. -/
def State.healthyCores (s : State) : Nat := (s.cores.filter Core.healthy).length
def State.sparesLeft (s : State) : Nat := (s.cores.filter fun c => c.cond = .spare).length
def State.portsDown (s : State) : Nat := (s.ports.filter fun p => !p.up).length
/-- The throttle step of a die (R385). -/
def Die.step (d : Die) : Nat := max d.thermal d.power
/-- The value of STATE that the conditions of R353 give. -/
def State.healthCond (s : State) : Nat :=
  if s.healthyCores < 264 || s.badChannels.length > 8 || s.portsDown ≥ 3 then 2
  else if ((List.range 3).any fun d => s.servingOn d < 92) || !s.badChannels.isEmpty || s.badWays != 0 ||
      s.ports.any (fun p => p.up && p.lanes < 16) then 1
  else 0
/-- The HEALTH register with a STATE (R388). -/
def State.healthWord (s : State) (st : Nat) : Nat :=
  (s.dies.foldl (fun a d => max a d.step) 0) * 2 ^ 47 + s.portsDown * 2 ^ 42 + s.badChannels.length * 2 ^ 34 +
  s.sparesLeft * 2 ^ 30 + s.healthyCores * 2 ^ 21 + st
/-- STATE of the HEALTH register. -/
def State.healthState (s : State) : Nat := bits s.health 0 2
/-- HEALTH follows the device; STATE only rises, and each change of it is written to the device queue's watched line. -/
def State.setHealth (s : State) (least : Nat) : State :=
  let st := max s.healthState (max least s.healthCond)
  let w := s.healthWord st
  let s1 : State := { s with health := w }
  if st = s.healthState then s1
  else match s.mgmt.find? fun m => m.q = .device with
    | some m => s1.writePa (m.watch + 0x10) (bytesOf w 8)
    | none => s1
/-- Bring HEALTH up to date. -/
def State.updateHealth (s : State) : State := s.setHealth 0

/-! ## Fencing (R63, R64) -/

/-- The spare that replaces a core: the lowest left on its die (DESIGN CHOICE, log 31). -/
def State.spareFor (s : State) (core : Nat) : Option Nat :=
  (List.range s.cores.length).find? fun c => dieOf c = dieOf core && (s.core c).cond = .spare
/-- A spare is enabled and joins the grant of every context that held the fenced core. -/
def State.enableSpare (s : State) (core spare : Nat) : State :=
  let s1 := s.modCore spare fun c => { c with cond := .serving }
  { s1 with ctxs := s1.ctxs.map fun c =>
      { c with grant := if c.grant.contains core && !c.grant.contains spare then c.grant ++ [spare] else c.grant } }
/-- Gangs and pairs whose cores the prologue engine fills, with a member on a core and none started: they leave unstarted and are
placed afresh (R64). -/
def State.unseat (s : State) (core : Nat) : State :=
  let bs := s.blocksNow.filter fun b => b.core = core && (b.header.gang > 1 || b.copy != .single) &&
    (b.state = .prologue || b.state = .filled)
  bs.foldl (fun s b =>
    let begun := (s.unitOf b).any fun i => ((s.block? i).map fun (x : Block) => x.started).getD false
    if (s.block? b.id).isNone || begun then s
    else (s.dropUnit b).modNode b.ctx b.node fun n => n.again b.unitFirst s.now) s
/-- Fence a core (R63): it takes no new block, and a spare of its die replaces it if one is left. A spare that is not in use is no
longer one. -/
def State.fence (s : State) (core : Nat) : State :=
  match (s.core core).cond with
  | .fenced => s
  | .spare => (s.modCore core fun c => { c with cond := .fenced }).updateHealth
  | .serving =>
    let s1 := (s.modCore core fun c => { c with cond := .fenced, vigil := .none }).unseat core
    let s2 := match s1.spareFor core with | some k => s1.enableSpare core k | none => s1
    s2.updateHealth.push .placementDecision

/-! ## Errors (R333, R334, R340) -/

/-- SEV of a bank. -/
def sevCode : Severity → Nat
  | .ce => 1
  | .ue => 2
  | .fatal => 3
/-- The error poisons data. -/
def errPoisons : ErrTarget → Bool
  | .memory _ => true
  | .scratch _ _ => true
  | .slot _ _ => true
  | .tile _ _ => true
  | .larder _ _ => true
  | _ => false
/-- Record an error in the bank of the unit that detected it. -/
def State.logError (s : State) (e : ErrorEvent) (sev : Severity) : State :=
  s.logBank e.bankKind e.unit (sevCode sev) (sev = .ue && errPoisons e.target) (e.ctx.getD 0xFFF) e.source e.syndrome e.addr
/-- Poison the data an uncorrectable error lies in. -/
def State.poisonTarget (s : State) (t : ErrTarget) : State :=
  match t with
  | .memory pa => s.setPoison pa
  | .scratch b off => s.modBlk b fun x => { x with scrPoison := insertNat (off / 64) x.scrPoison }
  | .slot b n => s.modBlk b fun x =>
      { x with images := setAt x.images n fun i => i.map fun (y : Image) => { y with poisoned := true } }
  | .tile b n => s.modBlk b fun x => { x with tiles := setAt x.tiles n fun y => { y with poisoned := true } }
  | .larder c k => s.setLarder c k ((s.larderSlot c k).map fun (x : LarderSlot) => { x with poisoned := true })
  | _ => s
/-- A soft error in a warp (R340), met by threads `m` about to execute the instruction at `pc`: the warp is restarted, in
both copies of a pair, or the error is consumed. -/
def State.softError (s : State) (blk warp whereAt source : Nat) (pc : BitVec 57) (m : Mask) : State :=
  match s.block? blk with
  | none => s
  | some b =>
    match b.warp? warp with
    | none => s
    | some w =>
      if w.rvalid && b.used warp < 2 then
        ((s.copiesOf blk).foldl (fun s i => s.restartWarp i warp) s).logBank 0 b.core 1 false b.ctx source 0 whereAt
      else
        let a := ueAddr 4 b.partner whereAt
        let word := s.shownWord blk warp m pc
        (s.modWarp blk warp fun w => { w with trap := ⟨0x13, pc, word, a, m⟩, entryMask := m }).killUnit blk a 4 whereAt
/-- The threads of a warp whose next instruction reads what an error lies in: register `whereAt`, or predicate `whereAt - 0x200`. -/
def State.readers (s : State) (c : Ctx) (blk : Nat) (w : Warp) (whereAt : Nat) : Mask :=
  maskOf fun l => Mask.has w.live l &&
    (let t := s.checkin.checkout blk w.idx { Issue.idle with lanes := BitVec.ofNat 128 (2 ^ l), pc := (w.thread l).pc }
     match t.nextInstr c (w.thread l).pc with
     | some i => if whereAt < 0x200 then (readsOf i).contains whereAt
         else (i.isa.map fun p => (readPreds p.1 p.2).contains (whereAt - 0x200)).getD false
     | none => false)
/-- A soft error the environment reports: the instruction about to read the failing state is that of the lowest thread whose next
instruction reads it, or of the lowest live one (DESIGN CHOICE, log 32). -/
def State.softAt (s : State) (blk warp whereAt source : Nat) : State :=
  match (s.block? blk).bind fun b => (b.warp? warp).bind fun w => (s.ctx? b.ctx).map fun c => (w, c) with
  | some (w, c) =>
    let m := s.readers c blk w whereAt
    s.softError blk warp whereAt source (w.thread (Mask.low (if m = 0 then w.live else m))).pc w.live
  | none => s
/-- A FATAL error kills each context whose state it touched; in state every context shares it fails the device (R333, R353). -/
def State.fatalError (s : State) (e : ErrorEvent) : State :=
  match e.target with
  | .shared => (s.ctxs.foldl (fun s c => s.killContext c.id none) s).setHealth 3
  | .context c => s.killContext c none
  | _ => match e.ctx with
    | some c => s.killContext c none
    | none => s
/-- A FATAL error in a structure of a core, and not in memory a walk read for it, is an unrecoverable fault of the core, which is
fenced (R63). DESIGN CHOICE (log 127). -/
def State.fenceFaulty (s : State) (e : ErrorEvent) : State := if e.bankKind = 0 && e.source != 0 then s.fence e.unit else s
/-- ERROR_DETECTED (R333, R334). -/
def execErrorDetected (e : ErrorEvent) (s : State) : Out :=
  .next (match e.target with
    | .reg b w r => s.softAt b w (r % 384) e.source
    | .pred b w p => s.softAt b w (0x200 + p % 7) e.source
    | t => match e.sev with
      | .ce => s.logError e .ce
      | .ue => (s.logError e .ue).poisonTarget t
      | .fatal => ((s.logError e .fatal).fatalError e).fenceFaulty e)
/-- NODE_LOST (R364): a store or RED of a block was answered NODE_LOST; its unit consumes it at its next access or ordering
instruction, or before it ends. -/
def execNodeLost (blk warp addr : Nat) (s : State) : Out :=
  .next ((s.modBlk blk fun b => { b with lost := match b.lost with | none => some (warp, addr) | x => x }).maybeEnd blk)

/-! ## Planted faults (R351) -/

/-- Arm ERRINJ of a context that has TEST. -/
def State.arm (s : State) (ctx kind count index partner : Nat) : State :=
  match s.ctx? ctx with
  | none => s
  | some c =>
    if !c.test then s
    else s.setErrinj ctx (BitVec.ofNat 64 (2 ^ 63 + kind * 2 ^ 60 + count % 4096 * 2 ^ 48 + index % 512 * 2 ^ 32 +
      partner % 4 * 2 ^ 30))
/-- ERRINJ_SLOT_UE (R351). -/
def execErrinjSlotUe (ctx count index partner : Nat) (s : State) : Out := .next (s.arm ctx 1 count index partner)
/-- ERRINJ_MEM_UE (R351). -/
def execErrinjMemUe (ctx count : Nat) (s : State) : Out := .next (s.arm ctx 2 count 0 0)
/-- ERRINJ_PAIR_FLIP (R351). -/
def execErrinjPairFlip (ctx count : Nat) (s : State) : Out := .next (s.arm ctx 3 count 0 0)
/-- ERRINJ_ROW_SOFT (R351). -/
def execErrinjRowSoft (ctx count index : Nat) (s : State) : Out := .next (s.arm ctx 4 count index 0)
/-- ERRINJ_CE_LOG (R351). -/
def execErrinjCeLog (ctx count : Nat) (s : State) : Out := .next (s.arm ctx 5 count 0 0)

/-! ## Vigils (R341-R344, R386, R387) -/

/-- Fields of VIGILCFG, in cycles. -/
def State.drainWait (s : State) : Nat := bits s.vigilcfg.toNat 20 12 * 225000
def State.scanTime (s : State) : Nat := bits s.vigilcfg.toNat 8 12 * 225000
def State.perDie (s : State) : Nat := bits s.vigilcfg.toNat 4 2
/-- Cores of a die in vigil. -/
def State.inVigil (s : State) (die : Nat) : Nat :=
  ((List.range s.cores.length).filter fun c => dieOf c = die && (s.core c).vigil != .none).length
/-- The next core of a die's almanac: its enabled cores in ascending cyclic order from where the die stands. -/
def State.nextVigil (s : State) (die : Nat) : Option Nat :=
  ((List.range 96).map fun i => 96 * die + ((s.die die).almanac + i) % 96).find? fun c =>
    (s.core c).healthy && (s.core c).vigil = .none
/-- VIGIL_BEGIN (R341, R386, R387): the next core takes no more blocks and drains. -/
def execVigilBegin (die : Nat) (s : State) : Out :=
  .next (if !s.vigilcfg.getLsbD 0 || s.boot < 6 || (s.die die).step ≥ 6 || s.inVigil die ≥ s.perDie then s
    else match s.nextVigil die with
      | none => s
      | some c =>
        let s1 := s.modCore c fun k => { k with vigil := .draining s.now }
        ({ s1 with dies := setAt s1.dies die fun d => { d with almanac := (c % 96 + 1) % 96 } }).settleVigil c)
/-- VIGIL_DRAIN_TIMEOUT (R341): the blocks that remain are pre-empted; those the save region has no room for run on. -/
def execVigilDrainTimeout (core : Nat) (s : State) : Out :=
  .next (match (s.core core).vigil with
    | .draining t =>
      if s.now < t + s.drainWait then s
      else (s.blocksNow.filter fun b => b.core = core).foldl (fun s b =>
        if (s.block? b.id).isNone then s else (s.preemptUnit b false).getD s) s
    | _ => s)

/-- A node's runs on a core that no passed vigil covers (R343). -/
def Node.openRuns (n : Node) (core since : Nat) : List Nat :=
  ((n.ranOn.filter fun r => r.2.1 = core && r.2.2.2 > since).map fun r => r.1)
/-- Every core the node ran on has passed a vigil since, and it is not under suspicion (R342). -/
def State.confirmed (s : State) (c : Ctx) (n : Node) : Bool :=
  (n.final = 1 || n.final = 3) && !(c.lists.any fun x => x.1 = n.key) &&
  n.ranOn.all fun r => r.2.2.2 ≤ (s.core r.2.1).passed
/-- Confirm a node (R342). -/
def State.confirm (s : State) (ctx key : Nat) : State :=
  ((s.modNode ctx key fun n => { n with final := 2 }).writeDone ctx key).retireNode ctx key false
/-- The bytes of a block list (R344). -/
def listBytes (core : Nat) (blocks : List Nat) : List Byte :=
  bytesOf blocks.length 4 ++ bytesOf core 2 ++ bytesOf 0 2 ++ blocks.flatMap fun b => bytesOf b 4
/-- Write a block list in the suspect-list region: its address, that of the overflow list when the region is full. -/
def State.writeList (s : State) (c : Ctx) (core : Nat) (blocks : List Nat) : Nat × State :=
  let bs := listBytes core blocks
  let off := (c.suspectUsed + 7) / 8 * 8
  if off + bs.length > c.regions.suspectSz then (c.regions.suspect, s)
  else (c.regions.suspect + off,
    (s.storeVa c (c.regions.suspect + off) bs).modCtx c.id fun c => { c with suspectUsed := off + bs.length })
/-- A core a node ran on has failed its vigil (R343, R344): the node's list is written; a provisional node becomes SUSPECT. -/
def State.suspect (s : State) (ctx key core : Nat) (blocks : List Nat) : State :=
  match s.ctx? ctx, s.node? ctx key with
  | some c, some n =>
    let old := ((c.lists.filter fun x => x.1 = key).getLast?).map fun x => x.2.1
    let all := (old.getD [] ++ blocks).foldl (fun a b => insertNat b a) []
    let (addr, s1) := s.writeList c (if old.isSome then 0xFFFF else core) all
    let s2 := s1.modCtx ctx fun c => { c with lists := c.lists ++ [(key, all, addr)] }
    if n.final = 1 || n.final = 3 then
      ((s2.modNode ctx key fun n => { n with final := 6 }).writeDone ctx key).retireNode ctx key true
    else s2.writeDone ctx key
  | _, _ => s
/-- Every node of the device with its context. -/
def State.allNodes (s : State) : List (Nat × Node) := s.ctxs.flatMap fun c => c.nodes.map fun n => (c.id, n)
/-- VIGIL_SCAN_COMPLETE (R341-R343): a pass returns the core to service and confirms nodes; a failure is recorded, fences the
core and marks the nodes that ran on it. -/
def execVigilScanComplete (core : Nat) (pass : Bool) (pattern : Nat) (s : State) : Out :=
  .next (match (s.core core).vigil with
    | .scanning t =>
      if s.now < t + s.scanTime then s
      else if pass then
        let s1 := s.modCore core fun c => { c with vigil := .none, passed := t }
        let s2 := s1.ctxs.foldl (fun s c => (c.nodes.filter (s1.confirmed c)).foldl (fun s n => s.confirm c.id n.key) s) s1
        s2.push .placementDecision
      else
        let since := (s.core core).passed
        let s1 := (s.logBank 0 core 2 false 0xFFF 10 pattern 0).fence core
        s1.allNodes.foldl (fun s x =>
          let runs := x.2.openRuns core since
          if runs.isEmpty || x.2.record.kind != 0 then s else s.suspect x.1 x.2.key core runs) s1
    | _ => s)

end Sys2Proof.Machine
end

