-- ==== Sys2Proof/Machine/Fabric.lean ====
section
/-! DEFINITION. The Vrelbusar ports (R360-R362), the timeouts of R363, lost nodes (R364), the trust boundary (R365, R366), and
accesses from other nodes; their events. -/
namespace Sys2Proof.Machine

/-! ## Flits (R360) -/

/-- Fields of a flit: 28 bytes of payload, then the trailer. -/
def flitPayload (f : BitVec 256) : BitVec 224 := f.setWidth 224
def flitCrc (f : BitVec 256) : BitVec 16 := f.extractLsb' 224 16
def flitType (f : BitVec 256) : BitVec 4 := f.extractLsb' 240 4
def flitSeq (f : BitVec 256) : BitVec 12 := f.extractLsb' 244 12
/-- What the CRC covers: bits [31:16] of the trailer and the payload. -/
def flitCover (f : BitVec 256) : BitVec 240 := f.extractLsb' 240 16 ++ flitPayload f
/-- A flit. -/
def flitOf (seq : BitVec 12) (ty : BitVec 4) (payload : BitVec 224) : BitVec 256 :=
  seq ++ ty ++ Config.crc16 (seq ++ ty ++ payload) ++ payload
/-- A flit is the next one, whole: its CRC holds, its SEQ follows and its TYPE is defined. -/
def Port.accepts (p : Port) (f : BitVec 256) : Bool :=
  flitCrc f = Config.crc16 (flitCover f) && (flitType f).toNat ≤ 4 && (flitSeq f).toNat = p.seqIn

/-- A port sends a flit and keeps it until it is acknowledged; a full replay buffer sends nothing (R361). -/
def Port.send (p : Port) (ty : BitVec 4) (payload : BitVec 224) (now : Nat) : Port :=
  if !p.up || p.replay.length ≥ 512 then p
  else { p with
    replay := p.replay ++ [flitOf (BitVec.ofNat 12 p.seqOut) ty payload]
    seqOut := (p.seqOut + 1) % 4096
    lastSent := now }
/-- Send the flits that wait, in order, while the replay buffer has room. -/
def Port.sendAll (now : Nat) : List (BitVec 4 × BitVec 224) → Port → Port
  | [], p => { p with outbox := [] }
  | x :: xs, p => if !p.up || p.replay.length ≥ 512 then { p with outbox := x :: xs } else Port.sendAll now xs (p.send x.1 x.2 now)
/-- The payloads of data flits that carry bytes. -/
def dataFlits (bs : List Byte) : List (BitVec 224) :=
  (List.range ((bs.length + 27) / 28)).map fun i => BitVec.ofNat 224 (ofBytes ((bs.drop (28 * i)).take 28))
/-- Send a packet (R360): one header flit, then data flits. -/
def Port.sendPacket (p : Port) (now : Nat) (head : BitVec 224) (bs : List Byte) : Port :=
  Port.sendAll now (p.outbox ++ (1, head) :: (dataFlits bs).map fun x => (2, x)) p
/-- A port. -/
def State.port (s : State) (p : Nat) : Port := s.ports.getD p Port.reset
/-- Change a port. -/
def State.modPort (s : State) (p : Nat) (f : Port → Port) : State := { s with ports := setAt s.ports p f }
/-- The flits of a replay buffer after one with a SEQ; all of them when none has it. -/
def flitsAfter (seq : BitVec 12) (fs : List (BitVec 256)) : List (BitVec 256) :=
  if fs.any fun f => flitSeq f = seq then (fs.dropWhile fun f => flitSeq f != seq).drop 1 else fs
/-- The flits of a replay buffer from one with a SEQ on. -/
def flitsFrom (seq : BitVec 12) (fs : List (BitVec 256)) : List (BitVec 256) :=
  if fs.any fun f => flitSeq f = seq then fs.dropWhile fun f => flitSeq f != seq else fs
/-- A port takes an acknowledgement. -/
def Port.acked (p : Port) (seq : BitVec 12) : Port :=
  let left := flitsAfter seq p.replay
  { p with replay := left, replays := if left.length = p.replay.length then p.replays else 0 }
/-- Flits that wait go out once an acknowledgement has made room. -/
def Port.ackedAt (p : Port) (seq : BitVec 12) (now : Nat) : Port := Port.sendAll now p.outbox (p.acked seq)
/-- A port replays from the flit that a negative acknowledgement names. -/
def Port.replayed (p : Port) (seq : BitVec 12) (now : Nat) : Port :=
  let left := flitsFrom seq p.replay
  { p with
    replay := left
    replays := if left.length = p.replay.length then p.replays + 1 else 1
    lastSent := now }
/-- A header or data flit joins the packets: a data flit that follows no header belongs to none. -/
def joinFlit (ps : List (List (BitVec 256))) (f : BitVec 256) : List (List (BitVec 256)) :=
  if flitType f = 1 then ps ++ [[f]]
  else match ps.getLast? with
    | some p => ps.dropLast ++ [p ++ [f]]
    | none => ps
/-- A port takes the next flit. DESIGN CHOICE (log 53): an acknowledgement names the flit it answers and covers those before it, and
an idle flit carries one. -/
def Port.take (p : Port) (f : BitVec 256) (now : Nat) : Port :=
  let p1 := { p with seqIn := (p.seqIn + 1) % 4096, waiting := false, lastHeard := now }
  let ack (p : Port) : Port := p.send 3 (Config.ackPayload (flitSeq f)) now
  match (flitType f).toNat with
  | 0 => ack (p1.ackedAt (Config.ackSeq (flitPayload f)) now)
  | 3 => p1.ackedAt (Config.ackSeq (flitPayload f)) now
  | 4 => p1.replayed (Config.ackSeq (flitPayload f)) now
  | _ => ack { p1 with received := joinFlit p1.received f }
/-- The CRC of a flit fails. -/
def flitBad (f : BitVec 256) : Bool := flitCrc f != Config.crc16 (flitCover f)
/-- A port finds a flit in error: a negative acknowledgement, then flits are discarded until the replayed one, which is asked for
again when it comes with a bad CRC. -/
def Port.reject (p : Port) (f : BitVec 256) (now : Nat) : Port :=
  let p1 := { p with lastHeard := now }
  if (p.waiting && !flitBad f) || p.replay.length ≥ 512 then p1
  else { p1 with waiting := true }.send 4 (Config.ackPayload (BitVec.ofNat 12 p.seqIn)) now
/-- FLIT_RECEIVE (R361): each replay is logged as a CE in the port's bank. -/
def execFlitReceive (port : Nat) (flit : BitVec 256) (s : State) : Out :=
  let p := s.port port
  .next (
    if !p.up then s
    else if !p.accepts flit then s.modPort port fun p => p.reject flit s.now
    else
      let s1 := s.modPort port fun p => p.take flit s.now
      if flitType flit = 4 then s1.logBank 6 port 1 false 0xFFF 9 0 0 else s1)

/-! ## Links -/

/-- Post an event to every context. -/
def State.postAll (s : State) (code nodeid : Nat) (arg0 arg1 : DWord) : State :=
  s.ctxs.foldl (fun s c => s.post c.id code nodeid arg0 arg1 0) s
/-- A port goes down: PORT_DOWN is posted. -/
def State.portDown (s : State) (port : Nat) : State :=
  ((s.modPort port fun p => { p with up := false, lanes := 0 }).postAll 0x0B 0 (BitVec.ofNat 64 port) 0).updateHealth
/-- LINK_RETRAIN (R361): after 16 consecutive replays of one flit; `failing` are the lanes that fail. -/
def execLinkRetrain (port : Nat) (failing : BitVec 16) (s : State) : Out :=
  let p := s.port port
  let lo : BitVec 8 := failing.setWidth 8
  let hi : BitVec 8 := failing.extractLsb' 8 8
  .next (
    if !p.up || p.replays < 16 then s
    else if failing = 0 then s.modPort port fun p => { p with replays := 0, lanes := 16 }
    else if lo = 0 || hi = 0 then (s.modPort port fun p => { p with replays := 0, lanes := 8 }).updateHealth
    else s.portDown port)
/-- A port has sent nothing for 1 µs. -/
def Port.idle (p : Port) (now : Nat) : Bool := p.up && p.lastSent + Config.cyclesPerUs ≤ now
/-- IDLE_FLIT (R362): its payload acknowledges the last flit heard (log 53). -/
def execIdleFlit (port : Nat) (s : State) : Out :=
  .next (if (s.port port).idle s.now then
    s.modPort port fun p => p.send 0 (Config.ackPayload (BitVec.ofNat 12 (p.seqIn + 4095))) s.now else s)
/-- A port has heard nothing for 8 µs. -/
def Port.silent (p : Port) (now : Nat) : Bool := p.up && p.lastHeard + 8 * Config.cyclesPerUs ≤ now
/-- LINK_TIMEOUT (R363). -/
def execLinkTimeout (port : Nat) (s : State) : Out :=
  .next (if (s.port port).silent s.now then s.portDown port else s)

/-! ## Lost nodes (R363, R364) -/

/-- SWITCH_TIMEOUT (R363): a node that answers along no route is lost to this package. -/
def execSwitchTimeout (node : Nat) (s : State) : Out :=
  .next (
    if node = s.node || s.lostNodes.contains node then s
    else
      let s1 := { s with lostNodes := insertNat node s.lostNodes }.postAll 0x09 0 (BitVec.ofNat 64 node) 0
      (s1.sbarInsts.filter s1.sbarLost).foldl (fun s i => s.testSbar i true) s1)
/-- PORT_KEY_ROTATION (R365): the port takes a new key, under which its transmit counter starts again. -/
def execPortKeyRotation (port : Nat) (s : State) : Out :=
  .next (s.modPort port fun p => { p with keyGen := p.keyGen + 1, txCount := 0 })

/-! ## Blocks on a port (R365, R366) -/

/-- CHDR of an envelope is valid for a payload: its METHOD, its zero byte, and LEN. -/
def chdrOk (chdr : DWord) (payload : List Byte) : Bool :=
  let x := chdr.toNat
  let words := ((List.range 32).filter fun i => !bit x i).length
  bits x 48 8 = 0 && bits x 32 16 = payload.length &&
  ((bits x 56 8 = 0 && payload.length = 256) || (bits x 56 8 = 1 && payload.length = 8 * words))
/-- The 256 bytes of stored data or of the non-zero words of a block. -/
def unpackBlock (chdr : DWord) (plain : List Byte) : List Byte :=
  let x := chdr.toNat
  let word (k : Nat) : List Byte := (List.range 8).map fun j => plain.getD (8 * k + j) 0
  if bits x 56 8 = 0 then (List.range 32).flatMap word
  else (List.range 32).flatMap fun i =>
    if bit x i then List.replicate 8 0 else word ((List.range i).filter fun j => !bit x j).length
/-- The bytes of a block that arrives over a port for a block of memory, which granules of the block are poisoned, and the guard tag it came with; nothing
when its GCM tag fails or CHDR is invalid, or when it has not the form of the port. -/
def State.openBlock (s : State) (port block : Nat) (b : FabricBlock) : Option (List Byte × BitVec 4 × Option GuardTag) :=
  match b with
  | .plain data tag bad => if (s.port port).inside then some (data, bad, some tag) else none
  | .envelope sender counter chdr payload tag bad =>
    if (s.port port).inside || !chdrOk chdr payload then none
    else (Config.gcmOpen (s.port port).keyGen sender counter chdr (block % 2 ^ 49) (Tab.get 0 s.pageGen (block / 16)) payload tag).map
      fun x => (unpackBlock chdr x, bad, none)
/-- Some granules of the 256-byte blocks of a range are poisoned. -/
def State.poisonRange (s : State) (pa n : Nat) (which : BitVec 4) : State :=
  ((granules pa n).filter fun g => which.getLsbD (g % 4)).foldl (fun s g => s.setPoison (g * 64)) s
/-- Granules of the 256-byte blocks of a range that are poisoned. -/
def State.poisonMask (s : State) (pa n : Nat) : BitVec 4 :=
  (granules pa n).foldl (fun m g => if s.poison.contains g then m ||| BitVec.ofNat 4 (2 ^ (g % 4)) else m) 0
/-- A guard tag that does not match its block. -/
def spoilTag (t : GuardTag) : GuardTag := { t with crc := (t.crc + 1) % 2 ^ 32 }
/-- Another node writes memory: unpredictable bytes when it does what software must not (R9). -/
def State.hostWrite (s : State) (pa : Nat) (bs : List Byte) : State :=
  s.writePa pa (if s.offendsPa pa bs.length fun i => bs.getD i 0 then s.freeBytes pa bs.length else bs)
/-- A block that arrives is delivered (R366): one that cannot be opened is poisoned memory, whose guard tag a copy finds bad, and logged;
poison crosses with its granules (R333); a guard tag that came with a whole block stays with it for its last consumer (R365). DESIGN CHOICE
(log 54): the bytes of a block that cannot be opened stay as they were. -/
def State.fabricWrite (s : State) (port pa : Nat) (b : FabricBlock) : State :=
  match s.openBlock port (pa / 256) b with
  | none =>
    let s1 := (s.poisonRange (pa / 256 * 256) 256 15).logBank 6 port 2 true 0xFFF 9 0 (localOf pa)
    { s1 with tags := (s1.tags.filter fun t => t.1 != pa / 256) ++ [(pa / 256, spoilTag (s1.formTag (pa / 256)))] }
  | some (data, bad, tag) =>
    let s2 := (s.hostWrite pa data).poisonRange pa data.length bad
    match tag with
    | some t =>
      if pa % 256 = 0 && data.length = 256 && t != s2.formTag (pa / 256) then { s2 with tags := s2.tags ++ [(pa / 256, t)] } else s2
    | none => s2
/-- A block uses a value of the transmit counter of a port outside the boundary; the key is rotated before it wraps (R365). -/
def Port.transmit (p : Port) : Port :=
  if p.inside then p
  else if p.txCount + 1 ≥ 2 ^ 64 then { p with keyGen := p.keyGen + 1, txCount := 0 }
  else { p with txCount := p.txCount + 1 }
/-- The bytes of a block as a port sends it (R365): with its guard tag inside the trust boundary, in an envelope outside it. The
sender chooses METHOD 0. -/
def State.sentBlock (s : State) (port block : Nat) : List Byte :=
  let p := s.port port
  let bs := s.readPas (block * 256) 256
  let t := s.tagOf block
  if p.inside then bs ++ bytesOf t.crc 4 ++ bytesOf t.addr 8 ++ bytesOf t.gen 2
  else
    let chdr : DWord := BitVec.ofNat 64 (256 * 2 ^ 32)
    let x := Config.gcmSeal p.keyGen (s.node * 65536 + port) p.txCount chdr (block % 2 ^ 49) t.gen bs
    bytesOf chdr.toNat 8 ++ x.1 ++ bytesOf x.2.toNat 16

/-! ## Accesses from other nodes (R363, R366, R367, R352) -/

/-- How a request is answered: performed, refused with an error, with data of which some granules of the 256-byte block are poisoned, or
NODE_LOST. -/
inductive Answer where
  | ok | error | poisoned (which : BitVec 4) | lost
  deriving DecidableEq, Repr
/-- Answer a request with a packet. -/
def State.answer (s : State) (r : FabricReq) (a : Answer) (bs : List Byte) : State :=
  let kind := match a with | .ok => 0 | .error => 1 | .lost => 2 | .poisoned x => 3 + x.toNat
  s.modPort r.port fun p => p.sendPacket s.now (Config.packetHead kind r.src r.addr bs.length) bs
/-- Answer a read with the block that holds its first byte. -/
def State.answerRead (s : State) (r : FabricReq) (pa : Nat) : State :=
  let block := pa / 256
  let bad := s.poisonMask (block * 256) 256
  (s.answer r (if bad = 0 then .ok else .poisoned bad) (s.sentBlock r.port block)).modPort r.port Port.transmit
/-- A node may command a management queue (R367). -/
def State.mayCommand (s : State) (q : MgmtQ) (node : Nat) : Bool :=
  match q with
  | .device => Config.administrator node
  | .context id => ((s.ctx? id).map fun (c : Ctx) => c.masters.contains node).getD false
/-- Bytes an access from another node writes. -/
def writesOfOp : FabricOp → Nat
  | .write (.plain data _ _) => data.length
  | .write (.envelope _ _ _ _ _ _) => 256
  | .atomic op _ => atomBytes (op % 16)
  | .read _ => 0
  | .answer _ => 0
/-- An access of a node is one it has the right to (R352, R367): to the memory of a management queue, a command from a node that may
give it; to other memory, one inside its grant. -/
def State.mayReach (s : State) (r : FabricReq) (pa : Nat) : Bool :=
  match r.op with
  | .answer _ => true
  | op =>
    let n := writesOfOp op
    let qs := s.mgmt.filter fun m => n != 0 && m.holds pa n
    if qs.isEmpty then r.granted else qs.all fun m => s.mayCommand m.q r.src
/-- FABRIC_REQUEST (R363): an access from another node, performed at this package and answered, or the answer to an access of this
package. One it has no right to is a violation that freezes the node; a frozen node's requests are answered with an error (R352), and
every request with NODE_LOST until bring-up is over (R381). An atomic at poisoned bytes is performed and answered with the poison. DESIGN CHOICE
(log 168). -/
def execFabricRequest (r : FabricReq) (s : State) : Out :=
  let pa := s.node * 2 ^ 40 + r.addr % 2 ^ 40
  .next (
    if !(s.port r.port).up then s
    else if s.boot < 6 || s.frozenNodes.contains r.src then (match r.op with
      | .answer _ => s
      | _ => s.answer r (if s.boot < 6 then .lost else .error) [])
    else if !s.mayReach r pa then
      ({ s with frozenNodes := insertNat r.src s.frozenNodes }.postAll 0x06 0 (BitVec.ofNat 64 (2 * 2 ^ 60 + r.src))
        (BitVec.ofNat 64 r.addr)).answer r .error []
    else match r.op with
      | .read _ => s.answerRead r pa
      | .write b => (s.fabricWrite r.port pa b).answer r .ok []
      | .answer b => s.fabricWrite r.port (r.src * 2 ^ 40 + r.addr % 2 ^ 40) b
      | .atomic op b =>
        let n := atomBytes (op % 16)
        let old := s.readNum pa n
        let bad := s.poisonMask pa n
        (s.hostWrite pa (bytesOf (atomNew (op % 16) old (b.toNat % 2 ^ (8 * n))) n)).answer r
          (if bad = 0 then .ok else .poisoned bad) (bytesOf old n))

end Sys2Proof.Machine
end

