-- ==== Sys2Proof/Machine/Collective.lean ====
section
/-! DEFINITION. Collective groups (R372-R375), COLL and COLLQ, opcodes 0xB3 and 0xB4 (R376-R379); the events of collectives. -/
namespace Sys2Proof.Machine

/-! ## Groups -/

/-- A group of a context by its index. -/
def Ctx.group? (c : Ctx) (i : Nat) : Option Group := c.groups.find? fun g => g.index = i
/-- Change a group. -/
def State.modGroup (s : State) (ctx i : Nat) (f : Group → Group) : State :=
  s.modCtx ctx fun c => { c with groups := c.groups.map fun g => if g.index = i then f g else g }
/-- A member is of the current season. -/
def Group.has (g : Group) (m : Nat) : Bool := g.live.getLsbD m
/-- The folding member of collective `n` (R373). -/
def Group.folder (g : Group) (n : Nat) : Option Nat :=
  ((List.range g.nmem).map fun i => (n % g.nmem + i) % g.nmem).find? g.has
/-- STATE of the membership table. -/
def MemberState.code : MemberState → Nat
  | .active => 0
  | .joining => 1
  | .expelled => 2
/-- The membership table (R372). -/
def Group.tableBytes (g : Group) : List Byte :=
  bytesOf g.gid 4 ++ bytesOf g.season 4 ++ bytesOf g.nmem 2 ++ bytesOf g.self 1 ++ bytesOf g.state.code 1 ++ bytesOf 0 4 ++
  bytesOf g.nextSeq 8 ++ bytesOf g.journal 8 ++ bytesOf g.live.toNat 32 ++
  (List.range 256).flatMap fun i => bytesOf (g.nodes.getD i 0) 2
/-- The device writes the membership table. -/
def State.writeTable (s : State) (ctx i : Nat) : State :=
  match s.ctx? ctx with
  | none => s
  | some c => match c.group? i with
    | some g => s.storeVa c g.table g.tableBytes
    | none => s

/-! ## Folding (R377) -/

/-- The elements of a contribution as 32-bit values; BF16 is widened. -/
def collElems (oper : Nat) (bs : List Byte) : List Nat :=
  if oper = 4 then (List.range (bs.length / 2)).map fun i => fieldAt bs (2 * i) 2 * 2 ^ 16
  else (List.range (bs.length / 4)).map fun i => fieldAt bs (4 * i) 4
/-- One element operation. -/
def collStep (oper x y : Nat) : Nat :=
  match oper with
  | 0 => (x + y) % 2 ^ 32
  | 2 => (fp32.minmax true false false x y).1
  | 3 => (fp32.minmax false false false x y).1
  | _ => (fp32.arith .add 0 false x y 0).1
/-- The bytes of an accumulated result; BF16 is rounded once. -/
def collBytes (oper : Nat) (xs : List Nat) : List Byte :=
  if oper = 4 then xs.flatMap fun x => bytesOf (convert (cvType 0) (cvType 2) 0 0 false x).1 2
  else xs.flatMap fun x => bytesOf x 4
/-- Fold contributions in the order they arrived. -/
def collFold (oper : Nat) : List Contribution → Option (List Byte)
  | [] => none
  | c :: cs => some (collBytes oper (cs.foldl (fun acc d => List.zipWith (collStep oper) acc (collElems oper d.data))
      (collElems oper c.data)))
/-- The members of some contributions. -/
def membersMask (cs : List Contribution) : BitVec 256 :=
  cs.foldl (fun m c => m ||| BitVec.ofNat 256 (2 ^ c.member)) 0
/-- Members of a mask. -/
def countMembers (m : BitVec 256) : Nat := ((List.range 256).filter m.getLsbD).length
/-- Contributions of one number differ in kind, operation, root or length. -/
def collMismatch : List Contribution → Bool
  | [] => false
  | c :: cs => cs.any fun d => d.kind != c.kind || d.oper != c.oper || d.root != c.root || d.data.length != c.data.length
/-- The blocks of a result. -/
def collResultBlocks (nmem : Nat) (c : Contribution) (good : List Contribution) : List (Option (List Byte)) :=
  match c.kind with
  | 0 => [collFold c.oper good]
  | 1 => [(good.find? fun d => d.member = c.root).map Contribution.data]
  | _ => (List.range nmem).map fun i => (good.find? fun d => d.member = i).map Contribution.data
/-- The result of a collective whose contributions have all arrived (R373, R374, R378). -/
def Group.fold (g : Group) (ctx : Nat) (x : Collective) : CollResult :=
  let good := x.contribs.filter fun c => !c.poisoned
  let cmask := membersMask good
  let pmask := membersMask (x.contribs.filter fun c => c.poisoned)
  let bad := collMismatch x.contribs
  let blocks := match x.contribs.head? with
    | some c => if bad then [] else collResultBlocks g.nmem c good
    | none => []
  let rootless := x.contribs.any fun c => c.kind = 1 && !good.any fun d => d.member = c.root
  let code := if bad then 4 else if cmask = x.members && !rootless then 0 else 1
  ⟨ctx, g.index, x.seq, code, countMembers cmask, cmask, pmask, g.season, blocks⟩
/-- Every live member of a collective has contributed, or will not. -/
def Group.complete (g : Group) (x : Collective) : Bool :=
  x.members &&& g.live &&& ~~~(membersMask x.contribs ||| x.absent) = 0
/-- At the folding member, fold a collective that is complete and send its result. -/
def State.tryFold (s : State) (ctx i n : Nat) : State :=
  match (s.ctx? ctx).bind fun c => c.group? i with
  | none => s
  | some g =>
    match g.colls.find? fun x => x.seq = n with
    | none => s
    | some x => if g.folder n = some g.self && g.complete x then s.push (.collResult (g.fold ctx x)) else s
/-- A collective as its first contribution or its own COLL begins it. -/
def Group.begin_ (g : Group) (n : Nat) : Collective := ⟨n, none, g.live, [], 0⟩
/-- Change a collective of a group, beginning it when it is new; a group that had none in flight hears its members from now. -/
def Group.modColl (g : Group) (n now : Nat) (f : Collective → Collective) : Group :=
  if g.colls.any fun x => x.seq = n then { g with colls := g.colls.map fun x => if x.seq = n then f x else x }
  else { g with
    colls := g.colls ++ [f (g.begin_ n)]
    heard := if g.colls.isEmpty then List.replicate g.nmem now else g.heard }

/-- ARG1 of the events of a group's membership (R371). -/
def seasonArg (g : Group) : DWord := BitVec.ofNat 64 (g.season % 2 ^ 32 * 2 ^ 32 + g.index % 256)
/-- A spare takes its member index in a new season (R375). -/
def State.admitMember (s : State) (ctx i member node : Nat) : State :=
  match (s.ctx? ctx).bind fun c => c.group? i with
  | none => s
  | some g =>
    let g1 := { g with
      season := g.season + 1, live := g.live ||| BitVec.ofNat 256 (2 ^ member), nodes := g.nodes.set member node
      since := g.since.set member (g.season + 1)
      heard := g.heard.set member s.now, state := if member = g.self then .active else g.state }
    ((s.modGroup ctx i fun _ => g1).writeTable ctx i).post ctx 0x0A 0 (BitVec.ofNat 64 node) (seasonArg g1) 0
/-- Collective `n` of a group is to be folded next: when it begins now, the spares that wait are admitted first, and it is folded in a season that
includes them (R375). -/
def State.admitSpares (s : State) (ctx i n : Nat) : State :=
  match (s.ctx? ctx).bind fun c => c.group? i with
  | none => s
  | some g =>
    if n < g.nextSeq || (g.colls.any fun x => x.seq = n) || g.state = .expelled then s
    else g.spares.foldl (fun s p => s.admitMember ctx i p.1 p.2) (s.modGroup ctx i fun g => { g with spares := [] })

/-- A block is resident and has not ended, or is saved. -/
def State.blockLives (s : State) (ctx blk : Nat) : Bool :=
  ((s.block? blk).map fun (b : Block) => !b.isEnded).getD false ||
  ((s.ctx? ctx).map fun (c : Ctx) => c.saved.any fun b => b.id = blk).getD false
/-- COLL_CONTRIBUTION (R373, R374): a contribution reaches the folding member. That of a member that is not live, or of a season before
its index was taken over, is refused, and a unit that was killed does not contribute (R337). -/
def execCollContribution (c : Contribution) (s0 : State) : Out :=
  let s := s0.admitSpares c.ctx c.group c.seq
  .next (match (s.ctx? c.ctx).bind fun x => x.group? c.group with
    | none => s
    | some g =>
      let old := (g.colls.find? fun x => x.seq = c.seq).getD (g.begin_ c.seq)
      let gone := c.member = g.self && !((old.own.map fun (o : OwnPart) => s.blockLives c.ctx o.blk).getD true)
      if g.folder c.seq != some g.self || !g.has c.member || c.season < g.since.getD c.member 1 || !old.members.getLsbD c.member ||
          (c.seq < g.nextSeq && !(g.colls.any fun x => x.seq = c.seq)) || (old.contribs.any fun d => d.member = c.member) then s
      else
        let add (x : Collective) : Collective :=
          if gone then { x with absent := x.absent ||| BitVec.ofNat 256 (2 ^ c.member) }
          else { x with contribs := x.contribs ++ [c] }
        let s1 := s.modGroup c.ctx c.group fun g =>
          let g1 := g.modColl c.seq s.now add
          { g1 with heard := g1.heard.set c.member s.now }
        s1.tryFold c.ctx c.group c.seq)

/-! ## Results -/

/-- A journal entry (R375). -/
def journalEntry (r : CollResult) (oper dst : Nat) (written : List Byte) : List Byte :=
  bytesOf r.seq 8 ++ bytesOf r.season 4 ++ bytesOf r.code 1 ++ bytesOf oper 1 ++ bytesOf r.ncontrib 2 ++
  bytesOf written.length 4 ++ bytesOf (crc32c written) 4 ++ bytesOf dst 8 ++ bytesOf r.cmask.toNat 32 ++
  bytesOf r.pmask.toNat 32 ++ bytesOf 0 32
/-- What a collective writes of the blocks of its result at its destination: nothing in a page that has been sealed or taken away since its COLL
issued (DESIGN CHOICE, log 151), and unpredictable bytes when it does what software must not (R9). -/
def State.resultBlocks (s : State) (c : Ctx) (dst len : Nat) (xs : List (Option (List Byte))) : List (Option (List Byte)) :=
  let byte (i : Nat) : Byte := (((xs.getD (i / len) none).getD []).getD (i % len) 0)
  let bad := s.offendsBy c dst (xs.length * len) byte
  xs.mapIdx fun i x => x.bind fun bs =>
    if (s.check c .store (dst + i * len) len 1).isSome then none
    else some (if bad then s.freeBytes (i * len) bs.length else bs)
/-- Write the blocks of a result at its destination. -/
def State.writeBlocks (s : State) (c : Ctx) (dst len : Nat) : List (Option (List Byte)) → State
  | [] => s
  | x :: xs => (match x with | some bs => s.storeVa c dst bs | none => s).writeBlocks c (dst + len) len xs
/-- The status word of R378. -/
def collWord (r : CollResult) : Word := BitVec.ofNat 32 (r.ncontrib % 2 ^ 16 * 2 ^ 16 + r.code % 256)
/-- A block's handle completes, with the arrive of its barrier; a saved block's completes where it is saved (R379). -/
def State.finishColl (s : State) (ctx : Nat) (o : OwnPart) (st : Word) : State :=
  let done (b : Block) : Block :=
    { b with colls := setAt b.colls o.handle fun h => h.map fun (x : CollHandle) => { x with status := some st } }
  if (s.block? o.blk).isSome then
    let s1 := s.modBlk o.blk done
    (match o.bar with | some off => s1.barrierCopies o.blk off 0 0 1 false | none => s1).maybeEnd o.blk
  else s.modCtx ctx fun c =>
    let it := c.saved.find? fun b => b.id = o.blk
    { c with saved := c.saved.map fun b =>
        let b1 := if b.id = o.blk then done b else b
        if it.any fun x => x.node = b.node && x.index = b.index then
          (match o.bar with | some off => b1.barrierSet off 0 0 1 false | none => b1)
        else b1 }
/-- One collective of this member completes (R377): result, journal, handle, arrive. -/
def State.completeColl (s : State) (c : Ctx) (g : Group) (x : Collective) (r : CollResult) : State :=
  match x.own with
  | none => s
  | some o =>
    let lives := s.blockLives c.id o.blk
    let blocks := s.resultBlocks c o.dst o.sent.data.length (if lives && r.code ≤ 1 then r.blocks else [])
    let s1 := s.writeBlocks c o.dst o.sent.data.length blocks
    let written := blocks.flatMap fun b => b.getD []
    let s2 := s1.storeVa c (g.journal + 128 * (r.seq % 16)) (journalEntry r (o.sent.kind * 8 + o.sent.oper) o.dst written)
    let s3 := s2.modGroup c.id g.index fun g => { g with colls := g.colls.filter fun y => y.seq != r.seq }
    if lives then s3.finishColl c.id o (collWord r) else s3
/-- This member was declared lost and finds out (R374): its table says so, and its collectives complete EXPELLED. -/
def State.expel (s : State) (c : Ctx) (g : Group) : State :=
  let s1 := (s.modGroup c.id g.index fun g => { g with state := .expelled }).writeTable c.id g.index
  g.colls.foldl (fun s x => s.completeColl c g x ⟨c.id, g.index, x.seq, 5, 0, 0, 0, g.season, []⟩) s1
/-- COLL_RESULT (R373, R377): the folded result reaches this member. -/
def execCollResult (r : CollResult) (s : State) : Out :=
  .next (match s.ctx? r.ctx with
    | none => s
    | some c =>
      match c.group? r.group with
      | none => s
      | some g =>
        if r.code = 5 then s.expel c g
        else match g.colls.find? fun x => x.seq = r.seq with
          | some x => if x.own.isNone then
                s.modGroup c.id g.index fun g => { g with colls := g.colls.filter fun y => y.seq != r.seq }
              else s.completeColl c g x r
          | none => s)

/-! ## Membership (R373-R375) -/

/-- A group has a collective in flight. -/
def Group.busy (g : Group) : Bool := !g.colls.isEmpty
/-- Members whose heartbeat is due: live, on a node that is not lost, unheard for 100 µs. -/
def State.beats (s : State) (g : Group) : List Nat :=
  (List.range g.nmem).filter fun i => g.has i && !s.lostNodes.contains (g.nodes.getD i 0) &&
    g.heard.getD i 0 + 100 * Config.cyclesPerUs ≤ s.now
/-- COLL_HEARTBEAT (R373): the heartbeats of the members arrive. -/
def execCollHeartbeat (ctx group : Nat) (s : State) : Out :=
  .next (s.modGroup ctx group fun g =>
    if !g.busy then g else { g with heard := (s.beats g).foldl (fun h i => h.set i s.now) g.heard })
/-- A member has been silent for 1 ms. -/
def Group.silent (g : Group) (m now : Nat) : Bool :=
  g.busy && g.has m && m != g.self && g.heard.getD m 0 + Config.cyclesPerMs ≤ now
/-- After a change of the members, this member's contributions are sent again to a folding member that is new, and complete
collectives are folded. -/
def State.refold (s : State) (ctx i : Nat) (old : Group) : State :=
  old.colls.foldl (fun s x =>
    match (s.ctx? ctx).bind fun c => c.group? i with
    | none => s
    | some g =>
      let s1 := match x.own with
        | some o => if g.folder x.seq != old.folder x.seq && g.folder x.seq = some g.self then
            s.push (.collContribution { o.sent with season := g.season }) else s
        | none => s
      s1.tryFold ctx i x.seq) s
/-- GROUP_TIMEOUT (R363, R374): a silent member is lost, and a new season begins. -/
def execGroupTimeout (ctx group member : Nat) (s : State) : Out :=
  .next (match (s.ctx? ctx).bind fun c => c.group? group with
    | none => s
    | some g =>
      if !g.silent member s.now then s
      else
        let g1 := { g with season := g.season + 1, live := g.live &&& ~~~(BitVec.ofNat 256 (2 ^ member)) }
        let s1 := ((s.modGroup ctx group fun _ => g1).writeTable ctx group).post ctx 0x09 0
          (BitVec.ofNat 64 (g.nodes.getD member 0)) (seasonArg g1) 0
        s1.refold ctx group g)
/-- SPARE_ADMISSION (R375): the replay of a spare that takes a free member index is over; it is admitted when the next collective begins. -/
def execSpareAdmission (ctx group member node : Nat) (s : State) : Out :=
  .next (s.modGroup ctx group fun g =>
    if g.has member || member ≥ g.nmem || g.state = .expelled || (g.spares.any fun p => p.1 = member) then g
    else { g with spares := g.spares ++ [(member, node)] })

/-! ## COLL and COLLQ -/

/-- The handle a COLL takes (R379): the lowest whose collective has completed, or that none holds. -/
def Block.takeColl (b : Block) : Option Nat :=
  (List.range 4).find? fun h => match b.colls.getD h none with
    | none => true
    | some x => x.status.isSome
/-- A COLL's operands. -/
structure CollArgs where
  dst   : Nat
  src   : Nat
  len   : Nat
  kind  : Nat
  oper  : Nat
  root  : Nat
  group : Nat
  bar   : Option Nat
  deriving DecidableEq, Repr
/-- The operands of a COLL (R376, R377). -/
def State.collArgs (s : State) (f : Fields) : CollArgs where
  dst := s.uniPair f.va.toNat
  src := s.uniPair f.vc.toNat
  len := s.uniB f
  kind := f.m 7 6
  oper := f.m 5 3
  root := f.e 15 8
  group := f.e 3 0
  bar := if f.isF128 && f.ext.getLsbD 63 then some (f.e 55 32) else none
/-- Take a handle for a collective, with the status it has at once. -/
def State.holdColl (s : State) (h group n : Nat) (st : Option Word) : State :=
  let s1 := s.spoilRegion
  { s1 with blk := { s1.blk with colls := s1.blk.colls.set h (some ⟨group, n, st, s.wp.idx, s.iss.named⟩) } }
/-- VD takes the handle, in both copies of a pair. -/
def State.giveColl (s : State) (f : Fields) (h : Nat) : State :=
  (s.forward (.values (s.en f) [.u (BitVec.ofNat 32 h)])).alu f (.u (BitVec.ofNat 32 h))
/-- Issue a COLL on a group that is created: its handle, its number, its barrier and its contribution. -/
def State.issueColl (s0 : State) (f : Fields) (c : Ctx) (g0 : Group) (a : CollArgs) (h : Nat) : State :=
  let n := g0.nextSeq
  let s := s0.admitSpares c.id g0.index n
  let g := (((s.ctx? c.id).bind fun c => c.group? g0.index)).getD g0
  let x : Contribution := ⟨c.id, g.index, n, g.self, g.season, (s.consumed c a.src a.len).isSome, a.kind, a.oper, a.root,
    s.loadVa c a.src a.len⟩
  let own : OwnPart := ⟨s.blk.id, h, a.dst, a.bar, x⟩
  let s1 := s.modGroup c.id g.index fun g =>
    { g with nextSeq := n + 1 }.modColl n s.now fun y => { y with own := some own }
  let s2 := s1.storeNum c (g.table + 0x10) (n + 1) 8
  let s3 := (s2.holdColl h g.index n none).giveColl f h
  let s3 := match a.bar with | some off => s3.barrierCopies s.blk.id off 0 0 0 false | none => s3
  if g.state = .expelled then
    s3.push (.collResult ⟨c.id, g.index, n, 5, 0, 0, 0, g.season, []⟩)
  else if g.folder n = some g.self then s3.push (.collContribution x) else s3
/-- A failed check of an operation the leading copy performs: a trap is forwarded to the trailing copy (R345). -/
def State.failPaired (s : State) (x : Fail) (m : Mask) (kind : Nat) : State :=
  match x with
  | .trap cause _ _ => (s.forward (.trap (BitVec.ofNat 8 cause) x.addr m)).failWith x m kind
  | _ => s.failWith x m kind
/-- COLL of a context that passed its checks of alignment and bounds (R377). -/
def State.collHere (s : State) (f : Fields) (a : CollArgs) : State :=
  match s.ctx? s.blk.ctx with
  | none => s
  | some c =>
    let take (k : State → Nat → State) : State := match s.blk.takeColl with
      | none => s.waitRetry s.iss.lanes
      | some h => k s h
    match c.group? a.group with
    | none => take fun s h => ((s.holdColl h a.group 0 (some 6)).forward (.values (s.en f) [])).advance
    | some g =>
      let out := if a.kind = 2 then g.nmem * a.len else a.len
      match (s.check c .load a.src a.len 1), (s.check c .store a.dst out 1) with
      | some x, _ => s.failPaired x (s.en f) 0
      | none, some x => s.failPaired x (s.en f) 1
      | none, none => take fun s h => s.issueColl f c g a h
/-- COLL (R377): once per issue; in paired execution the leading copy performs it. -/
def execColl (f : Fields) (s : State) : Out :=
  let en := s.en f
  .next ((s.markNonIdem f).whenEnabled f fun s =>
    s.needU ([f.va.toNat, f.va.toNat + 1, f.vc.toNat, f.vc.toNat + 1] ++ uniRegB f) fun s =>
      let a := s.collArgs f
      let off := a.bar.getD 0
      if a.dst % 256 != 0 || a.src % 256 != 0 || a.len % 256 != 0 then
        s.trap 0x08 (BitVec.ofNat 64 ((if a.dst % 256 != 0 then a.dst else if a.src % 256 != 0 then a.src else a.len) % 2 ^ 57)) en
      else if a.bar.isSome && off % 8 != 0 then s.trap 0x08 (BitVec.ofNat 64 off) en
      else if a.bar.isSome && off + 8 > s.blk.header.scratch then s.trap 0x09 (BitVec.ofNat 64 off) en
      else s.lostFirst fun s =>
        s.paired 4 [0xB3, f.mod.toNat, a.dst, a.src, a.len, a.root, a.group, if a.bar.isSome then off + 1 else 0] [] en
          (fun s => s.collHere f a)
          fun s m vals => vals.foldl (fun s v => s.writeReg f.vd.toNat m v) s.spoilRegion)
/-- The status word and SEQ of a handle (R378). -/
def Block.collStatus (b : Block) (h : Nat) : Word × Word :=
  match (if h < 4 then b.colls.getD h none else none) with
  | none => (3, 0)
  | some x => (x.status.getD 2, BitVec.ofNat 32 x.seq)
/-- COLLQ (R378). -/
def execCollq (f : Fields) (s : State) : Out :=
  let en := s.en f
  let put (s : State) (m : Mask) (vals : List RegVal) : State := s.pend f.la.toNat true m (destRegs f.vd.toNat vals)
  .next (s.whenEnabled f fun s => s.needU (uniRegB f) fun s =>
    if s.blk.copy = .trailing then s.trailing en put
    else
      let st := s.blk.collStatus (s.uniB f)
      let vals : List RegVal := [.u st.1, .u st.2]
      (put (s.forward (.values en vals)) en vals).advance)

end Sys2Proof.Machine
end

