-- ==== Sys2Proof/Machine/Convert.lean ====
section
/-! DEFINITION. The conversions CVT, CVTP, CVTU and SCALE, opcodes 0x56-0x59 (R202-R204), with the stochastic draws of
R184 and R185. -/
namespace Sys2Proof.Machine

/-- The rounding code and `.sat` of the conversion control; zero in F64 (R202). -/
def cvtRnd (f : Fields) : Nat := bits f.imm.toNat 0 3
def cvtSat (f : Fields) : Bool := bit f.imm.toNat 3
/-- The stochastic state after `n` draws. -/
def srAfter (x : Word) : Nat → Word
  | 0 => x
  | n + 1 => srAfter (srNext x) n
/-- Every thread of `m` draws `n` times (R184). -/
def State.draw (s : State) (m : Mask) (n : Nat) : State :=
  { s with wp := s.wp.mapThreads m fun _ t => { t with sr := srAfter t.sr n } }

/-- CVT (R202). With `.rs` the result is V and every enabled thread draws once (R193). -/
def execCvt (f : Fields) (s : State) : Out :=
  let a := s.rvA f
  let rs := cvtRnd f = 4
  let g (l : Nat) : Nat × FpFlags :=
    convert (cvType (f.m 3 0)) (cvType (f.m 7 4)) (cvtRnd f) (srDraw (s.wp.thread l).sr) (cvtSat f) (a.at l).toNat
  .next ((if rs then s.draw (s.en f) 1 else s).fpAlu f (!rs && allU [a]) g)

/-- The source type of a packed destination: FP32, or `.s32` for INT8 and INT4 (R203). -/
def unpackedType (t : Nat) : CvType := if t ≥ 8 then cvType 6 else cvType 0
/-- CVTP (R203): the elements ascending, each drawing once with `.rs`. -/
def execCvtp (f : Fields) (s : State) : Out :=
  let t := f.m 3 0
  let n := packCount t
  let rs := cvtRnd f = 4
  let srcs := (List.range n).map fun i => s.wp.rv (f.va.toNat + i)
  let g (l : Nat) : Nat × FpFlags :=
    (List.range n).foldl (fun acc i =>
      let r := convert (unpackedType t) (cvType t) (cvtRnd f) (srDraw (srAfter (s.wp.thread l).sr i)) (cvtSat f)
        (s.wp.val (f.va.toNat + i) l).toNat
      (acc.1 + r.1 * 2 ^ (32 / n * i), acc.2 ||| r.2)) (0, 0)
  .next ((if rs then s.draw (s.en f) n else s).fpAlu f (!rs && allU srcs) g)

/-- CVTU (R203): exact, and no flag but IV for a signalling NaN. -/
def execCvtu (f : Fields) (s : State) : Out :=
  let t := f.m 3 0
  let n := packCount t
  let a := s.rvA f
  let en := s.en f
  let g (i l : Nat) : Nat × FpFlags :=
    let r := convert (cvType t) (unpackedType t) 0 0 false (bits (a.at l).toNat (32 / n * i) (32 / n))
    (r.1, r.2 &&& flagIV)
  let s1 := s.writeRegs en ((List.range n).map fun i => (f.vd.toNat + i, fpVal (allU [a]) (g i)))
  let fl := fpFlags en (allU [a]) fun l => (List.range n).foldl (fun x i => x ||| (g i l).2) 0
  .next ((s1.raise fl).advance)

/-- SCALE (R204). -/
def execScale (f : Fields) (s : State) : Out :=
  let a := s.rvA f
  let b := s.rvB f
  .next (s.fpAlu f (allU [a, b]) fun l =>
    scaleWord (f.m 6 4) (f.b 2) (a.at l).toNat (bits (b.at l).toNat (8 * f.m 1 0) 8))

end Sys2Proof.Machine
end

