-- ==== Sys2Proof/Machine/Float.lean ====
section
/-! DEFINITION. The float instructions, opcodes 0x40-0x55 and 0x5A (R190-R201). -/
namespace Sys2Proof.Machine

/-- `.ftz` and the rounding code of the float class (R192). -/
def ftzBit (f : Fields) : Bool := f.b 3
def rndCode (f : Fields) : Nat := f.m 2 0
/-- The 16-bit format of the packed class (R192). -/
def packFmt (f : Fields) : Fmt := if f.b 4 then bf16 else fp16

/-- FADD, FSUB and FMUL (R194). -/
def State.fp2 (s : State) (f : Fields) (op : FpOp) : State :=
  let a := s.rvA f
  let b := s.rvB f
  s.fpAlu f (allU [a, b]) fun l => fp32.arith op (rndCode f) (ftzBit f) (a.at l).toNat (b.at l).toNat 0
/-- FADD (R194). -/
def execFadd (f : Fields) (s : State) : Out := .next (s.fp2 f .add)
/-- FSUB (R194). -/
def execFsub (f : Fields) (s : State) : Out := .next (s.fp2 f .sub)
/-- FMUL (R194). -/
def execFmul (f : Fields) (s : State) : Out := .next (s.fp2 f .mul)
/-- FFMA (R194). -/
def execFfma (f : Fields) (s : State) : Out :=
  let a := s.rvA f
  let b := s.rvB f
  let c := s.rvC f
  .next (s.fpAlu f (allU [a, b, c]) fun l =>
    fp32.arith .fma (rndCode f) (ftzBit f) (a.at l).toNat (b.at l).toNat (c.at l).toNat)

/-- FMIN and FMAX (R195). -/
def State.fpMinmax (s : State) (f : Fields) (greater : Bool) : State :=
  let a := s.rvA f
  let b := s.rvB f
  s.fpAlu f (allU [a, b]) fun l => fp32.minmax greater (f.b 4) (ftzBit f) (a.at l).toNat (b.at l).toNat
/-- FMIN (R195). -/
def execFmin (f : Fields) (s : State) : Out := .next (s.fpMinmax f false)
/-- FMAX (R195). -/
def execFmax (f : Fields) (s : State) : Out := .next (s.fpMinmax f true)

/-- FCMP (R196). -/
def execFcmp (f : Fields) (s : State) : Out :=
  let a := s.rvA f
  let b := s.rvB f
  let en := s.en f
  let g (l : Nat) : Bool × FpFlags := fcmpWord (f.m 2 0) (ftzBit f) (a.at l).toNat (b.at l).toNat
  let q (l : Nat) : Bool :=
    match f.m 5 4 with
    | 0 => (g l).1
    | 1 => (g l).1 && s.wp.pred f.vc.toNat l
    | 2 => (g l).1 || s.wp.pred f.vc.toNat l
    | _ => (g l).1 != s.wp.pred f.vc.toNat l
  .next (((s.writePred f.vd.toNat en q).raise (fpFlags en (allU [a, b]) fun l => (g l).2)).advance)

/-- The unary functions of R197. -/
def State.fp1 (s : State) (f : Fields) (u : Unary) (op : Nat) : State :=
  let a := s.rvA f
  s.fpLong f (allU [a]) fun l => u.apply op (rndCode f) (ftzBit f) (a.at l).toNat
/-- FRCP (R197, R198). -/
def execFrcp (f : Fields) (s : State) : Out := .next (s.fp1 f .rcp 0x47)
/-- FRSQ (R197, R198). -/
def execFrsq (f : Fields) (s : State) : Out := .next (s.fp1 f .rsq 0x48)
/-- FSQRT (R197, R198). -/
def execFsqrt (f : Fields) (s : State) : Out := .next (s.fp1 f .sqrt 0x49)
/-- FEXP2 (R197, R198). -/
def execFexp2 (f : Fields) (s : State) : Out := .next (s.fp1 f .exp2 0x4A)
/-- FLOG2 (R197, R198). -/
def execFlog2 (f : Fields) (s : State) : Out := .next (s.fp1 f .log2 0x4B)
/-- FSIN (R197, R198). -/
def execFsin (f : Fields) (s : State) : Out := .next (s.fp1 f .sin 0x4C)
/-- FCOS (R197, R198). -/
def execFcos (f : Fields) (s : State) : Out := .next (s.fp1 f .cos 0x4D)
/-- FTANH (R197, R198). -/
def execFtanh (f : Fields) (s : State) : Out := .next (s.fp1 f .tanh 0x4E)

/-- FRND (R199). -/
def execFrnd (f : Fields) (s : State) : Out :=
  let a := s.rvA f
  .next (s.fpAlu f (allU [a]) fun l => frndWord (rndCode f) (ftzBit f) (a.at l).toNat)
/-- FCLASS (R199). -/
def execFclass (f : Fields) (s : State) : Out :=
  let a := s.rvA f
  .next (s.fpAlu f (allU [a]) fun l => (fclassWord (a.at l).toNat, 0))

/-- An operation on the two 16-bit halves, with the flags of both (R200). -/
def byHalves (g : Nat → Nat → Nat → Nat × FpFlags) (a b c : Word) : Nat × FpFlags :=
  let h (x : Word) (i : Nat) : Nat := bits x.toNat (16 * i) 16
  let r0 := g (h a 0) (h b 0) (h c 0)
  let r1 := g (h a 1) (h b 1) (h c 1)
  (r1.1 * 2 ^ 16 + r0.1, r0.2 ||| r1.2)
/-- PADD2 and PMUL2 (R200). -/
def State.packed2 (s : State) (f : Fields) (op : FpOp) : State :=
  let a := s.rvA f
  let b := s.rvB f
  s.fpAlu f (allU [a, b]) fun l =>
    byHalves (fun x y _ => (packFmt f).arith op (rndCode f) (ftzBit f) x y 0) (a.at l) (b.at l) 0
/-- PADD2 (R200). -/
def execPadd2 (f : Fields) (s : State) : Out := .next (s.packed2 f .add)
/-- PMUL2 (R200). -/
def execPmul2 (f : Fields) (s : State) : Out := .next (s.packed2 f .mul)
/-- PFMA2 (R200). -/
def execPfma2 (f : Fields) (s : State) : Out :=
  let a := s.rvA f
  let b := s.rvB f
  let c := s.rvC f
  .next (s.fpAlu f (allU [a, b, c]) fun l =>
    byHalves (fun x y z => (packFmt f).arith .fma (rndCode f) (ftzBit f) x y z) (a.at l) (b.at l) (c.at l))
/-- PMIN2 and PMAX2 (R200). -/
def State.packedMinmax (s : State) (f : Fields) (greater : Bool) : State :=
  let a := s.rvA f
  let b := s.rvB f
  s.fpAlu f (allU [a, b]) fun l =>
    byHalves (fun x y _ => (packFmt f).minmax greater (f.b 5) (ftzBit f) x y) (a.at l) (b.at l) 0
/-- PMIN2 (R200). -/
def execPmin2 (f : Fields) (s : State) : Out := .next (s.packedMinmax f false)
/-- PMAX2 (R200). -/
def execPmax2 (f : Fields) (s : State) : Out := .next (s.packedMinmax f true)
/-- FDOT2 (R201). -/
def execFdot2 (f : Fields) (s : State) : Out :=
  let a := s.rvA f
  let b := s.rvB f
  let c := s.rvC f
  .next (s.fpAlu f (allU [a, b, c]) fun l =>
    fdot2Word (packFmt f) (rndCode f) (ftzBit f) (a.at l).toNat (b.at l).toNat (c.at l).toNat)

end Sys2Proof.Machine
end

