-- ==== Sys2Proof/Machine/Integer.lean ====
section
/-! DEFINITION. The integer and address instructions, opcodes 0x18-0x39 (R132-R147). -/
namespace Sys2Proof.Machine

/-! ## Lane functions -/

/-- Clamp an exact value to a range. -/
def clampInt (x lo hi : Int) : Int := if x < lo then lo else if x > hi then hi else x
/-- The signed saturating result (R138). -/
def satS (x : Int) : Word := BitVec.ofInt 32 (clampInt x (-2 ^ 31) (2 ^ 31 - 1))
/-- The unsigned saturating result. -/
def satU (x : Int) : Word := BitVec.ofInt 32 (clampInt x 0 (2 ^ 32 - 1))
/-- A saturating sum or difference is clamped (R138, R188): by mode as in `addMode`. -/
def addClamps (sub : Bool) (mode : Nat) (a b : Word) : Bool :=
  let g (x y : Int) : Int := if sub then x - y else x + y
  match mode with
  | 0 => false
  | 1 => let x := g a.toInt b.toInt; x < -2 ^ 31 || x > 2 ^ 31 - 1
  | _ => let x := g a.toNat b.toNat; x < 0 || x > 2 ^ 32 - 1
/-- IADD and ISUB by mode (R138): 0 wraps, 1 `.ss`, 2 `.us`. -/
def addMode (sub : Bool) (mode : Nat) (a b : RegVal) : RegVal :=
  if mode = 0 then if sub then a.sub b else a.add b
  else
    let g (x y : Int) : Int := if sub then x - y else x + y
    if mode = 1 then lift2 (fun x y => satS (g x.toInt y.toInt)) a b
    else lift2 (fun x y => satU (g x.toNat y.toNat)) a b
/-- IMULH (R139): 0 `.u`, 1 `.s`, 2 `.su`. -/
def mulHigh (mode : Nat) (a b : Word) : Word :=
  let x : Int := if mode = 0 then a.toNat else a.toInt
  let y : Int := if mode = 1 then b.toInt else b.toNat
  BitVec.ofInt 32 ((x * y) / 2 ^ 32)
/-- IMAD64's product extended to 64 bits and added (R139). -/
def mad64 (signed : Bool) (a b : Word) (c : DWord) : DWord :=
  if signed then a.signExtend 64 * b.signExtend 64 + c else a.setWidth 64 * b.setWidth 64 + c
/-- a ≤ b, signed or unsigned. -/
def wle (signed : Bool) (a b : Word) : Bool := if signed then a.sle b else a.ule b
/-- IMIN and IMAX (R141). -/
def iminWord (signed : Bool) (a b : Word) : Word := if wle signed a b then a else b
def imaxWord (signed : Bool) (a b : Word) : Word := if wle signed b a then a else b
/-- IABS (R141). -/
def iabsWord (sat : Bool) (a : Word) : Word :=
  if sat && a = 0x80000000 then 0x7FFFFFFF else if a.msb then 0 - a else a
/-- The result bit by bit from a truth table (R142). -/
def lop3Word (t : BitVec 8) (a b c : Word) : Word :=
  BitVec.ofNat 32 (bitsOf (fun i => t.getLsbD ((if a.getLsbD i then 1 else 0) + (if b.getLsbD i then 2 else 0) +
    (if c.getLsbD i then 4 else 0))) 32)
/-- Shift amounts (R143). -/
def shiftAmt (wrap : Bool) (k : Word) : Word := if wrap then k &&& 31 else k
def shrWord (a k : Word) : Word := if k.toNat < 32 then a >>> k.toNat else 0
def sarWord (a k : Word) : Word := if k.toNat < 32 then a.sshiftRight k.toNat else if a.msb then 0xFFFFFFFF else 0
def rotlWord (a k : Word) : Word := let n := k.toNat % 32; (a <<< n) ||| (a >>> (32 - n))
/-- SHF (R143). -/
def shfWord (hi wrap : Bool) (a b c : Word) : Word :=
  let x : DWord := c ++ a
  let k : Int := if wrap then ((b.toInt + 32) % 64) - 32 else clampInt b.toInt (-64) 64
  let y : DWord := if k ≥ 0 then x <<< k.toNat else x >>> (-k).toNat
  if hi then (y >>> 32).setWidth 32 else y.setWidth 32
/-- POPC, CLZ and BREV (R144). -/
def popcWord (a : Word) : Word := BitVec.ofNat 32 ((List.range 32).filter a.getLsbD).length
def clzWord (a : Word) : Word := BitVec.ofNat 32 (((List.range 32).map fun i => a.getLsbD (31 - i)).takeWhile (!·)).length
def brevWord (a : Word) : Word := BitVec.ofNat 32 (bitsOf (fun i => a.getLsbD (31 - i)) 32)
/-- BFE (R144). -/
def bfeWord (signed : Bool) (a b : Word) : Word :=
  let pos := b.toNat % 256
  let len := min (b.toNat / 256 % 256) 32
  let x (i : Nat) : Bool := if i < 32 then a.getLsbD i else signed && a.msb
  if len = 0 then 0
  else BitVec.ofNat 32 (bitsOf (fun i => if i < len then x (pos + i) else signed && x (pos + len - 1)) 32)
/-- BFI (R144). -/
def bfiWord (a b c : Word) : Word :=
  let pos := b.toNat % 256
  let len := min (b.toNat / 256 % 256) 32
  BitVec.ofNat 32 (bitsOf (fun i => if pos ≤ i && i < pos + len then a.getLsbD (i - pos) else c.getLsbD i) 32)
/-- A byte with its bits reversed. -/
def brev8 (b : Byte) : Byte := BitVec.ofNat 8 (bitsOf (fun i => b.getLsbD (7 - i)) 8)
/-- Byte `n` of a 64-bit value. -/
def byteAt (x : DWord) (n : Nat) : Byte := (x >>> (8 * n)).setWidth 8
/-- PRMT (R144). -/
def prmtWord (a b c : Word) : Word :=
  let x : DWord := b ++ a
  let y (i : Nat) : Byte :=
    let n := bits c.toNat (4 * i) 4
    if n ≤ 7 then byteAt x n
    else if n = 8 then 0
    else if n = 9 then 0xFF
    else if n ≤ 13 then if (byteAt x (2 * (n - 10) + 1)).msb then 0xFF else 0
    else if n = 14 then brev8 (byteAt (a.setWidth 64) i)
    else brev8 (byteAt (b.setWidth 64) i)
  y 3 ++ y 2 ++ y 1 ++ y 0
/-- The comparison of ICMP (R145). -/
def icmpWord (cond : Nat) (signed : Bool) (a b : Word) : Bool :=
  match cond with
  | 0 => a == b
  | 1 => a != b
  | 2 => !wle signed b a
  | 3 => wle signed a b
  | 4 => !wle signed a b
  | _ => wle signed b a
/-- The combination with a predicate (R145, R196): 0 none, 1 and, 2 or, 3 xor. -/
def combine (mode : Nat) (q p : Bool) : Bool :=
  match mode with
  | 0 => q
  | 1 => q && p
  | 2 => q || p
  | _ => q != p
/-- The exact sum of IDOT4 (R147). -/
def dot4Sum (sa sb sat : Bool) (a b c : Word) : Int :=
  let ext (s : Bool) (x : Byte) : Int := if s then x.toInt else x.toNat
  let c0 : Int := if sat && (sa || sb) then c.toInt else c.toNat
  (List.range 4).foldl (fun t i => t + ext sa (byteAt (a.setWidth 64) i) * ext sb (byteAt (b.setWidth 64) i)) c0
/-- IDOT4 (R147). -/
def dot4 (sa sb sat : Bool) (a b c : Word) : Word :=
  let sum := dot4Sum sa sb sat a b c
  if !sat then BitVec.ofInt 32 sum else if sa || sb then satS sum else satU sum
/-- A saturating IDOT4 is clamped (R188). -/
def dot4Clamps (sa sb sat : Bool) (a b c : Word) : Bool :=
  let sum := dot4Sum sa sb sat a b c
  sat && if sa || sb then sum < -2 ^ 31 || sum > 2 ^ 31 - 1 else sum < 0 || sum > 2 ^ 32 - 1

/-! ## Meanings -/

/-- IADD (R138). -/
def execIadd (f : Fields) (s : State) : Out :=
  let a := s.rvA f
  let b := s.rvB f
  let x := addMode false (f.m 1 0) a b
  let s1 := s.writeReg f.vd.toNat (s.en f) x
  let s2 := if f.b 2 then s1.writePred f.vc.toNat (s.en f) fun l => (a.at l).toNat + (b.at l).toNat ≥ 2 ^ 32 else s1
  .next (s2.raiseSat (s.en f) fun l => addClamps false (f.m 1 0) (a.at l) (b.at l)).advance
/-- ISUB (R138). -/
def execIsub (f : Fields) (s : State) : Out :=
  let a := s.rvA f
  let b := s.rvB f
  .next ((s.writeReg f.vd.toNat (s.en f) (addMode true (f.m 1 0) a b)).raiseSat (s.en f) fun l =>
    addClamps true (f.m 1 0) (a.at l) (b.at l)).advance
/-- IMUL (R139). -/
def execImul (f : Fields) (s : State) : Out := .next (s.alu f ((s.rvA f).mul (s.rvB f)))
/-- IMULH (R139). -/
def execImulh (f : Fields) (s : State) : Out := .next (s.alu f (lift2 (mulHigh (f.m 1 0)) (s.rvA f) (s.rvB f)))
/-- IMAD (R139, R103). -/
def execImad (f : Fields) (s : State) : Out := .next (s.alu f (((s.rvA f).mul (s.rvB f)).add (s.rvC f)))
/-- IMAD64 (R139, R137). -/
def execImad64 (f : Fields) (s : State) : Out :=
  let a := s.rvA f
  let b := s.rvB f
  let c := f.vc.toNat
  .next (s.aluPair f (lift3w (fun l => mad64 (f.b 0) (a.at l) (b.at l) (s.wp.pair c l))
    (allU [a, b, s.wp.rv c, s.wp.rv (c + 1)])))
/-- IMIN (R141). -/
def execImin (f : Fields) (s : State) : Out := .next (s.alu f (lift2 (iminWord (f.b 0)) (s.rvA f) (s.rvB f)))
/-- IMAX (R141). -/
def execImax (f : Fields) (s : State) : Out := .next (s.alu f (lift2 (imaxWord (f.b 0)) (s.rvA f) (s.rvB f)))
/-- IABS (R141). -/
def execIabs (f : Fields) (s : State) : Out :=
  let a := s.rvA f
  .next ((s.writeReg f.vd.toNat (s.en f) (lift1 (iabsWord (f.b 0)) a)).raiseSat (s.en f) fun l =>
    f.b 0 && a.at l = 0x80000000).advance
/-- IADDC (R138, R137). -/
def execIaddc (f : Fields) (s : State) : Out :=
  let a := s.rvA f
  let b := s.rvB f
  let en := s.en f
  let pc := f.vc.toNat
  let cin (l : Nat) : Nat := if s.wp.pred pc l then 1 else 0
  let sum (l : Nat) : Nat := (a.at l).toNat + (b.at l).toNat + cin l
  let x : RegVal :=
    if allU [a, b] && ((Mask.lanes en).all fun l => cin l = cin (Mask.low en)) then
      .u (BitVec.ofNat 32 (sum (Mask.low en)))
    else .lanes fun l => BitVec.ofNat 32 (sum l)
  let s1 := s.writeReg f.vd.toNat en x
  let s2 := if f.b 2 then s1.writePred pc en fun l => sum l ≥ 2 ^ 32 else s1
  .next s2.advance
/-- AND (R142). -/
def execAnd (f : Fields) (s : State) : Out := .next (s.alu f (lift2 (· &&& ·) (s.rvA f) (s.rvB f)))
/-- OR (R142). -/
def execOr (f : Fields) (s : State) : Out := .next (s.alu f (lift2 (· ||| ·) (s.rvA f) (s.rvB f)))
/-- XOR (R142). -/
def execXor (f : Fields) (s : State) : Out := .next (s.alu f (lift2 (· ^^^ ·) (s.rvA f) (s.rvB f)))
/-- ANDN (R142). -/
def execAndn (f : Fields) (s : State) : Out := .next (s.alu f (lift2 (fun a b => a &&& ~~~b) (s.rvA f) (s.rvB f)))
/-- SHL (R143, R137). -/
def execShl (f : Fields) (s : State) : Out :=
  let k := s.rvB f
  let k := if f.b 0 then lift1 (shiftAmt true) k else k
  .next (s.alu f ((s.rvA f).shl k))
/-- SHR (R143). -/
def execShr (f : Fields) (s : State) : Out :=
  .next (s.alu f (lift2 (fun a k => shrWord a (shiftAmt (f.b 0) k)) (s.rvA f) (s.rvB f)))
/-- SAR (R143). -/
def execSar (f : Fields) (s : State) : Out :=
  .next (s.alu f (lift2 (fun a k => sarWord a (shiftAmt (f.b 0) k)) (s.rvA f) (s.rvB f)))
/-- ROTL (R143). -/
def execRotl (f : Fields) (s : State) : Out := .next (s.alu f (lift2 rotlWord (s.rvA f) (s.rvB f)))
/-- POPC (R144). -/
def execPopc (f : Fields) (s : State) : Out := .next (s.alu f (lift1 popcWord (s.rvA f)))
/-- CLZ (R144). -/
def execClz (f : Fields) (s : State) : Out := .next (s.alu f (lift1 clzWord (s.rvA f)))
/-- BREV (R144). -/
def execBrev (f : Fields) (s : State) : Out := .next (s.alu f (lift1 brevWord (s.rvA f)))
/-- BFE (R144). -/
def execBfe (f : Fields) (s : State) : Out := .next (s.alu f (lift2 (bfeWord (f.b 0)) (s.rvA f) (s.rvB f)))
/-- BFI (R144). -/
def execBfi (f : Fields) (s : State) : Out := .next (s.alu f (lift3 bfiWord (s.rvA f) (s.rvB f) (s.rvC f)))
/-- SEL (R145, R103): U when both sources are U with equal values, else V. -/
def execSel (f : Fields) (s : State) : Out :=
  let a := s.rvA f
  let b := s.rvB f
  let x : RegVal :=
    if allU [a, b] && a.at 0 = b.at 0 then .u (a.at 0)
    else .lanes fun l => if s.wp.pred f.vc.toNat l then a.at l else b.at l
  .next (s.alu f x)
/-- ICMP (R145). -/
def execIcmp (f : Fields) (s : State) : Out :=
  let a := s.rvA f
  let b := s.rvB f
  .next (s.aluPred f fun l =>
    combine (f.m 5 4) (icmpWord (f.m 2 0) (f.b 3) (a.at l) (b.at l)) (s.wp.pred f.vc.toNat l))
/-- The four registers of two pairs are U (R104, R137); an immediate is a U source. -/
def State.pairsU (s : State) (f : Fields) : Bool :=
  s.wp.pairShape f.va.toNat = 0 && (f.isF96 || s.wp.pairShape f.vb.toNat = 0)
/-- IADD64 (R140). -/
def execIadd64 (f : Fields) (s : State) : Out :=
  .next (s.aluPair f (lift3w (fun l => s.wp.pair f.va.toNat l + s.pairB f l) (s.pairsU f)))
/-- ISUB64 (R140). -/
def execIsub64 (f : Fields) (s : State) : Out :=
  .next (s.aluPair f (lift3w (fun l => s.wp.pair f.va.toNat l - s.pairB f l) (s.pairsU f)))
/-- SHF (R143). -/
def execShf (f : Fields) (s : State) : Out :=
  .next (s.alu f (lift3 (shfWord (f.b 0) (f.b 1)) (s.rvA f) (s.rvB f) (s.rvC f)))
/-- LEA.x64's high and low words by lane, and the shape of R146. -/
def State.lea64 (s : State) (f : Fields) : RegVal × RegVal :=
  let a := f.va.toNat
  let k := f.m 4 0
  let idx := s.rvB f
  let i (l : Nat) : DWord := if f.b 6 then (idx.at l).signExtend 64 else (idx.at l).setWidth 64
  let x (l : Nat) : DWord := s.wp.pair a l + (i l <<< k)
  let hi (l : Nat) : Word := (x l >>> 32).setWidth 32
  let live := s.wp.live
  let lo := (s.wp.rv a).add (idx.shl (.u (BitVec.ofNat 32 k)))
  if s.wp.pairShape a = 0 && lo.compact && ((Mask.lanes live).all fun l => hi l = hi (Mask.low live)) then
    (lo, .u (hi (Mask.low live)))
  else halves x
/-- LEA (R146). -/
def execLea (f : Fields) (s : State) : Out :=
  if f.b 5 then .next (s.aluPair f (s.lea64 f))
  else .next (s.alu f ((s.rvA f).add ((s.rvB f).shl (.u (BitVec.ofNat 32 (f.m 4 0))))))
/-- MOV (R145). -/
def execMov (f : Fields) (s : State) : Out := .next (s.alu f (s.rvB f))
/-- IDOT4 (R147). -/
def execIdot4 (f : Fields) (s : State) : Out :=
  let a := s.rvA f
  let b := s.rvB f
  let c := s.rvC f
  .next ((s.writeReg f.vd.toNat (s.en f) (lift3 (dot4 (f.b 0) (f.b 1) (f.b 2)) a b c)).raiseSat (s.en f) fun l =>
    dot4Clamps (f.b 0) (f.b 1) (f.b 2) (a.at l) (b.at l) (c.at l)).advance
/-- LOP3 (R142). -/
def execLop3 (f : Fields) (s : State) : Out :=
  .next (s.alu f (lift3 (lop3Word f.mod) (s.rvA f) (s.rvB f) (s.rvC f)))
/-- PRMT (R144). -/
def execPrmt (f : Fields) (s : State) : Out := .next (s.alu f (lift3 prmtWord (s.rvA f) (s.rvB f) (s.rvC f)))

/-- A special value (R132) as one or two shaped words. -/
def State.special (s : State) (sel : Nat) : List RegVal :=
  let n (x : Nat) : List RegVal := [.u (BitVec.ofNat 32 x)]
  match sel with
  | 0 => [.a 0 1]
  | 1 => n s.wp.idx
  | 2 => n s.wp.role
  | 3 => n s.blk.index
  | 4 => n s.blk.partner
  | 5 => n s.blk.core
  | 6 => n (quadOf s.blk.core)
  | 7 => n (dieOf s.blk.core)
  | 8 => n s.node
  | _ => let c := s.clk s.blk.core; [.u (BitVec.ofNat 32 c), .u (BitVec.ofNat 32 (c / 2 ^ 32))]
/-- A special value that the leading copy of a pair forwards (R345): %core, %quad, %die, %pkg, %clk. -/
def forwardedSel (sel : Nat) : Bool := (5 ≤ sel && sel ≤ 8) || sel = 0x10
/-- Write a special value to VD, or to the pair VD. -/
def State.putSpecial (s : State) (f : Fields) (m : Mask) (vals : List RegVal) : State :=
  match vals with
  | [x] => s.writeReg f.vd.toNat m x
  | x :: y :: _ => s.writePair f.vd.toNat m x y
  | [] => s
/-- SREAD (R132). -/
def execSread (f : Fields) (s : State) : Out :=
  let en := s.en f
  let sel := f.m 7 0
  if en != 0 && forwardedSel sel && s.blk.copy = .trailing then
    .next (s.trailing en fun s m vals => s.putSpecial f m vals)
  else
    let s1 := if en != 0 && forwardedSel sel then s.forward (.values en (s.special sel)) else s
    .next (s1.putSpecial f en (s.special sel)).advance

end Sys2Proof.Machine
end

