-- ==== Sys2Proof/Machine/WarpWide.lean ====
section
/-! DEFINITION. The warp-wide instructions, opcodes 0x70-0x75, and their meetings (R160-R170). -/
namespace Sys2Proof.Machine

/-! ## Meetings -/

/-- M(t) (R160): every lane with `.all`, else the 128-bit mask in VC to VC+3, read in t's lane. -/
def State.membersOf (s : State) (f : Fields) (t : Nat) : Mask :=
  if f.b 7 then Mask.all
  else
    let c := f.vc.toNat
    s.wp.val (c + 3) t ++ s.wp.val (c + 2) t ++ s.wp.val (c + 1) t ++ s.wp.val c t
/-- One round of the completion test: the lanes of `c` whose awaited members are all in `c`. -/
def closeOnce (awaits : Nat → Mask) (c : Mask) : Mask := maskOf fun t => Mask.has c t && (awaits t &&& ~~~c) = 0
/-- The arrived threads whose closure has arrived (R161): the greatest set the test keeps. -/
def closeFrom (awaits : Nat → Mask) : Nat → Mask → Mask
  | 0, c => c
  | n + 1, c => let d := closeOnce awaits c; if d = c then c else closeFrom awaits n d
/-- The lanes that t meets: the live ones of M(t) but those that arrived, completed and moved on before it. -/
def Meet.awaits (m : Meet) (live : Mask) (t : Nat) : Mask := m.members.at t &&& live &&& ~~~(m.gone.at t)
/-- The threads of a meeting that complete now. -/
def Meet.ready (m : Meet) (live : Mask) : Mask := closeFrom (m.awaits live) 128 (m.arrived &&& live)
/-- The members present for t (R163): all of them complete with t. -/
def Meet.present (m : Meet) (live : Mask) (t : Nat) : Mask := m.awaits live t
/-- The meeting after the threads `done` completed: to a live lane that did not complete with them they have arrived and
moved on (R161), unless it was itself ahead of them. DEDUCED (log 62). -/
def Meet.after (m : Meet) (live done : Mask) : Meet :=
  let ahead (i : Nat) : Mask := maskOf fun j => Mask.has done j && !Mask.has (m.gone.at j) i
  { m with
    arrived := m.arrived &&& live &&& ~~~done
    gone := Lanes.of fun i => if Mask.has (live &&& ~~~done) i then (m.gone.at i ||| ahead i) &&& live else 0 }

/-! ## Results -/

/-- An integer operation of REDUX and SCAN (R165, R168). -/
def reduxInt (op : Nat) (x y : Word) : Word :=
  match op with
  | 0 => x + y
  | 1 => if x.ule y then x else y
  | 2 => if x.sle y then x else y
  | 3 => if x.ule y then y else x
  | 4 => if x.sle y then y else x
  | 5 => x &&& y
  | 6 => x ||| y
  | _ => x ^^^ y
/-- The identity of an operation (R165). -/
def reduxIdentity (op : Nat) : Word :=
  match op with
  | 1 => 0xFFFFFFFF
  | 2 => 0x7FFFFFFF
  | 4 => 0x80000000
  | 5 => 0xFFFFFFFF
  | 8 => 0x80000000
  | _ => 0
/-- One FP32 addition of `.fadd` (R168): the sum and its flags. -/
def faddStep (x y : Word × FpFlags) : Word × FpFlags :=
  let r := fp32.arith .add 0 false x.1.toNat y.1.toNat 0
  (fpWord r, x.2 ||| y.2 ||| r.2)
/-- One step of REDUX or SCAN, integer or `.fadd`. -/
def reduxStep (op : Nat) (x y : Word × FpFlags) : Word × FpFlags :=
  if op = 8 then faddStep x y else (reduxInt op x.1 y.1, 0)
/-- Neighbours summed in pairs. -/
def pairUp {α : Type} (g : α → α → α) : List α → List α
  | x :: y :: rest => g x y :: pairUp g rest
  | xs => xs
/-- The tree of R168 over 128 values: neighbours, then neighbours of the results, and so on. -/
def foldTree {α : Type} (g : α → α → α) : Nat → List α → List α
  | 0, xs => xs
  | n + 1, xs => foldTree g n (pairUp g xs)
/-- x[j] of R168. -/
def reduxInputs (w : Warp) (op r : Nat) (p : Mask) : List (Word × FpFlags) :=
  (List.range 128).map fun j => (if Mask.has p j then w.val r j else reduxIdentity op, 0)
/-- The fold of REDUX. -/
def reduxOver (w : Warp) (op r : Nat) (p : Mask) : Word × FpFlags :=
  (foldTree (reduxStep op) 7 (reduxInputs w op r p)).headD (reduxIdentity op, 0)
/-- The prefix fold of SCAN at lane `l`. -/
def scanAt (w : Warp) (op r : Nat) (excl : Bool) (p : Mask) (l : Nat) : Word × FpFlags :=
  ((reduxInputs w op r p).take (if excl then l else l + 1)).foldl (reduxStep op) (reduxIdentity op, 0)
/-- The lane SHFL reads (R166). -/
def shflLane (mode c l k : Nat) : Nat :=
  let w := 2 ^ c
  let base := l - l % w
  match mode with
  | 0 => base + k % w
  | 1 => max (l - k) base
  | 2 => min (l + k) (base + w - 1)
  | 3 => base + ((l - base) ^^^ (k % w))
  | _ => base + (l - base + (w - k % w)) % w
/-- The value MATCH compares (R169). -/
def matchKey (w : Warp) (wide : Bool) (r j : Nat) : DWord := if wide then w.pair r j else (w.val r j).setWidth 64
/-- The mask of MATCH (R169). -/
def matchMask (w : Warp) (f : Fields) (p : Mask) (t : Nat) : Mask :=
  let x (j : Nat) : DWord := matchKey w (f.b 1) f.va.toNat j
  let m := maskOf fun j => Mask.has p j && x j = x t
  if f.b 0 && p &&& ~~~m != 0 then 0 else m
/-- The present members whose predicate holds. -/
def voteMask (w : Warp) (pa : Nat) (p : Mask) : Mask := maskOf fun j => Mask.has p j && w.pred pa j
/-- The highest lane of a mask. -/
def Mask.high (m : Mask) : Nat := (Mask.lanes m).getLastD 0
/-- A result into one register: U or V by R164. -/
def State.put1 (s : State) (d : Nat) (m : Mask) (g : Nat → Word) : State := s.writeReg d m (statusVal m g)
/-- A 128-bit result into four registers. -/
def State.put4 (s : State) (d : Nat) (m : Mask) (g : Nat → Mask) : State :=
  s.writeRegs m ((List.range 4).map fun k => (d + k, statusVal m fun l => ((g l) >>> (32 * k)).setWidth 32))

/-- Write the results of the threads `m` that complete in a meeting; `p` gives the members present for each. -/
def State.meetResults (s : State) (op : Nat) (f : Fields) (m : Mask) (p : Nat → Mask) : State :=
  let d := f.vd.toNat
  let a := f.va.toNat
  match op with
  | 0x70 => s.put1 d m fun t =>
      let k := if f.isF96 then f.imm.toNat else (s.wp.val f.vb.toNat t).toNat
      let j := shflLane (f.m 2 0) (f.m 5 3) t k
      if Mask.has (p t) j then s.wp.val a j else s.wp.val a t
  | 0x71 =>
    match f.m 2 0 with
    | 0 => s.writePred d m fun t => voteMask s.wp a (p t) != 0
    | 1 => s.writePred d m fun t => voteMask s.wp a (p t) = p t
    | 2 => s.writePred d m fun t => voteMask s.wp a (p t) = p t || voteMask s.wp a (p t) = 0
    | 3 => s.put4 d m fun t => voteMask s.wp a (p t)
    | _ => s.put1 d m fun t => BitVec.ofNat 32 (Mask.count (voteMask s.wp a (p t)))
  | 0x72 =>
    let base := reduxOver s.wp (f.m 3 0) a (p (Mask.low m))
    let g (t : Nat) : Word × FpFlags := if p t = p (Mask.low m) then base else reduxOver s.wp (f.m 3 0) a (p t)
    (s.put1 d m fun t => (g t).1).raise (fpFlags m false fun t => (g t).2)
  | 0x73 => s.put4 d m fun t => matchMask s.wp f (p t) t
  | 0x74 =>
    let g (t : Nat) : Word × FpFlags := scanAt s.wp (f.m 3 0) a (f.b 4) (p t) t
    (s.put1 d m fun t => (g t).1).raise (fpFlags m false fun t => (g t).2)
  | _ =>
    let e (t : Nat) : Nat := if f.b 0 then Mask.high (p t) else Mask.low (p t)
    (s.put1 d m fun t => BitVec.ofNat 32 (e t)).writePred a m fun t => t = e t

/-! ## Arriving and completing -/

/-- Meetings of the warp with a condition replaced. -/
def Warp.putMeet (w : Warp) (m : Meet) : Warp :=
  let rest := w.meets.filter fun x => !(x.pc = m.pc && x.op = m.op && x.f = m.f)
  { w with meets := if m.arrived = 0 ∧ m.gone = Lanes.of (fun _ => 0) then rest else rest ++ [m] }
/-- The completion test of one meeting (R161): the threads that complete get their results and go on. -/
def State.testMeet (s : State) (m : Meet) : State :=
  let live := s.wp.live
  let done := m.ready live
  if done = 0 then { s with wp := s.wp.putMeet (m.after live 0) }
  else
    let s1 := s.meetResults m.op m.f done (m.present live)
    { s1 with wp := (s1.wp.putMeet (m.after live done)).mapThreads done fun _ t =>
        { t with status := .eligible, pc := m.pc + BitVec.ofNat 57 m.len } }
/-- The completion test of every meeting of the issuing warp (R154, R161). -/
def State.testMeets (s : State) : State := s.wp.meets.foldl (fun s m => s.testMeet m) s
/-- The meeting of the issuing instruction: the one in progress, or a new one. -/
def State.meetHere (s : State) (op : Nat) (f : Fields) : Meet :=
  (s.wp.meets.find? fun m => m.pc = s.iss.pc && m.op = op && m.f = f).getD
    ⟨op, f, s.iss.pc, s.iss.len, 0, Lanes.of fun _ => 0, Lanes.of fun _ => 0⟩

/-- A warp-wide instruction (R160-R162): MASK_SELF, else the enabled threads arrive, the disabled pass and are absent, and
the completion test follows. -/
def State.warpWide (s : State) (op : Nat) (f : Fields) : State :=
  let en := s.en f
  let off := s.iss.lanes &&& ~~~en
  let bad := maskOf fun t => Mask.has en t && !Mask.has (s.membersOf f t) t
  if bad != 0 then s.trap 0x07 (BitVec.ofNat 64 (Mask.low bad)) bad
  else
    let m := s.meetHere op f
    let here : Meet := { m with
      arrived := m.arrived ||| en
      members := Lanes.of fun t => (if Mask.has en t then s.membersOf f t else m.members.at t) &&& ~~~off
      gone := Lanes.of fun t => m.gone.at t &&& ~~~en }
    ((s.advanceLanes off).setStatus en (.waiting .meet)).testMeet here

/-- SHFL (R166). -/
def execShfl (f : Fields) (s : State) : Out := .next (s.warpWide 0x70 f)
/-- VOTE (R167). -/
def execVote (f : Fields) (s : State) : Out := .next (s.warpWide 0x71 f)
/-- REDUX (R168). -/
def execRedux (f : Fields) (s : State) : Out := .next (s.warpWide 0x72 f)
/-- MATCH (R169). -/
def execMatch (f : Fields) (s : State) : Out := .next (s.warpWide 0x73 f)
/-- SCAN (R168). -/
def execScan (f : Fields) (s : State) : Out := .next (s.warpWide 0x74 f)
/-- ELECT (R170). -/
def execElect (f : Fields) (s : State) : Out := .next (s.warpWide 0x75 f)

end Sys2Proof.Machine
end

