-- ==== Sys2Proof/Machine/Schedule.lean ====
section
/-! DEFINITION. Groups and active sets (R98, R126, R127), YIELD (R151) and EXIT (R154). -/
namespace Sys2Proof.Machine

/-! ## Groups -/

/-- A thread may be offered for issue: eligible, or it waits for its instruction to be tested again. -/
def Thread.offered (t : Thread) : Bool :=
  match t.status with
  | .eligible => true
  | .waiting .retry => true
  | .waiting (.trapping _ _) => true
  | _ => false
/-- A group: a block, a warp, its pipe, the threads, and their PC. The threads of one warp that stand at one PC form one
sub-group; handler threads and others do not mix. -/
structure GroupRef where
  blk  : Nat
  warp : Nat
  pipe : Nat
  mask : Mask
  pc   : BitVec 57
  deriving DecidableEq, Repr

/-- The sub-group that lane `l` of a warp belongs to. -/
def Warp.subgroup (w : Warp) (l : Nat) : Mask :=
  let t := w.thread l
  w.threads.mask fun u => u.offered && u.pc = t.pc && u.handler = t.handler && u.owed = t.owed
/-- The sub-groups of a warp, by their lowest lanes; `left` bounds their number. -/
def Warp.subgroupsFrom (w : Warp) (blk : Nat) : Nat → Mask → List GroupRef
  | 0, _ => []
  | n + 1, m =>
    if m = 0 then []
    else
      let l := Mask.low m
      let g := w.subgroup l
      ⟨blk, w.idx, w.pipe, g, (w.thread l).pc⟩ :: w.subgroupsFrom blk n (m &&& ~~~g)
/-- The sub-groups a warp offers. -/
def Warp.subgroups (w : Warp) (blk : Nat) : List GroupRef :=
  w.subgroupsFrom blk 128 (w.threads.mask Thread.offered)
/-- The groups a core offers. -/
def State.groupsOn (s : State) (core : Nat) : List GroupRef :=
  s.blocksNow.flatMap fun b =>
    if b.core = core && b.state = .running then b.warps.flatMap fun w => w.subgroups b.id else []

/-! ## Groups that are ready (R126, R128, R129, R347) -/

/-- A pending instruction holds lanes that would issue an instruction naming some registers: they are past its window, or a
register is marked (R129). -/
def Pending.holds (p : Pending) (m : Mask) (regs : List Nat) : Bool :=
  ((Mask.lanes (m &&& p.issuers)).any fun l => Lanes.at p.left l = 0) || p.dests.any fun d => regs.contains d.1
/-- Lanes have issued an instruction: one of the window, or the pending instruction itself. -/
def Pending.passed (p : Pending) (m : Mask) : Pending :=
  if p.fresh then { p with fresh := false } else { p with left := p.left.mapIdx fun l n => if Mask.has m l then n - 1 else n }
/-- The other copy of a block (R62). -/
def State.twin (s : State) (b : Block) : Option Block := ((s.copiesOf b.id).find? fun i => i != b.id).bind s.block?
/-- Instructions a warp of a block has retired. -/
def Block.retiredBy (b : Block) (w : Nat) : Nat := ((b.retired.find? fun p => p.1 = w).map (·.2)).getD 0
/-- The copies of a pair keep their slack (R347): the leading warp stops at the limit, and the trailing warp does not overtake
a leading warp that still runs. -/
def State.mayIssue (s : State) (c : Ctx) (b : Block) (w : Nat) : Bool :=
  match b.copy, s.twin b with
  | .leading, some t => b.retiredBy w < t.retiredBy w + c.slack
  | .trailing, some t => b.retiredBy w ≤ t.retiredBy w || ((t.warp? w).map fun x => decide (x.live = 0)).getD true
  | _, _ => true
/-- The pending instruction that holds a group (R129). -/
def State.heldBy (s : State) (g : GroupRef) : Option Pending :=
  match (s.block? g.blk).bind fun b => (b.warp? g.warp).bind fun w => (s.ctx? b.ctx).map fun c => (w, c) with
  | none => none
  | some (w, c) =>
    if w.pending.isEmpty then none
    else
      let t := s.checkin.checkout g.blk g.warp { Issue.idle with lanes := g.mask, pc := g.pc }
      let regs := ((t.nextInstr c g.pc).map touchesOf).getD []
      w.pending.find? fun p => p.holds g.mask regs
/-- The group's context runs, and the group may issue. -/
def State.ready (s : State) (g : GroupRef) : Bool :=
  match s.block? g.blk with
  | none => false
  | some b => match s.ctx? b.ctx with
    | none => false
    | some c => c.state = .running && s.mayIssue c b g.warp && (s.heldBy g).isNone

/-! ## Active sets -/

/-- A group has a position. -/
def Position.has (p : Position) (g : GroupRef) : Bool := p.blk = g.blk && p.warp = g.warp && Mask.has g.mask p.lane
/-- Positions whose group is still offered, each group with one of them, and those whose group waits. -/
def keepPositions (waits : Position → Bool) (gs : List GroupRef) : List Position → List Position
  | [] => []
  | p :: ps =>
    match gs.find? p.has with
    | some g => p :: keepPositions waits (gs.erase g) ps
    | none => if waits p then p :: keepPositions waits gs ps else keepPositions waits gs ps
/-- The group of a position has become waiting (R96): its block runs, and its threads have not exited. -/
def State.waitsAt (s : State) (p : Position) : Bool :=
  match (s.block? p.blk).bind fun b => (b.warp? p.warp).map fun w => (b, w) with
  | some (b, w) => b.state = .running && !(w.thread p.lane).offered && (w.thread p.lane).status != .exited
  | none => false
/-- The lowest free position of a pipe, of 8 (R126). -/
def freePosition (ps : List Position) (pipe : Nat) : Option Nat :=
  (List.range 8).find? fun i => !ps.any fun p => p.pipe = pipe && p.pos = i
/-- Groups without a position take the free ones in order: of block, warp and lowest lane. DESIGN CHOICE (log 163). -/
def admitGroups (ps : List Position) : List GroupRef → List Position
  | [] => ps
  | g :: gs =>
    if ps.any fun p => p.has g then admitGroups ps gs
    else match freePosition ps g.pipe with
      | some i => admitGroups (ps ++ [⟨g.pipe, i, g.blk, g.warp, Mask.low g.mask, none⟩]) gs
      | none => admitGroups ps gs
/-- The clock is that of a group's next instruction. -/
def GroupClock.of (k : GroupClock) (g : GroupRef) : Bool :=
  k.blk = g.blk && k.warp = g.warp && Mask.has g.mask k.lane && k.pc = g.pc
/-- Since when a group is ready: from now on when it has just become so. -/
def Core.readySince (c : Core) (g : GroupRef) (now : Nat) : Nat := ((c.clocks.find? fun k => k.of g).map GroupClock.since).getD now
/-- Since when each ready group of a core is ready. -/
def State.clocksOf (s : State) (core : Nat) : List GroupClock :=
  ((s.groupsOn core).filter s.ready).map fun g => ⟨g.blk, g.warp, Mask.low g.mask, g.pc, (s.core core).readySince g (s.clk core)⟩
/-- The groups that stand in a core's active sets. -/
def State.activeGroups (s : State) (core : Nat) : List GroupRef :=
  (s.groupsOn core).filter fun g => (s.core core).actives.any fun p => p.has g
/-- Of two groups of a pending set, the one that became ready earliest; ties go to the lowest %warp (R127). -/
def State.earlier (s : State) (core : Nat) (a b : GroupRef) : GroupRef :=
  let t (g : GroupRef) : Nat := (s.core core).readySince g (s.clk core)
  if t a < t b || (t a = t b && a.warp ≤ b.warp) then a else b
/-- The ready group of a pipe's pending set that takes the next position to pass on (R127). -/
def State.pendingGroup (s : State) (core pipe : Nat) : Option GroupRef :=
  match (s.groupsOn core).filter fun g =>
      g.pipe = pipe && !((s.core core).actives.any fun p => p.has g) && s.ready g with
  | [] => none
  | g :: gs => some (gs.foldl (s.earlier core) g)
/-- A position passes to a pending group, if one is ready (R127). -/
def State.swapPosition (s : State) (core pipe pos : Nat) : State :=
  match s.pendingGroup core pipe with
  | none => s
  | some g => s.modCore core fun c => { c with actives := c.actives.map fun p =>
      if p.pipe = pipe && p.pos = pos then ⟨pipe, pos, g.blk, g.warp, Mask.low g.mask, none⟩ else p }
/-- Change the position of a group. -/
def State.modPosition (s : State) (g : GroupRef) (core : Nat) (f : Position → Position) : State :=
  s.modCore core fun c => { c with actives := c.actives.map fun p => if p.has g then f p else p }
/-- The position of a group passes to a pending group (R127). -/
def State.leavePosition (s : State) (g : GroupRef) (core : Nat) : State :=
  match (s.core core).actives.find? fun p => p.has g with
  | some p => s.swapPosition core p.pipe p.pos
  | none => s
/-- A group of an active set that a pending instruction holds keeps its position, or leaves it, by the class of that instruction
(R130); one that is held no longer has no hold to count. -/
def State.judgeHold (s : State) (core : Nat) (g : GroupRef) : State :=
  match s.heldBy g with
  | none => s.modPosition g core fun p => { p with held := none }
  | some p =>
    if p.swap then s.leavePosition g core
    else s.modPosition g core fun p => { p with held := some (p.held.getD (s.clk core)) }
/-- Cycles after which a ready group of a pending set is passed over no longer (R149). DESIGN CHOICE (log 124). -/
def passLimit : Nat := 4096
/-- A group of a pending set that has been ready that long takes the position after the one that issued last. -/
def State.relieve (s : State) (core pipe : Nat) : State :=
  match s.pendingGroup core pipe with
  | none => s
  | some g =>
    if (s.core core).readySince g (s.clk core) + passLimit ≤ s.clk core then
      s.swapPosition core pipe (((s.core core).lastPos.getD pipe 7 + 1) % 8)
    else s
/-- The position of a group that waits passes to a pending group (R127), if one is ready. -/
def State.passWaiting (s : State) (core : Nat) : State :=
  ((s.core core).actives.filter s.waitsAt).foldl (fun s p => s.swapPosition core p.pipe p.pos) s
/-- Bring a core's active sets up to date: groups that wait, exited, split or are held, and how long each has been ready (R126,
R127, R130). -/
def State.refresh (s : State) (core : Nat) : State :=
  let gs := s.groupsOn core
  let s1 := s.modCore core fun c => { c with
    actives := admitGroups (keepPositions s.waitsAt gs c.actives) gs, clocks := s.clocksOf core }
  let s2 := s1.passWaiting core
  (List.range 4).foldl (fun s p => s.relieve core p) ((s2.activeGroups core).foldl (fun s g => s.judgeHold core g) s2)
/-- How far a group's position lies behind the position of its pipe that issued last (R126). -/
def State.turnOf (s : State) (core : Nat) (g : GroupRef) : Nat :=
  match (s.core core).actives.find? fun p => p.has g with
  | some p => (p.pos + 7 - (s.core core).lastPos.getD g.pipe 7) % 8
  | none => 8
/-- Of two groups of an active set, the one a pipe issues: the one whose next instruction became ready first, then the one whose
turn comes first (R126). -/
def State.sooner (s : State) (core : Nat) (a b : GroupRef) : GroupRef :=
  let t (g : GroupRef) : Nat := (s.core core).readySince g (s.clk core)
  if t b < t a || (t b = t a && s.turnOf core b < s.turnOf core a) then b else a
/-- The group that a pipe issues (R126). -/
def State.nextGroup (s : State) (core pipe : Nat) : Option GroupRef :=
  match (s.activeGroups core).filter fun g => g.pipe = pipe && s.ready g with
  | [] => none
  | g :: gs => some (gs.foldl (s.sooner core) g)
/-- A group issues: its next instruction has still to become ready, and its position is the last of its pipe that issued. -/
def State.noteIssue (s : State) (g : GroupRef) (core : Nat) : State :=
  s.modCore core fun c => { c with
    clocks := c.clocks.filter fun k => !k.of g
    lastPos := match c.actives.find? fun p => p.has g with
      | some p => c.lastPos.set g.pipe p.pos
      | none => c.lastPos }
/-- HOLD_TIMEOUT (R127): a group held for 64 cycles leaves its position when a pending group is ready. -/
def execHoldTimeout (core pipe pos : Nat) (s : State) : Out :=
  .next (match (s.core core).actives.find? fun p => p.pipe = pipe && p.pos = pos with
    | some ⟨_, _, _, _, _, some t⟩ =>
      if t + 64 ≤ s.clk core && (s.pendingGroup core pipe).isSome then s.push (.activeSetExchange core pipe pos) else s
    | _ => s)
/-- ACTIVE_SET_EXCHANGE (R127): a pending group takes the position. -/
def execActiveSetExchange (core pipe pos : Nat) (s : State) : Out := .next (s.swapPosition core pipe pos)
/-- The position of the issuing group. -/
def State.ownPosition (s : State) : Option Position :=
  (s.core s.blk.core).actives.find? fun p => p.blk = s.blk.id && p.warp = s.wp.idx && Mask.has s.iss.lanes p.lane
/-- YIELD (R151). -/
def execYield (f : Fields) (s : State) : Out :=
  .next (s.whenEnabled f fun s =>
    let s1 := s.advance
    match s.ownPosition with
    | some p => s1.swapPosition s.blk.core p.pipe p.pos
    | none => s1)

/-! ## EXIT -/

/-- Exited lanes leave the expected sets (R154). -/
def Warp.leaveSets (w : Warp) (m : Mask) : Warp := { w with rcv := w.rcv.map fun e => e &&& ~~~m }
/-- A warp whose threads have all exited ends: its registers keep their values, and its rows above the reserve return (R106, R108). -/
def Warp.ended (w : Warp) : Bool := w.live = 0
def State.endWarp (s : State) : State := if s.wp.ended then { s with wp := { s.wp with pending := [] } } else s
/-- EXIT (R154): the threads exit, what they have still to write arrives in exited lanes, where it is unpredictable (R131), they leave the expected sets, and the meetings, barriers and the
block's end are tested. A pending trap enters when the last handler thread exits (R312). -/
def execExit (f : Fields) (s : State) : Out :=
  let en := s.en f
  .next (s.whenEnabled f fun s =>
    let s1 := (s.setStatus en .exited).completeOf en
    let s2 := { s1 with wp := (s1.wp.leaveSets en).releaseAll }
    let s3 := (s2.advanceLanes (s2.iss.lanes &&& ~~~en)).testMeets
    let s4 := { s3 with wp := s3.wp.enterPending }
    let s5 := ((s4.testBsync s4.blk.id).retestSbars s4.blk.id).endWarp
    s5.maybeEnd s5.blk.id)

end Sys2Proof.Machine
end

