-- ==== Sys2Proof/Machine/Shape.lean ====
section
/-! DEFINITION. The shape and predicate instructions, opcodes 0x10-0x16 (R114-R122). -/
namespace Sys2Proof.Machine

/-- Every live lane of the warp holds the same value (R118). -/
def Warp.equalReg (w : Warp) (r : Nat) : Bool :=
  (Mask.lanes w.live).all fun l => w.val r l = w.val r (Mask.low w.live)
/-- The inverse of an odd number modulo 2^32. -/
def oddInverse (a : Word) : Word :=
  let step (x : Word) : Word := x * (2 - a * x)
  step (step (step (step a)))
/-- How often 2 divides a lane distance below 128. -/
def twos (d : Nat) : Nat := if d % 2 = 1 then 0 else if d % 4 = 2 then 1 else if d % 8 = 4 then 2 else
  if d % 16 = 8 then 3 else if d % 32 = 16 then 4 else if d % 64 = 32 then 5 else 6
/-- The live lane whose distance from the lowest one has the fewest factors of 2; the lowest lane when it is alone. -/
def Warp.pivot (w : Warp) : Nat :=
  let l0 := Mask.low w.live
  (Mask.lanes w.live).foldl (fun best l =>
    if l = l0 then best else if best = l0 then l else if twos (l - l0) < twos (best - l0) then l else best) l0
/-- The smallest stride that could make the live lanes affine: it solves `distance × s = difference` for the pivot. -/
def Warp.strideOf (w : Warp) (r : Nat) : Word :=
  let l0 := Mask.low w.live
  let d := w.pivot - l0
  let t := twos d
  let diff := w.val r w.pivot - w.val r l0
  ((diff >>> t) * oddInverse (BitVec.ofNat 32 (d / 2 ^ t))) &&& (BitVec.allOnes 32 >>> t)
/-- Base and stride when the live lanes are affine (R118). -/
def Warp.affineReg (w : Warp) (r : Nat) : Option (Word × Word) :=
  let s := w.strideOf r
  let l0 := Mask.low w.live
  let b := w.val r l0 - BitVec.ofNat 32 l0 * s
  if s != 0 && (Mask.lanes w.live).all fun l => w.val r l = b + BitVec.ofNat 32 l * s then some (b, s) else none

/-- SHQ (R116). -/
def execShq (f : Fields) (s : State) : Out := .next (s.alu f (.u (BitVec.ofNat 32 (s.rvA f).shape)))
/-- SHASSERT (R117). -/
def execShassert (f : Fields) (s : State) : Out :=
  .next (s.whenEnabled f fun s =>
    if f.b (s.rvA f).shape then s.advance else s.trap 0x05 (s.shapeAddr f.va.toNat) s.iss.lanes)
/-- The narrowing of SHFORCE and SHNARROW: U when equal, else A when affine, else unchanged. -/
def State.narrow (s : State) (r : Nat) : State :=
  if s.wp.equalReg r then s.putCompact r (.u (s.wp.val r (Mask.low s.wp.live)))
  else match s.wp.affineReg r with
    | some (b, st) => s.putCompact r (.affine b st)
    | none => s
/-- SHFORCE (R118). -/
def execShforce (f : Fields) (s : State) : Out :=
  let r := f.va.toNat
  .next (s.whenEnabled f fun s =>
    let mode := f.m 1 0
    if (mode = 0 && !s.wp.equalReg r) || (mode = 1 && !s.wp.equalReg r && (s.wp.affineReg r).isNone) then
      s.trap 0x06 (s.shapeAddr r) s.iss.lanes
    else if mode = 2 then
      if (s.wp.rv r).compact then
        let row : Row := Lanes.of fun l => s.wp.val r l
        (s.putRow r row).advance
      else s.advance
    else (s.narrow r).advance)
/-- SHNARROW (R119). -/
def execShnarrow (f : Fields) (s : State) : Out :=
  let r := f.va.toNat
  .next (s.whenEnabled f fun s =>
    let s1 := s.narrow r
    (s1.writePred f.vd.toNat (s.en f) fun _ => (s1.wp.rv r).compact).advance)
/-- PLOP (R120). In F96 predicate b is the one IMM32 numbers, which is 0 (R114). -/
def execPlop (f : Fields) (s : State) : Out :=
  let pb := if f.isF96 then f.imm.toNat else f.vb.toNat
  .next (s.aluPred f fun l =>
    f.b ((if s.wp.pred f.va.toNat l then 2 else 0) + (if s.wp.pred pb l then 1 else 0)))
/-- P2V (R121). -/
def execP2v (f : Fields) (s : State) : Out :=
  let en := s.en f
  let m := maskOf fun l => Mask.has en l && s.wp.pred f.va.toNat l
  let word (k : Nat) : RegVal := .u ((m >>> (32 * k)).setWidth 32)
  let d := f.vd.toNat
  .next (s.writeRegs en [(d, word 0), (d + 1, word 1), (d + 2, word 2), (d + 3, word 3)]).advance
/-- V2P (R122). -/
def execV2p (f : Fields) (s : State) : Out :=
  let a := f.va.toNat
  .next (s.aluPred f fun l =>
    if f.b 0 then (s.wp.val (a + l / 32) l).getLsbD (l % 32) else s.wp.val a l != 0)

end Sys2Proof.Machine
end

