-- ==== Sys2Proof/Machine/Paging.lean ====
section
/-! DEFINITION. The fault service and moving pages: answers to serviceable faults (R214), walks and TLBs (R212), migration
(R216), the end of a shoot-down (R217), and unmapping (R223). -/
namespace Sys2Proof.Machine

/-! ## Answers (R214) -/

/-- Threads of a warp that are parked with a token. -/
def Warp.parkedWith (w : Warp) (token : Nat) : Mask := maskOf fun l => (w.thread l).status = .parked (.fault token)
/-- The answer to parked threads: they issue their instruction again, or on INVALID raise XLATE kind 2. -/
def State.answerThreads (s : State) (q : FaultReq) (blk warp : Nat) (invalid : Bool) : State :=
  s.withWarp blk warp Issue.idle fun s =>
    let m := s.wp.parkedWith q.token
    if m = 0 then s
    else if !invalid then s.setStatus m .eligible
    else match s.ctx? s.blk.ctx with
      | none => s
      | some c =>
        let pc := (s.wp.thread (Mask.low m)).pc
        { s with iss := s.shownIssue c m pc }.trap 0x0B (Fail.trap 0x0B 2 q.va).addr m
/-- The answer to a copy of a block. -/
def State.answerCopy (s : State) (blk handle : Nat) (invalid : Bool) : State :=
  match (s.block? blk).bind fun b => b.copies.getD handle none with
  | none => s
  | some x =>
    let y := { x with fault := none }
    if x.fault.isNone then s
    else if invalid then s.failCopy blk handle y 3 2
    else (s.setCopy blk handle (some y)).push (.copyBurst (.block blk handle))
/-- Give an answer to the one that waits for it. -/
def State.giveAnswer (s : State) (ctx : Nat) (q : FaultReq) (a : Nat) : State :=
  match q.owner with
  | .threads b w _ => s.answerThreads q b w (a = 2)
  | .copy b h => s.answerCopy b h (a = 2)
  | .copyNode n => if a = 2 then s.failCopyNode ctx n else s.push (.copyBurst (.node ctx n))
  | .prologue b =>
    if a != 2 then s.push (.prologueFill b)
    else match s.block? b with
      | some x => s.failPrologue x 0x0B
      | none => s
/-- The block that waits for an answer is saved and takes it when it is placed again. -/
def Ctx.ownerSaved (c : Ctx) (q : FaultReq) : Bool :=
  match q.owner with
  | .threads b _ _ => c.saved.any fun x => x.id = b
  | .copy b _ => c.saved.any fun x => x.id = b
  | _ => false
/-- Answer a request of a context by its token (R214). -/
def State.answerFault (s : State) (ctx token a : Nat) : State :=
  match s.ctx? ctx with
  | none => s
  | some c =>
    match c.faults.find? fun q => q.token = token with
    | none => s
    | some q =>
      if c.ownerSaved q then
        s.modCtx ctx fun c => { c with faults := c.faults.map fun x => if x.token = token then { x with answer := some a } else x }
      else (s.modCtx ctx fun c => { c with faults := c.faults.filter fun x => x.token != token }).giveAnswer ctx q a
/-- Answers that saved blocks could not take are given once their blocks are on the device again. -/
def State.settleFaults (s : State) : State :=
  s.ctxs.foldl (fun s c => c.faults.foldl (fun s q =>
    match q.answer with
    | some a => if c.ownerSaved q then s else s.answerFault c.id q.token a
    | none => s) s) s

/-! ## Walks and TLBs (R212) -/

/-- Bytes that an entry of a level of the tables maps. -/
def pageBytes (level : Nat) : Nat := 2 ^ (9 * level + 3)
/-- PAGE_WALK (R212): a walk reads its tables through the caches of the core's die, and the TLBs take the translation of the page; a
walk that meets an uncorrectable error is FATAL to its context (R333). -/
def execPageWalk (core ctx va : Nat) (s : State) : Out :=
  .next (match s.ctx? ctx with
    | none => s
    | some c =>
      if (s.core core).gated then s
      else match s.xlat c va with
        | .ok l => (s.walkFill core c va).fillTlb core ctx va l
        | .fatal => s.push (.errorDetected ⟨.fatal, 0, core, 0, 0, some ctx, va, .context ctx⟩)
        | _ => s)

/-! ## Leaves -/

/-- The leaf of an address, valid or on demand: where its entry stands, and its level. -/
def State.leafFrom (s : State) (va : Nat) : Nat → Nat → Option (Nat × Nat)
  | 0, _ => none
  | n + 1, table =>
    let at_ := table + 8 * bits va (12 + 9 * n) 9
    let e := s.readNum at_ 8
    if bit e 6 then (if bit e 0 || bit e 3 then some (at_, n + 1) else none)
    else if bit e 0 then s.leafFrom va n (bits e 12 40 * 4096)
    else none
def State.leafOf (s : State) (c : Ctx) (va : Nat) : Option (Nat × Nat) :=
  if va ≥ 2 ^ 57 || c.inHeap va then none else s.leafFrom va 5 (bits c.ptroot.toNat 12 40 * 4096)
/-- A leaf marked on demand: V 0 and D 1. -/
def onDemand (e : Nat) : Nat := ((BitVec.ofNat 64 e &&& ~~~(1 : DWord)) ||| 8).toNat
/-- The leaf of a page that has moved: valid, with its new frame. A frame on another node is encrypted there (R215): its leaf
names slot 0. -/
def movedLeaf (e frame : Nat) (away : Bool) : Nat :=
  let e1 := BitVec.ofNat 64 e &&& ~~~(0x000FFFFFFFFFF009 : DWord)
  let e2 := e1 ||| 1 ||| BitVec.ofNat 64 (frame / 4096 % 2 ^ 40 * 4096)
  (if away then e2 &&& 0x003FFFFFFFFFFFFF else e2).toNat

/-- The page a leaf entry belongs to: its frame and bytes, those of its contiguous group where it is in one (R211). -/
def pageOf (e level : Nat) : Nat × Nat :=
  let n := pageBytes level * if bit e 11 then groupEntries level else 1
  (entryFrame e / n * n, n)
/-- The entries of a table that are not 0, by number. -/
def State.entriesIn (s : State) (table : Nat) : List Nat :=
  ((s.mem.filter fun c => table ≤ c.1 && c.1 < table + 4096).map fun c => (c.1 - table) / 8).eraseDups
/-- The leaves below a table of level `n` that map to a part of a frame: the virtual address and where the entry stands. -/
def State.leavesTo (s : State) (old size : Nat) : Nat → Nat → Nat → List (Nat × Nat)
  | 0, _, _ => []
  | n + 1, table, va => (s.entriesIn table).flatMap fun i =>
    let at_ := table + 8 * i
    let e := s.readNum at_ 8
    let v := va + i * pageBytes (n + 1)
    if bit e 6 then
      (if (bit e 0 || bit e 3) && old ≤ entryFrame e && entryFrame e + pageBytes (n + 1) ≤ old + size then [(v, at_)] else [])
    else if bit e 0 then s.leavesTo old size n (entryFrame e) v
    else []
/-- Every translation of a frame: context, virtual address, where the entry stands. -/
def State.translations (s : State) (old size : Nat) : List (Nat × Nat × Nat) :=
  s.ctxs.flatMap fun c => (s.leavesTo old size 5 (bits c.ptroot.toNat 12 40 * 4096) 0).map fun p => (c.id, p.1, p.2)

/-! ## Migration (R216) -/

/-- A page of a frame holds pinned lines, of any context. -/
def State.pinnedIn (s : State) (old size : Nat) : Bool := s.pins.any fun p => p.inFrame old size
/-- A range holds a page of the context's regions, which the device pins for its life (R370). -/
def Ctx.holdsPage (c : Ctx) (va n : Nat) : Bool :=
  let r := c.regions
  let hit (b m : Nat) : Bool := m != 0 && va < (b + m + 4095) / 4096 * 4096 && b / 4096 * 4096 < va + n
  hit r.cellar r.cellarSz || hit r.attic (4352 * r.atticN) || hit r.save r.saveSz || hit r.suspect r.suspectSz
/-- A translation lies in its context's regions. -/
def State.keptPage (s : State) (size : Nat) (x : Nat × Nat × Nat) : Bool :=
  ((s.ctx? x.1).map fun (c : Ctx) => c.holdsPage x.2.1 (min size 4096)).getD false
/-- A requester that is not served is answered DECLINED_CONTENDED. -/
def State.decline (s : State) (ctx : Nat) (token : Option Nat) : State :=
  match token with
  | some t => s.answerFault ctx t 3
  | none => s
/-- Mark a translation on demand, and shoot it down: the shoot-down's name is put at the end. -/
def State.markDemand (s : State) (size : Nat) (x : Nat × Nat × Nat) : State × List Nat :=
  let s1 := s.writePa x.2.2 (bytesOf (onDemand (s.readNum x.2.2 8)) 8)
  let (i, s2) := s1.shoot x.1 x.2.1 (min size (pageBytes 2)) none
  (s2, if s2.shootdowns.any fun d => d.id = i then [i] else [])
/-- Mark every translation of a list. -/
def State.markAll (s : State) (size : Nat) : List (Nat × Nat × Nat) → State × List Nat
  | [] => (s, [])
  | x :: xs =>
    let (s1, i) := s.markDemand size x
    let (s2, is) := s1.markAll size xs
    (s2, i ++ is)
/-- PAGE_MIGRATE_REQUEST (R216): the directory's decision for a request that reaches it. A refusal is answered BUSY_PINNED. -/
def execPageMigrateRequest (r : MigrateReq) (s : State) : Out :=
  .next (match s.ctx? r.ctx with
    | none => s
    | some c =>
      match s.leafOf c r.va with
      | none => s
      | some (at_, level) =>
        let (old, n) := pageOf (s.readNum at_ 8) level
        let xs := s.translations old n
        if r.tie then s.decline r.ctx r.token
        else if s.migrations.any fun m => m.old = old then
          { s with migrations := s.migrations.map fun m => if m.old = old then
              { m with held := m.held ++ r.token.toList.map fun t => (r.ctx, t) } else m }
        else if xs.any (s.keptPage n) || (s.pinnedIn old n && !r.forced) then
          { s with pageReplies := s.pageReplies ++ [(r.ctx, r.va / 4096 * 4096, 0x05)] }
        else
          let s1 := if r.forced then s.revokeFrame old n else s
          let leaves := xs.map fun x => (x.2.2, BitVec.ofNat 64 (s.readNum x.2.2 8))
          let (s2, shoots) := s1.markAll n xs
          let m : Migration := ⟨r.ctx, r.va / n * n, old, n, r.frame, r.toward, leaves, shoots, [], r.token⟩
          { s2 with migrations := s2.migrations ++ [m] }.push (.migrationComplete r.ctx m.va))
/-- Move what a table holds of a frame, by units of `k` bytes. -/
def moveTab {α : Type} [DecidableEq α] (z : α) (old new n k : Nat) (t : Tab α) : Tab α :=
  (t.filter fun c => old ≤ c.1 * k && c.1 * k < old + n).foldl (fun m c => Tab.set z m (c.1 - old / k + new / k) c.2)
    (t.filter fun c => !(old ≤ c.1 * k && c.1 * k < old + n) && !(new ≤ c.1 * k && c.1 * k < new + n))
/-- Move the bytes of a frame. -/
def moveBytes (old new n : Nat) (mem : List Host.Cell) : List Host.Cell :=
  (mem.filter fun c => old ≤ c.1 && c.1 < old + n).foldl (fun m c => Tab.set 0 m (c.1 - old + new) c.2)
    (mem.filter fun c => !(new ≤ c.1 && c.1 < new + n))
/-- Move the poison of a frame. -/
def movePoison (old new n : Nat) (ps : List Nat) : List Nat :=
  (ps.filter fun g => old ≤ g * 64 && g * 64 < old + n).foldl (fun a g => insertNat (g - old / 64 + new / 64) a)
    (ps.filter fun g => !(new ≤ g * 64 && g * 64 < new + n))
/-- The guard tags of the blocks of a frame go with them. -/
def moveTags (old new n : Nat) (ts : List (Nat × GuardTag)) : List (Nat × GuardTag) :=
  (ts.filter fun t => !(new ≤ t.1 * 256 && t.1 * 256 < new + n)).map fun t =>
    if old ≤ t.1 * 256 && t.1 * 256 < old + n then (t.1 - old / 256 + new / 256, t.2) else t
/-- The generations of the pages of a frame rise by one where it goes (R290). -/
def risePages (old new n : Nat) (g : Tab Nat) : Tab Nat :=
  (List.range (n / 4096)).foldl (fun a i => Tab.set 0 a (new / 4096 + i) ((Tab.get 0 g (old / 4096 + i) + 1) % 65536)) g
/-- What a party may miss of the writes of a frame goes with it (R298). -/
def moveLate (old new n : Nat) (t : Tab (List Late)) : Tab (List Late) :=
  (moveTab [] old new n 1 t).map fun c =>
    if new ≤ c.1 && c.1 < new + n then (c.1, c.2.map fun (x : Late) => { x with piece := x.piece + new - old }) else c
/-- A frame moves: its bytes, how they are encrypted, what may be missed of its writes, its poison and its guard tags. One that leaves the package is encrypted by
its new home and no longer under a key of this one (R215). -/
def State.moveFrame (s : State) (old new n : Nat) : State :=
  let us := moveTab (0, 0) old new n 256 s.units
  { s with
    mem := moveBytes old new n s.mem
    units := if nodeOf new = s.node then us else
      (us.filter fun u => new ≤ u.1 * 256 && u.1 * 256 < new + n).foldl (fun t u => Tab.set (0, 0) t u.1 (0, u.2.2)) us
    written := moveTab 0 old new n 1 s.written
    late := moveLate old new n s.late
    poison := movePoison old new n s.poison
    tags := moveTags old new n s.tags
    pageGen := risePages old new n s.pageGen }
/-- The shoot-downs of a migration are over. -/
def State.movable (s : State) (m : Migration) : Bool := !s.shootdowns.any fun d => m.shoots.contains d.id
/-- MIGRATION_COMPLETE (R216): once the shoot-downs are over the frame moves, the new leaves are written, the page's generation
rises (R290), and the requests are answered. -/
def execMigrationComplete (ctx va : Nat) (s : State) : Out :=
  .next (match s.migrations.find? fun m => m.ctx = ctx && m.va = va with
    | none => s
    | some m =>
      if !s.movable m then s
      else
        let s1 := { s.moveFrame m.old m.frame m.size with migrations := s.migrations.erase m }
        let s2 := m.leaves.foldl (fun s x =>
          let e := x.2.toNat
          s.writePa x.1 (bytesOf (movedLeaf e (entryFrame e - m.old + m.frame) (nodeOf m.frame != s.node)) 8)) s1
        let s3 := match m.token with | some t => s2.answerFault ctx t 1 | none => s2
        m.held.foldl (fun s t => s.answerFault t.1 t.2 3) s3)

/-! ## Shoot-downs (R217) -/

/-- A queued engine instruction stores to a range of generic memory. -/
def EngineOp.storesTo (op : EngineOp) (va len : Nat) : Bool :=
  match op with
  | .accst _ rows false base stride fmt _ => (Mask.lanes rows).any fun l =>
      let a := (base + l * stride) % 2 ^ 64
      a < va + len && va < a + accstBytes fmt
  | _ => false
/-- A store held in a compare buffer writes to a range. -/
def PairEntry.storesTo (e : PairEntry) (va len : Nat) : Bool :=
  match e.store with
  | some (a, bs) => a < va + len && va < a + bs.length
  | none => false
/-- An access of a core that has used a translation of a range is still to perform (R217): a queued ACCST, or a held store of a
leading copy. -/
def State.usesRange (s : State) (core ctx va len : Nat) : Bool :=
  s.blocksNow.any fun b => b.ctx = ctx && b.core = core &&
    ((s.core core).queue.any (fun e => e.blk = b.id && e.op.storesTo va len) ||
      (b.copy = .leading && b.compare.any fun e => e.storesTo va len))
/-- SHOOTDOWN_ACK (R217). -/
def execShootdownAck (id core : Nat) (s : State) : Out :=
  .next (match s.shootdowns.find? fun d => d.id = id with
    | none => s
    | some d => if s.usesRange core d.ctx d.va d.len then s else s.ackShoot id core)
/-- Cycles of 10 µs. -/
def shootLimit : Nat := 10 * Config.cyclesPerUs
/-- SHOOTDOWN_TIMEOUT (R217): a core silent for 10 µs is fenced, and the shoot-down completes without it. -/
def execShootdownTimeout (id core : Nat) (s : State) : Out :=
  .next (match s.shootdowns.find? fun d => d.id = id with
    | none => s
    | some d => if d.owing.contains core && d.start + shootLimit ≤ s.now then (s.fence core).ackShoot id core else s)

/-! ## Unmapping (R223) -/

/-- Two ranges meet. -/
def meets (a n b m : Nat) : Bool := a < b + m && b < a + n
/-- The source a copy has still to read meets a range. -/
def Copy.readsFrom (x : Copy) (va n : Nat) : Bool :=
  x.isRunning && !x.srcScr && meets (x.src + x.cursor) (x.len - x.cursor) va n
/-- Copies of blocks in flight from unmapped pages stop with XLATE kind 4. -/
def State.stopCopiesFrom (s : State) (ctx va n : Nat) : State :=
  s.blocksNow.foldl (fun s b =>
    if b.ctx != ctx then s
    else (List.range 16).foldl (fun s h => match b.copies.getD h none with
      | some x => if x.readsFrom va n then s.failCopy b.id h { x with fault := none } 3 4 else s
      | none => s) s) s
/-- A saved block's copies from a range stop as well; a fail-arrive reaches both copies of a pair, which are saved together. -/
def Ctx.stopSavedCopies (c : Ctx) (va n : Nat) : Ctx :=
  let stop (x : Copy) : Copy := if x.readsFrom va n then { x with status := .failed 3 4, fault := none } else x
  let owed (b : Block) : List (Nat × Nat) := b.copies.filterMap fun o => o.bind fun x =>
    if x.readsFrom va n then x.bar.map fun off => (off, x.len - x.cursor) else none
  let mates (b : Block) : List (Nat × Nat) :=
    (c.saved.filter fun x => x.node = b.node && x.index = b.index).flatMap owed
  { c with saved := c.saved.map fun b =>
      let b1 := { b with copies := b.copies.map fun o => o.map stop }
      (mates b).foldl (fun x o => x.barrierSet o.1 0 o.2 1 true) b1 }
/-- A copy node that runs from unmapped pages. -/
def Node.readsFrom (n : Node) (va len : Nat) : Bool :=
  n.state = .running && n.record.kind = 1 && meets (n.record.src + 256 * n.copyPos) (n.record.blocks - 256 * n.copyPos) va len
/-- Pins of a page of a leaf are revoked, and the leaf is removed. -/
def State.dropLeaf (s : State) (at_ level : Nat) : State :=
  let e := s.readNum at_ 8
  (s.revokeFrame (entryFrame e) (pageBytes level)).writePa at_ (bytesOf 0 8)
/-- UNMAP (R223): the leaves of a range are removed and shot down, its pins revoked, and copies in flight from it stop. A page of the context's
regions is pinned for its life and stays (R370). -/
def execUnmap (ctx va len : Nat) (s : State) : Out :=
  .next (match s.ctx? ctx with
    | none => s
    | some c =>
      let s2 := (pagesOf va len).foldl (fun s a => match s.leafOf c a with
        | some (at_, level) =>
          let n := pageBytes level
          if c.holdsPage (a / n * n) n then s else s.dropLeaf at_ level
        | none => s) s
      let s3 := (s2.shoot ctx va len none).2
      let s4 := (s3.stopCopiesFrom ctx va len).modCtx ctx fun c => c.stopSavedCopies va len
      (c.nodes.filter fun n => n.readsFrom va len).foldl (fun s n => s.failCopyNode ctx n.key) s4)

end Sys2Proof.Machine
end

