-- ==== Sys2Proof/Machine/Loading.lean ====
section
/-! DEFINITION. Code objects: the kernel header and its checks (R15-R17), constant bank 0 (R19, R20), loading (R14) and code
versions (R21-R23). -/
namespace Sys2Proof.Machine

/-! ## The header (R15) -/

/-- A role descriptor of a header's bytes (R17). -/
def roleOf (bs : List Byte) (k : Nat) : Role :=
  let x := fieldAt bs (0x20 + 8 * k) 8
  ⟨bits x 32 32, bits x 24 4, bits x 8 16, bits x 0 8⟩
/-- The header of its 256 bytes. -/
def headerOf (bs : List Byte) : Header where
  stepping := fieldAt bs 0x06 2
  codeSize := fieldAt bs 0x08 4
  flags := fieldAt bs 0x0C 4
  scratch := fieldAt bs 0x10 4
  depth := fieldAt bs 0x14 1
  gang := fieldAt bs 0x15 1
  accMin := fieldAt bs 0x16 1
  accMax := fieldAt bs 0x17 1
  slots := fieldAt bs 0x18 1
  roles := (List.range (min 4 (fieldAt bs 0x1A 1))).map (roleOf bs)
  dicts := (List.range (min 4 (fieldAt bs 0x19 1))).map fun k => fieldAt bs (0x40 + 8 * k) 8
  consts := (List.range (min 32 (fieldAt bs 0x1B 1))).map fun k => fieldAt bs (0x60 + 4 * k) 4
  cbOff := fieldAt bs 0xE0 4
  cbSize := fieldAt bs 0xE4 4
/-- A role descriptor of a used index is in range. -/
def roleOk (bs : List Byte) (k : Nat) : Bool :=
  let r := roleOf bs k
  let x := fieldAt bs (0x20 + 8 * k) 8
  if k < fieldAt bs 0x1A 1 then
    r.entry % 4 = 0 && r.entry < fieldAt bs 0x08 4 && bits x 28 4 = 0 && r.kind ≤ 3 && r.vmax ≤ 384 && 1 ≤ r.warps && r.warps ≤ 48
  else x = 0
/-- A load-constant entry of a used index is in range (R19, R20). -/
def constOk (bs : List Byte) (k : Nat) : Bool :=
  let x := fieldAt bs (0x60 + 4 * k) 4
  if k < fieldAt bs 0x1B 1 then
    bits x 16 16 % 4 = 0 && bits x 16 16 < fieldAt bs 0xE4 4 && bits x 8 8 = 0 && 1 ≤ bits x 0 8 && bits x 0 8 ≤ 9
  else x = 0
/-- The first pass of R15: each field's offset and whether it is in range. -/
def headerFields (bs : List Byte) : List (Nat × Bool) :=
  let u (o n : Nat) : Nat := fieldAt bs o n
  let front : List (Nat × Bool) :=
    [(0x00, u 0x00 4 == 0x4E563348), (0x04, u 0x04 2 == 1),
     (0x08, u 0x08 4 % 32 == 0 && Nat.ble 32 (u 0x08 4) && Nat.ble (u 0x08 4) 16777216), (0x0C, Nat.blt (u 0x0C 4) 16),
     (0x10, u 0x10 4 % 256 == 0 && Nat.ble (u 0x10 4) 393216), (0x14, Nat.ble (u 0x14 1) 32),
     (0x15, Nat.ble 1 (u 0x15 1) && Nat.ble (u 0x15 1) 4), (0x16, Nat.ble (u 0x16 1) 16),
     (0x17, Nat.ble (u 0x16 1) (u 0x17 1) && Nat.ble (u 0x17 1) 16), (0x18, Nat.ble (u 0x18 1) 32),
     (0x19, Nat.ble (u 0x19 1) 4), (0x1A, Nat.ble 1 (u 0x1A 1) && Nat.ble (u 0x1A 1) 4), (0x1B, Nat.ble (u 0x1B 1) 32),
     (0x1C, u 0x1C 4 == 0)]
  let roles : List (Nat × Bool) := (List.range 4).map fun k => (0x20 + 8 * k, roleOk bs k)
  let dicts : List (Nat × Bool) := (List.range 4).map fun k =>
    (0x40 + 8 * k, if k < u 0x19 1 then u (0x40 + 8 * k) 8 % 64 == 0 else u (0x40 + 8 * k) 8 == 0)
  let consts : List (Nat × Bool) := (List.range 32).map fun k => (0x60 + 4 * k, constOk bs k)
  let back : List (Nat × Bool) :=
    [(0xE0, u 0xE0 4 % 64 == 0), (0xE4, u 0xE4 4 % 4 == 0 && Nat.ble (u 0xE4 4) 65536), (0xE8, u 0xE8 20 == 0),
     (0xFC, u 0xFC 4 == crc32c (bs.take 0xFC))]
  front ++ roles ++ dicts ++ consts ++ back

/-- The role at which the running sum of WARPS first passes 48. -/
def warpsPass (n : Nat) : Nat → List Role → Option Nat
  | _, [] => none
  | k, r :: rs => if n + r.warps > 48 then some (0x20 + 8 * k) else warpsPass (n + r.warps) (k + 1) rs
/-- Every page of a range is mapped: its leaf is valid (R14). No address wraps: one past the address space is not mapped. -/
def State.mappedAt (s : State) (c : Ctx) (va n : Nat) : Bool := n = 0 || (va + n ≤ 2 ^ 57 && s.leafed c va n)
/-- The items of an object after its header, with the offset each is reported at (R15). -/
def Header.items (h : Header) : List (Nat × Nat × Nat) :=
  (List.range h.dicts.length).map (fun k => (0x40 + 8 * k, h.dicts.getD k 0, 6208)) ++
  if h.cbSize = 0 then [] else [(0xE0, h.cbOff, h.cbSize)]
/-- The first item that is not mapped or overlaps the code or an earlier item; `seen` starts with the header and the code.
DESIGN CHOICE (log 134): an item that overlaps the header is refused as one that overlaps the code. -/
def State.badItem (s : State) (c : Ctx) (at_ : Nat) (seen : List (Nat × Nat)) : List (Nat × Nat × Nat) → Option Nat
  | [] => none
  | (o, off, n) :: rest =>
    if !s.mappedAt c (at_ + off) n || seen.any fun p => meets off n p.1 p.2 then some o
    else s.badItem c at_ (seen ++ [(off, n)]) rest
/-- The offset the check of a header at an address reports, or nothing (R14, R15, R79). -/
def State.objectFault (s : State) (c : Ctx) (at_ : Nat) : Option Nat :=
  if !s.mappedAt c at_ 256 then some 0x00
  else
    let bs := s.loadVa c at_ 256
    let h := headerOf bs
    ((headerFields bs).find? fun p => !p.2).map Prod.fst |>.orElse fun _ =>
    (warpsPass 0 0 h.roles).orElse fun _ =>
    (if h.paired && h.gang > 1 then some 0x0C else none).orElse fun _ =>
    (if h.paired && !bit c.feat.featLo 1 then some 0x0C else none).orElse fun _ =>
    (if !s.mappedAt c (at_ + 256) h.codeSize then some 0x08 else none).orElse fun _ =>
    (s.badItem c at_ [(0, 256 + h.codeSize)] h.items).orElse fun _ =>
    ((List.range h.dicts.length).find? fun k =>
      match imageCheck (s.loadVa c (at_ + h.dicts.getD k 0) 6208) with
      | .ok _ => false
      | .error _ => true).map fun k => 0x40 + 8 * k
/-- Bytes of an object. -/
def Header.extent (h : Header) : Nat :=
  h.items.foldl (fun a i => max a (i.2.1 + i.2.2)) (256 + h.codeSize)

/-! ## Bank 0 (R19, R20) -/

/-- The value of a SOURCE selector. -/
def Features.source (r : Features) (k : Nat) : Nat :=
  match k with
  | 1 => r.cores
  | 2 => r.quads
  | 3 => r.dies
  | 4 => r.pkgs
  | 5 => r.stepping
  | 6 => r.featLo
  | 7 => r.featHi
  | 8 => Config.scratchBytes
  | _ => Config.tilesPerCore
/-- Write bytes into a list at an offset. -/
def patchBytes (bs : List Byte) (off : Nat) (new : List Byte) : List Byte :=
  bs.take off ++ new ++ bs.drop (off + new.length)
/-- Constant bank 0 of an object for a context. -/
def State.bank0 (s : State) (c : Ctx) (at_ : Nat) (h : Header) : List Byte :=
  let raw := if h.cbSize = 0 then [] else s.loadVa c (at_ + h.cbOff) h.cbSize
  (h.consts.foldl (fun b k => patchBytes b (bits k 16 16) (bytesOf (c.feat.source (bits k 0 8)) 4)) raw).take h.cbSize
/-- The offsets of bank 0 whose bytes came poisoned (R333): those that no entry has overwritten. -/
def State.bad0 (s : State) (c : Ctx) (at_ : Nat) (h : Header) : List Nat :=
  (s.badBytes c (at_ + h.cbOff) h.cbSize).filter fun i => !h.consts.any fun k => bits k 16 16 ≤ i && i < bits k 16 16 + 4

/-! ## Loading and updating (R14, R21) -/

/-- An address lies in a loaded object. -/
def Ctx.insideObject (c : Ctx) (va : Nat) : Bool := c.objects.any fun o => o.addr ≤ va && va < o.addr + o.size
/-- Load the object at an address, with version tag 0: the shoot-down of its pages, and the state; or the status and DETAIL with which it
fails. -/
def State.loadObject (s : State) (c : Ctx) (at_ : Nat) : Except (Nat × Nat) (Nat × State) :=
  if at_ % 256 != 0 || c.insideObject at_ then .error (0x02, 0)
  else match s.objectFault c at_ with
    | some off => .error (0x06, off)
    | none =>
      let h := headerOf (s.loadVa c at_ 256)
      let n := h.extent
      let first := at_ / 4096 * 4096
      let len := (at_ + n - first + 4095) / 4096 * 4096
      let o : CodeObj := ⟨at_, n, 0, [⟨0, h, s.bank0 c at_ h, s.bad0 c at_ h, []⟩]⟩
      let s1 := (s.setSealed c first len true).modCtx c.id fun c => { c with objects := c.objects ++ [o] }
      .ok (s1.shoot c.id first len none)
/-- The next free version tag after the current one (R21). -/
def CodeObj.nextTag (o : CodeObj) : Option Nat :=
  ((List.range 16).map fun i => (o.current + 1 + i) % 16).find? fun t => !o.versions.any fun v => v.tag = t
/-- The pages of a new version: those that lie in the old version and read as it does share what it has. -/
def State.newPages (s : State) (c : Ctx) (o : CodeObj) (old : Version) (image n : Nat) : List (Nat × List Byte) :=
  (List.range ((n + 4095) / 4096)).filterMap fun k =>
    let bs := s.loadVa c (image + 4096 * k) (min 4096 (n - 4096 * k))
    if 4096 * k + bs.length ≤ old.header.extent && s.versionBytes c o.addr old (4096 * k) bs.length = bs then old.pages.find? fun p => p.1 = k else some (k, bs)
/-- Update an object from a new image: its status and DETAIL. DESIGN CHOICES: the image may lie in a loaded object (log 135); an
invalid image is reported before 16 held tags (log 136); a version longer than the object takes the addresses that follow it
(log 137). -/
def State.updateObject (s : State) (c : Ctx) (obj image : Nat) : State × Nat × Nat :=
  match c.object? obj with
  | none => (s, 0x03, 0)
  | some o =>
    if image % 256 != 0 then (s, 0x02, 0)
    else match s.objectFault c image, o.version o.current with
      | some off, _ => (s, 0x06, off)
      | none, none => (s, 0x03, 0)
      | none, some old =>
        match o.nextTag with
        | none => (s, 0x04, 0)
        | some t =>
          let h := headerOf (s.loadVa c image 256)
          let v : Version := ⟨t, h, s.bank0 c image h, s.bad0 c image h, s.newPages c o old image h.extent⟩
          let o1 : CodeObj := { o with current := t, size := max o.size h.extent, versions := o.versions ++ [v] }
          (s.modCtx c.id fun c =>
            Ctx.prune { c with objects := c.objects.map fun x => if x.addr = obj then o1 else x }, 0x00, 0)

end Sys2Proof.Machine
end

