-- ==== Sys2Proof/Machine/Commands.lean ====
section
/-! DEFINITION. The management queues (R367-R369): the watched lines (R29, R30), command records (R368), and every command;
the events TAIL_REREAD and BAD_COMMAND_RECORD. -/
namespace Sys2Proof.Machine

/-! ## Records (R368) -/

/-- Where management queue `k` stands in the memory of a node. DESIGN CHOICE (log 10): counted down from the end of local
memory, 64 KiB each; 0 is the device queue, `id + 1` the queue of context `id`. -/
def mgmtBase (node k : Nat) : Nat := node * 2 ^ 40 + Config.localBytes - 65536 * (k + 1)
/-- A management queue as it opens: 256 records, its watched line after them. -/
def MgmtQueue.open_ (q : MgmtQ) (base : Nat) : MgmtQueue := ⟨q, base, 8, base + 16384, 0, 0, false, none⟩
/-- A management queue by name. -/
def State.mgmtQueue (s : State) (q : MgmtQ) : Option MgmtQueue := s.mgmt.find? fun m => m.q = q
/-- Change a management queue. -/
def State.modMgmt (s : State) (q : MgmtQ) (f : MgmtQueue → MgmtQueue) : State :=
  { s with mgmt := s.mgmt.map fun m => if m.q = q then f m else m }
/-- The address of a record. -/
def MgmtQueue.recordAt (m : MgmtQueue) (i : Nat) : Nat := m.base + i % 2 ^ m.log2 * 64
/-- Codes that only the device queue takes (R369). -/
def deviceOnly (code : Nat) : Bool := [0x01, 0x02, 0x13, 0x15, 0x16, 0x17].contains code
/-- The command of a code (R369). -/
def commandOf (code : Nat) (c : Cmd) : Option Instr :=
  match code with
  | 0x01 => some (.ctxCreate c)
  | 0x02 => some (.ctxDestroy c)
  | 0x03 => some (.loadObject c)
  | 0x04 => some (.updateObject c)
  | 0x05 => some (.queueCreate c)
  | 0x06 => some (.queueReset c)
  | 0x07 => some (.cancel c)
  | 0x08 => some (.resume c)
  | 0x09 => some (.fail c)
  | 0x0A => some (.ctxRead c)
  | 0x0B => some (.switchOut c)
  | 0x0C => some (.restore c)
  | 0x0D => some (.migrate c)
  | 0x0E => some (.setXlate c)
  | 0x0F => some (.setWindow c)
  | 0x10 => some (.faultAnswer c)
  | 0x11 => some (.groupCreate c)
  | 0x12 => some (.groupJoin c)
  | 0x13 => some (.fenceCore c)
  | 0x14 => some (.release c)
  | 0x15 => some (.bankRead c)
  | 0x16 => some (.keyBind c)
  | 0x17 => some (.keyClear c)
  | _ => none
/-- An argument of a record. -/
def argAt (bs : List Byte) (i : Nat) : DWord := BitVec.ofNat 64 (fieldAt bs (8 + 8 * i) 8)
/-- The command record `i` of a queue, from its bytes; one that is bad is performed as BAD_COMMAND_RECORD. -/
def commandFrom (q : MgmtQ) (i : Nat) (bs : List Byte) : Instr :=
  let code := fieldAt bs 2 2
  let c : Cmd := ⟨q, i, argAt bs 0, argAt bs 1, argAt bs 2, argAt bs 3, argAt bs 4, argAt bs 5⟩
  if fieldAt bs 0 2 = i % 2 ^ 16 && fieldAt bs 4 4 = 0 && fieldAt bs 0x3C 4 = crc32c (bs.take 0x38) &&
      (q = .device || !deviceOnly code) then (commandOf code c).getD (.badCommandRecord q i)
  else .badCommandRecord q i
/-- The command at HEAD of a queue. -/
def State.nextCommand (s : State) (m : MgmtQueue) : Instr := commandFrom m.q m.head (s.readPas (m.recordAt m.head) 64)
/-- A command completes (R368): its REPLY and HEAD are written, and the next command of its queue begins. -/
def State.reply (s : State) (m : MgmtQueue) (status detail : Nat) : State :=
  let h := (m.head + 1) % 2 ^ 32
  let s1 := s.writePa (m.recordAt m.head + 0x38) (bytesOf (detail % 2 ^ 24 * 256 + status % 256) 4)
  let s2 := (s1.modMgmt m.q fun x => { x with head := h }).writePa (m.watch + 8) (bytesOf h 4)
  match s2.mgmtQueue m.q with
  | some x => if h = x.tail then s2 else s2.push (s2.nextCommand x)
  | none => s2

/-! ## What the commands share -/

/-- A command's outcome: the state, the STATUS, the DETAIL. -/
abbrev Done := State × Nat × Nat
/-- Perform the command at HEAD of its queue. -/
def State.command (s : State) (q : MgmtQ) (i : Nat) (k : State → Done) : State :=
  match s.mgmtQueue q with
  | none => s
  | some m => if m.head != i then s else let r := k s; r.1.reply m r.2.1 r.2.2
/-- The arguments of a command. -/
def argsOf (c : Cmd) : List DWord := [c.a0, c.a1, c.a2, c.a3, c.a4, c.a5]
/-- The arguments after the first `n` are zero (R369). -/
def onlyArgs (c : Cmd) (n : Nat) : Bool := ((argsOf c).drop n).all (· = 0)
/-- Perform a command with `n` arguments. -/
def State.perform (s : State) (c : Cmd) (n : Nat) (k : State → Done) : Out :=
  .next (s.command c.queue c.index fun s => if onlyArgs c n then k s else (s, 0x02, 0))
/-- Perform a command of a context queue with `n` arguments; on the device queue it names no context. -/
def State.performIn (s : State) (c : Cmd) (n : Nat) (k : State → Ctx → Done) : Out :=
  s.perform c n fun s => match c.queue with
    | .device => (s, 0x03, 0)
    | .context id => match s.ctx? id with
      | some x => k s x
      | none => (s, 0x03, 0)
/-- BAD_COMMAND_RECORD (R368, R369): a record with a bad SEQ, RECCRC, reserved field or code. -/
def execBadCommandRecord (q : MgmtQ) (index : Nat) (s : State) : Out := .next (s.command q index fun s => (s, 0x01, 0))

/-! ## TAIL (R29, R30) -/

/-- TAIL of a launch queue is read (R29): as 0 where the watched line does not translate. DESIGN CHOICE (log 157). -/
def State.rereadLaunch (s : State) (c : Ctx) (x : LaunchQ) : State :=
  let tail := ofBytes (s.loadVa c x.watch 4)
  let far := (tail + 2 ^ 32 - x.head) % 2 ^ 32 > 2 ^ x.log2
  if c.state != .running || tail = x.tail then s
  else if !far then (s.modQueue c.id x.id fun x => { x with tail := tail }).push (.recordTake c.id x.id)
  else if x.error then s
  else (s.modQueue c.id x.id fun x => { x with error := true }).post c.id 0x01 0 (BitVec.ofNat 64 x.id) (BitVec.ofNat 64 tail) 0
/-- TAIL of a management queue is read. -/
def State.rereadMgmt (s : State) (m : MgmtQueue) : State :=
  let tail := s.readNum m.watch 4
  if m.error || tail = m.tail then s
  else if (tail + 2 ^ 32 - m.head) % 2 ^ 32 > 2 ^ m.log2 then
    let s1 := s.modMgmt m.q fun x => { x with error := true }
    match m.q with
    | .context id => s1.post id 0x01 0 0xFFFFFFFF (BitVec.ofNat 64 tail) 0
    | .device => s1
  else
    let s1 := s.modMgmt m.q fun x => { x with tail := tail }
    if m.head = m.tail then s1.push (s1.nextCommand m) else s1
/-- TAIL_REREAD (R29, R30, R367). -/
def execTailReread (q : QueueRef) (s : State) : Out :=
  .next (match q with
    | .launch ctx i => match s.ctx? ctx with
      | none => s
      | some c => match c.queue? i with
        | some x => s.rereadLaunch c x
        | none => s
    | .mgmt q => match s.mgmtQueue q with
      | some m => s.rereadMgmt m
      | none => s)

/-! ## CTX_CREATE and CTX_DESTROY -/

/-- The regions of a region descriptor (R370). -/
def Regions.of (bs : List Byte) (cellarSz : Nat) : Regions :=
  ⟨fieldAt bs 0x00 8, cellarSz, fieldAt bs 0x08 8, fieldAt bs 0x10 4, fieldAt bs 0x18 8, fieldAt bs 0x20 8, fieldAt bs 0x28 8,
    fieldAt bs 0x30 4⟩
/-- The regions as ranges. -/
def Regions.ranges (r : Regions) : List (Nat × Nat) :=
  [(r.cellar, r.cellarSz), (r.attic, 4352 * r.atticN), (r.save, r.saveSz), (r.suspect, r.suspectSz)]
/-- No range of a list meets a later one. -/
def apart : List (Nat × Nat) → Bool
  | [] => true
  | r :: rs => rs.all (fun x => !meets r.1 r.2 x.1 x.2) && apart rs
/-- The descriptor follows R370. -/
def State.regionsOk (s : State) (c : Ctx) (bs : List Byte) : Bool :=
  let r := c.regions
  fieldAt bs 0x14 4 = 0 && fieldAt bs 0x34 12 = 0 && 1 ≤ r.atticN && r.atticN ≤ 65536 && r.saveSz % 65536 = 0 &&
  r.suspectSz != 0 && r.suspectSz % 4096 = 0 && apart r.ranges &&
  r.ranges.all fun x => x.1 % 65536 = 0 && s.mappedAt c x.1 x.2
/-- The slack limit of R347: 0 selects 2,048. -/
def slackOf (x : Nat) : Option Nat := if x = 0 then some 2048 else if 256 ≤ x && x ≤ 16384 then some x else none
/-- The lowest context ID that is free, of 12 bits without 0xFFF, which names no context (R334); nothing while 64 contexts are
resident (R2). A context that is switched out still counts. DESIGN CHOICE (log 154). -/
def State.freeCtx (s : State) : Option Nat :=
  if s.ctxs.length ≥ Config.residentContexts then none else (List.range 0xFFF).find? fun i => (s.ctx? i).isNone
/-- The cores of a grant mask that serve. -/
def State.grantOf (s : State) (mask : Nat) : List Nat :=
  (List.range s.cores.length).filter fun k => mask.testBit k && (s.core k).healthy
/-- The nodes of a list of 2-byte node numbers, which 0xFFFF ends (PRESUMED, log 60). -/
def State.nodesFrom (s : State) (pa : Nat) : Nat → List Nat
  | 0 => []
  | n + 1 => let x := s.readNum pa 2; if x = 0xFFFF then [] else x :: s.nodesFrom (pa + 2) n
/-- How many of some numbers differ. -/
def distinct (xs : List Nat) : Nat := (xs.foldl (fun a x => insertNat x a) []).length
/-- The feature record of a new context (R325). -/
def State.featuresFor (s : State) (grant : List Nat) (feat : Nat) : Features :=
  ⟨s.stepping, feat % 2 ^ 32, feat / 2 ^ 32, grant.length, distinct (grant.map quadOf), distinct (grant.map dieOf),
    Config.packages, Config.featureLevel⟩
/-- A new context (R209, R320): every register at its reset value. -/
def Ctx.make (id : Nat) (grant : List Nat) (feat : Features) (slack : Nat) (r : Regions) (ring : Nat) (masters : List Nat) : Ctx where
  id := id
  state := .running
  grant := grant
  feat := feat
  slack := slack
  regions := r
  slotSets := grant
  ring := ⟨ring, 0, [], 0⟩
  srseed := 0
  ctxcfg := 0
  bpa := List.replicate 8 0
  errinj := 0
  csrLog := []
  errCount := 0
  ptroot := 0
  heapcfg := 0
  heapbase := 0
  heaplimit := 0
  heapoff := 0
  queues := []
  objects := []
  nodes := []
  credits := []
  delayed := []
  attic := []
  faults := []
  nextToken := 0
  saved := []
  suspectUsed := 8
  groups := []
  lists := []
  masters := masters
/-- The core positions that have a slot set: the cores of the grant and the spares of their dies, ascending (R111; the order is
a DESIGN CHOICE, log 13). -/
def State.slotSetsOf (s : State) (grant : List Nat) : List Nat :=
  (List.range s.cores.length).filter fun k =>
    grant.contains k || (s.spareMap.contains k && grant.any fun g => dieOf g = dieOf k)
/-- CTX_CREATE (R325, R347, R369, R370). -/
def execCtxCreate (c : Cmd) (s : State) : Out :=
  s.perform c 6 fun s =>
    let grant := s.grantOf (s.readNum c.a0.toNat 36)
    let bs := s.readPas c.a1.toNat 64
    let feat := s.featuresFor grant c.a2.toNat
    let r := Regions.of bs (48 * 196608 * (feat.cores + 4 * feat.dies))
    match s.freeCtx, slackOf c.a3.toNat with
    | none, _ => (s, 0x07, 0)
    | _, none => (s, 0x02, 0)
    | some id, some slack =>
      let x := { Ctx.make id grant feat slack r c.a4.toNat (s.nodesFrom c.a5.toNat 2048) with slotSets := s.slotSetsOf grant }
      if grant.isEmpty || c.a2.toNat ≥ 4 || !s.regionsOk x bs then (s, 0x02, 0)
      else
        let s1 : State := { s with
          ctxs := s.ctxs ++ [x]
          mgmt := s.mgmt ++ [MgmtQueue.open_ (.context id) (mgmtBase s.node (id + 1))] }
        (s1.storeVa x r.suspect (bytesOf 0xFFFFFFFF 4 ++ bytesOf 0xFFFF 2 ++ bytesOf 0 2), 0x00, id)
/-- Nothing of a context is left on the device. -/
def State.removeCtx (s : State) (id : Nat) : State :=
  { s with
    ctxs := s.ctxs.filter fun c => c.id != id
    mgmt := s.mgmt.filter fun m => m.q != .context id
    caches := s.caches.filter fun x => x.ctx != id
    pins := s.pins.filter fun p => p.ctx != id
    shootdowns := s.shootdowns.filter fun d => d.ctx != id
    migrations := s.migrations.filter fun m => m.ctx != id
    sbarInsts := s.sbarInsts.filter fun i => i.ctx != id
    unfenced := s.unfenced.filter fun u => u.ctx != id
    pageReplies := s.pageReplies.filter fun r => r.1 != id
    frozenCtxs := s.frozenCtxs.filter fun x => x.1 != id
    dies := s.dies.map fun d => { d with tlb := d.tlb.filter fun e => e.ctx != id }
    cores := s.cores.map fun k => { k with
      tlb := k.tlb.filter fun e => e.ctx != id
      larder := k.larder.map fun o => o.bind fun (x : LarderSlot) => if x.ctx = id then none else some x } }
/-- CTX_DESTROY (R369): the context is killed with CTX_KILLED and freed. -/
def execCtxDestroy (c : Cmd) (s : State) : Out :=
  s.perform c 1 fun s => match s.ctx? c.a0.toNat with
    | none => (s, 0x03, 0)
    | some x => ((s.killContext x.id none).removeCtx x.id, 0x00, 0)

/-! ## Code objects and queues -/

/-- A shoot-down is in progress. -/
def State.shootLasts (s : State) (id : Nat) : Bool := s.shootdowns.any fun d => d.id = id
/-- LOAD_OBJECT (R14): it seals the object as SEAL does and replies once its shoot-down has completed (R237). -/
def execLoadObject (c : Cmd) (s : State) : Out :=
  match (s.mgmtQueue c.queue).bind fun m => if m.head = c.index then m.hold else none with
  | some (id, _) =>
    if s.shootLasts id then .next s
    else s.performIn c 1 fun s _ => (s.modMgmt c.queue fun m => { m with hold := none }, 0x00, 0)
  | none =>
    let go (x : Ctx) : Option (Nat × State) :=
      if !onlyArgs c 1 then none
      else match s.loadObject x c.a0.toNat with
        | .ok (id, t) => if t.shootLasts id then some (id, t) else none
        | .error _ => none
    match (match c.queue with | .context id => s.ctx? id | .device => none).bind go, (s.mgmtQueue c.queue).any fun m => m.head = c.index with
    | some (id, t), true => .next (t.modMgmt c.queue fun m => { m with hold := some (id, .loadObject c) })
    | _, _ => s.performIn c 1 fun s x => match s.loadObject x c.a0.toNat with
      | .ok (_, t) => (t, 0x00, 0)
      | .error e => (s, e.1, e.2)
/-- UPDATE_OBJECT (R21). -/
def execUpdateObject (c : Cmd) (s : State) : Out := s.performIn c 2 fun s x => s.updateObject x c.a0.toNat c.a1.toNat
/-- WDCFG with its defaults; nothing when a field is out of range (R326). -/
def wdcfgOf (x : Nat) : Option Nat :=
  let limit := if bits x 0 16 = 0 then 250 else bits x 0 16
  let grace := if bits x 16 16 = 0 then 50 else bits x 16 16
  if x < 2 ^ 32 && limit ≤ 60000 && grace ≤ 1000 then some (grace * 2 ^ 16 + limit) else none
/-- QUEUE_CREATE (R28, R326). -/
def execQueueCreate (c : Cmd) (s : State) : Out :=
  s.performIn c 4 fun s x =>
    let log2 := c.a1.toNat
    match wdcfgOf c.a3.toNat with
    | none => (s, 0x02, 0)
    | some wd =>
      if c.a0.toNat % 4096 != 0 || log2 < 4 || log2 > 15 || c.a2.toNat % 64 != 0 then (s, 0x02, 0)
      else if x.queues.length ≥ 64 then (s, 0x07, 0)
      else
        let n := x.queues.length
        let q : LaunchQ := ⟨n, c.a0.toNat, log2, c.a2.toNat, BitVec.ofNat 64 wd, 0, 0, false, 0⟩
        (s.modCtx x.id fun x => { x with queues := x.queues ++ [q] }, 0x00, n)
/-- QUEUE_RESET (R30). -/
def execQueueReset (c : Cmd) (s : State) : Out :=
  s.performIn c 1 fun s x => match x.queue? c.a0.toNat with
    | none => (s, 0x03, 0)
    | some q => ((s.modQueue x.id q.id fun q => { q with error := false }).pump x.id, 0x00, 0)

/-! ## Nodes and blocks -/

/-- The named live node of a context; 0 names none. -/
def Ctx.commanded (c : Ctx) (id : DWord) : Option Node := if id = 0 then none else c.named id.toNat
/-- Blocks of a node on the device. -/
def State.blocksOf (s : State) (ctx key : Nat) : List Block := s.blocksNow.filter fun b => b.ctx = ctx && b.node = key
/-- A member of a block's unit has started: the unit starts whole, and runs to its end (R48, R59). -/
def unitBegun (bs : List Block) (b : Block) : Bool :=
  bs.any fun x => x.index / x.header.gang = b.index / b.header.gang && x.started
/-- Blocks of a node whose units have started and that have not been counted, each pair once. -/
def State.startedOpen (s : State) (c : Ctx) (key : Nat) : List Nat :=
  let bs := s.blocksOf c.id key ++ c.saved.filter fun b => b.node = key
  (bs.filter fun b => unitBegun bs b && b.counted.isNone && b.copy != .trailing).map Block.index
/-- The units of a node that have not started leave the device. -/
def State.dropUnstarted (s : State) (ctx key : Nat) : State :=
  let bs := s.blocksOf ctx key
  bs.foldl (fun s b => if (s.block? b.id).isSome && !unitBegun bs b && !b.isEnded then s.dropUnit b else s) s
/-- Cancel a node (R48): what has not started, or all of it when the watchdog suspended it, is counted KILLED. DESIGN CHOICE
(log 138): a burst that waits for the fault service is not in progress. -/
def State.cancelNode (s : State) (c : Ctx) (n : Node) : State :=
  let s1 := (s.dropUnstarted c.id n.key).modCtx c.id fun c =>
    { c with
      saved := if n.state = .suspended then c.saved.filter fun b => b.node != n.key else c.saved
      faults := c.faults.filter fun q => q.owner != .copyNode n.key }
  let open_ := match s1.ctx? c.id with | some c => s1.startedOpen c n.key | none => []
  let left := n.record.total - (n.done + n.fail + n.kill + open_.length)
  let out := (s.blocksOf c.id n.key).filter fun b => !unitBegun (s.blocksOf c.id n.key) b
  let held := if n.state = .suspended then c.saved.filter fun b => b.node = n.key && b.counted.isNone else []
  let first := ((out ++ held).map Block.index ++ n.redo).foldl min (if n.record.kind = 0 then n.next else n.copyPos)
  let cut (n : Node) : Node := { n.count_ first left .killed with cancelled := true, redo := [], next := n.record.total, starved := false, passed := false }
  let s2 := s1.modNode c.id n.key cut
  if n.state = .waiting || n.state = .ready then s2.finishNode c.id n.key 5 0x0C true else s2.checkFinish c.id n.key
/-- CANCEL (R48). -/
def execCancel (c : Cmd) (s : State) : Out :=
  s.performIn c 1 fun s x => match x.commanded c.a0 with
    | none => (s, 0x03, 0)
    | some n => (s.cancelNode x n, 0x00, 0)

/-- A halted block runs on (R313): its engine work, copies and barriers with it. -/
def State.resumeBlock (s : State) (id : Nat) : State :=
  match s.block? id with
  | none => s
  | some b =>
    ((s.modBlk id fun b => { b with state := .running, queued := [], haltCause := 0 }).resumeWork b).maybeEnd id
/-- Threads of a warp that a RESUME names and that TRET parked become eligible (R315). -/
def Warp.unpark (w : Warp) (m : Mask) : Warp :=
  w.mapThreads m fun _ t => if t.status = .parked .tret then { t with status := .eligible } else t
/-- The warp has a thread of a mask that TRET parked. -/
def Warp.hasParked (w : Warp) (m : Mask) : Bool := (Mask.lanes m).any fun l => (w.thread l).status = .parked .tret
/-- A block has a thread of a warp and a mask that TRET parked. -/
def Block.hasParked (b : Block) (warp : Nat) (m : Mask) : Bool := b.warps.any fun w => w.idx = warp && w.hasParked m
/-- A saved block is resumed where it is saved. -/
def Block.resumeSaved (b : Block) (halted : Bool) (warp : Nat) (m : Mask) : Block :=
  if halted then (if b.state = .halted then { b with state := .running, haltCause := 0 } else b)
  else { b with warps := b.warps.map fun w => if w.idx = warp then w.unpark m else w }
/-- RESUME of halted blocks or parked threads of a node (R313, R315). -/
def State.resumeNode (s : State) (c : Ctx) (n : Node) (index : DWord) (warp : Nat) (m : Mask) : Done :=
  let pick (b : Block) : Bool := b.ctx = c.id && b.node = n.key && (index = BitVec.allOnes 64 || b.index = index.toNat)
  let here := s.blocksNow.filter pick
  let there := c.saved.filter pick
  let saved (halted : Bool) (s : State) : State := s.modCtx c.id fun c =>
    { c with saved := c.saved.map fun b => if pick b then b.resumeSaved halted warp m else b }
  if (here ++ there).any fun b => b.state = .halted then
    ((here.filter fun b => b.state = .halted).foldl (fun s b => s.resumeBlock b.id) (saved true s), 0x00, 0)
  else if (here ++ there).any fun b => b.hasParked warp m then
    (here.foldl (fun s b => s.modWarp b.id warp fun w => w.unpark m) (saved false s), 0x00, 0)
  else (s, 0x03, 0)
/-- RESUME (R313, R315, R327). -/
def execResume (c : Cmd) (s : State) : Out :=
  s.performIn c 5 fun s x => match x.commanded c.a0 with
    | none => (s, 0x03, 0)
    | some n =>
      if n.state = .suspended then
        let s1 := (s.modNode x.id n.key fun n => { n with state := .running, progress := s.now }).push .placementDecision
        (if n.record.kind = 1 then s1.push (.copyBurst (.node x.id n.key)) else s1, 0x00, 0)
      else s.resumeNode x n c.a1 (c.a2.toNat % 256) (c.a4 ++ c.a3)
/-- FAIL (R313): a halted block ends FAILED with reason TRAP. -/
def execFail (c : Cmd) (s : State) : Out :=
  s.performIn c 2 fun s x => match x.commanded c.a0 with
    | none => (s, 0x03, 0)
    | some n =>
      let pick (b : Block) : Bool := b.ctx = x.id && b.node = n.key && b.index = c.a1.toNat && b.state = .halted
      let here := s.blocksNow.filter pick
      if here.isEmpty && !x.saved.any pick then (s, 0x03, 0)
      else
        let s1 := here.foldl (fun s b => s.endBlock b.id (.failed 0x08 b.haltCause) true) s
        let ids := (x.saved.filter pick).map Block.id
        let gone (e : EngineEntry) : Bool := ids.any e.of
        let es := (x.saved.flatMap fun b => b.queued ++ b.parts).filter gone
        let end_ (b : Block) : Block :=
          let b1 := ((es.filter fun e => e.blk = b.id).filterMap fun e => e.op.arrive).foldl (fun y off => y.barrierSet off 0 0 1 true) b
          let b2 := { b1 with queued := b1.queued.filter fun e => !gone e, parts := b1.parts.filter fun e => !gone e }
          if pick b then { b2.stopCopies with state := .ended (.failed 0x08 b.haltCause) } else b2
        (s1.modCtx x.id fun x => { x with saved := x.saved.map end_ }, 0x00, 0)

/-! ## Saved blocks, switching and moving (R328-R331) -/

/-- The saved record of a block that is saved, or that stands halted on a core (R93, R329). -/
def State.savedOf (s : State) (x : Ctx) (node index : Nat) : Option Block :=
  match x.saved.find? fun b => b.node = node && b.index = index with
  | some b => some b
  | none => (s.blocksNow.find? fun b => b.ctx = x.id && b.node = node && b.index = index && b.state = .halted).map fun b =>
      s.savedBlock b false
/-- CTX_READ (R329). -/
def execCtxRead (c : Cmd) (s : State) : Out :=
  s.performIn c 4 fun s x => match x.commanded c.a0 with
    | none => (s, 0x03, 0)
    | some n => match s.savedOf x n.key c.a1.toNat with
      | none => (s, 0x03, 0)
      | some b =>
        let s1 : State := { s with free := s.free + 1 }
        (s1.storeVa x c.a2.toNat ((b.savedRecord s.free).take c.a3.toNat), 0x00, 0)
/-- Pre-empt every block of a context (R330); nothing when the save region is too small. -/
def State.switchOut (s : State) (c : Ctx) : Option State :=
  let bs := s.blocksNow.filter fun b => b.ctx = c.id
  if !s.saveFits c.id (bs.filter fun b => b.started) then none
  else
    let s1 := bs.foldl (fun s b => match s.block? b.id with
      | some b => (s.preemptUnit b false).getD s
      | none => s) s
    some (s1.modCtx c.id fun c => { c with state := .out })
/-- SWITCH_OUT (R330, R370). -/
def execSwitchOut (c : Cmd) (s : State) : Out :=
  s.performIn c 0 fun s x =>
    if x.state != .running then (s, 0x02, 0)
    else match s.switchOut x with
      | some s1 => (s1, 0x00, 0)
      | none => (s, 0x07, 0)
/-- A context that is switched out goes on (R330): its blocks are placed again, and its queues, deliveries and copies with them. -/
def State.restore (s : State) (x : Ctx) : State :=
  let s1 := (s.modCtx x.id fun c => { c with state := .running }).push .placementDecision
  let s2 := x.queues.foldl (fun s q => s.push (.tailReread (.launch x.id q.id))) (s1.pump x.id)
  let copies := x.nodes.filter fun n => n.record.kind = 1 && (n.state = .ready || n.state = .running)
  copies.foldl (fun s n => s.push (.copyBurst (.node x.id n.key))) (s2.push (.delayedDelivery x.id))
/-- RESTORE (R330). -/
def execRestore (c : Cmd) (s : State) : Out :=
  s.performIn c 0 fun s x => if x.state != .out then (s, 0x02, 0) else (s.restore x, 0x00, 0)
/-- Every pin of a context is revoked (R331). -/
def State.revokeAll (s : State) (ctx : Nat) : State :=
  ((s.pins.filter fun p => p.ctx = ctx).map fun p => p.va / 4096).eraseDups.foldl (fun s p => s.revokePins ctx (p * 4096)) s
/-- No TLB entry of a context is left: none is carried by a migration (R331). -/
def State.forgetTlb (s : State) (ctx : Nat) : State :=
  { s with
    cores := s.cores.map fun k => { k with tlb := k.tlb.filter fun e => e.ctx != ctx }
    dies := s.dies.map fun d => { d with tlb := d.tlb.filter fun e => e.ctx != ctx } }
/-- The bytes of a context's memory that are not 0, as it reads them, by virtual address: what the leaves of its tables reach, its save region
among it. -/
def State.memoryOf (s : State) (c : Ctx) : List (Nat × Byte) :=
  (s.leavesTo 0 (2 ^ 64) 5 (bits c.ptroot.toNat 12 40 * 4096) 0).flatMap fun p =>
    match s.xlat c p.1 with
    | .ok l =>
      let n := pageBytes l.level
      (s.mem.filter fun x => l.pa ≤ x.1 && x.1 < l.pa + n).map fun x => (p.1 + (x.1 - l.pa), s.readKey c.id (s.keyName l.key) x.1)
    | _ => []
/-- A context moves to another package with its memory, its code versions and its saved blocks (R331). -/
def State.depart (s : State) (x : Ctx) (dest : Nat) : State :=
  match s.ctx? x.id with
  | none => s
  | some c => { s.removeCtx c.id with departed := s.departed ++ [⟨dest, c, s.memoryOf c⟩] }
/-- MIGRATE (R331): the context is switched out and its pins are revoked with PIN_REVOKED. Its restore takes place on the target
package, whose feature level is at least the context's: on this one when that is the target, else the context moves there (log 99). -/
def execMigrate (c : Cmd) (s : State) : Out :=
  s.performIn c 1 fun s x =>
    let dest := c.a0.toNat
    let level := if dest = s.node then Config.featureLevel else Config.levelOf dest
    if dest ≥ 1024 || x.state = .killed || level < x.feat.level then (s, 0x02, 0)
    else match (if x.state = .out then some s else s.switchOut x) with
      | none => (s, 0x07, 0)
      | some s1 =>
        let s2 := s1.revokeAll x.id
        if dest != s.node then (s2.depart x dest, 0x00, 0)
        else match (s2.forgetTlb x.id).ctx? x.id with
          | some y => ((s2.forgetTlb x.id).restore y, 0x00, 0)
          | none => (s2, 0x00, 0)

/-! ## Translation, windows and faults -/

/-- A heap window maps inside this package's memory, or none is in use (R209). -/
def State.heapFits (s : State) (cfg base limit off : Nat) : Bool :=
  !bit cfg 0 || limit ≤ base ||
    (let pa := (base + off) % 2 ^ 64
     s.node * 2 ^ 40 ≤ pa && pa + (limit - base) ≤ s.node * 2 ^ 40 + Config.localBytes)
/-- SET_XLATE (R209): the registers take their fields, and every translation of the context is shot down. -/
def execSetXlate (c : Cmd) (s : State) : Out :=
  s.performIn c 5 fun s x =>
    let cfg := c.a1 &&& 0x000003FF00000003
    let base := c.a2 &&& 0x01FFFFFFFFE00000
    let limit := c.a3 &&& 0x01FFFFFFFFE00000
    if !s.heapFits cfg.toNat base.toNat limit.toNat c.a4.toNat then (s, 0x02, 0)
    else
      let s1 := s.modCtx x.id fun x => { x with
        ptroot := c.a0 &&& 0x000FFFFFFFFFF000, heapcfg := cfg, heapbase := base, heaplimit := limit, heapoff := c.a4 }
      ((s1.shoot x.id 0 (2 ^ 57) none).2, 0x00, 0)
/-- SET_WINDOW (R225, R226): every line tagged with the window is dropped. -/
def execSetWindow (c : Cmd) (s : State) : Out :=
  s.perform c 6 fun s =>
    let i := c.a0.toNat
    if i ≥ 64 then (s, 0x02, 0)
    else
      let w : FmtWin := ⟨i, c.a1 &&& 0xFFF00F000FFF0001, c.a2 &&& 0x00FFFFFFFFFFFFFF, c.a3 &&& 0x01FFFFFFFFFFFFFF,
        c.a4 &&& 0x01FFFFFFFFFFFFFF, c.a5 &&& 0x01FFFFFFFFFFFFFF⟩
      ({ s with
        windows := (s.windows.filter fun x => x.index != i) ++ [w]
        caches := s.caches.filter fun x => x.window != some i }, 0x00, 0)
/-- FAULT_ANSWER (R214). -/
def execFaultAnswer (c : Cmd) (s : State) : Out :=
  s.performIn c 2 fun s x =>
    if c.a1.toNat > 3 then (s, 0x02, 0)
    else if !x.faults.any fun q => q.token = c.a0.toNat && q.answer.isNone then (s, 0x03, 0)
    else (s.answerFault x.id c.a0.toNat c.a1.toNat, 0x00, 0)

/-! ## Groups (R372, R375) -/

/-- Nodes in a list of 2-byte numbers. -/
def nodeList (bs : List Byte) (n : Nat) : List Nat := (List.range n).map fun i => fieldAt bs (2 * i) 2
/-- GROUP_CREATE (R372). -/
def execGroupCreate (c : Cmd) (s : State) : Out :=
  s.performIn c 5 fun s x =>
    let i := bits c.a1.toNat 0 8
    let self := bits c.a1.toNat 8 8
    let n := bits c.a1.toNat 16 16
    if c.a0.toNat ≥ 2 ^ 32 || c.a1.toNat ≥ 2 ^ 32 || i > 15 || n < 2 || n > 256 || self ≥ n || (x.group? i).isSome ||
        !s.mapped x c.a2.toNat (2 * n) || !s.mapped x c.a3.toNat 576 || !s.mapped x c.a4.toNat 2048 then (s, 0x02, 0)
    else
      let g : Group := ⟨i, c.a0.toNat, 1, n, self, .active, 0, c.a3.toNat, c.a4.toNat, BitVec.ofNat 256 (2 ^ n - 1),
        nodeList (s.loadVa x c.a2.toNat (2 * n)) n, List.replicate n 1, List.replicate n s.now, [], []⟩
      ((s.modCtx x.id fun x => { x with groups := x.groups ++ [g] }).writeTable x.id i, 0x00, 0)
/-- Bytes a donor holds. -/
def donorBytes (node gid space addr n : Nat) : List Byte := (List.range n).map fun i => Config.donorByte node gid space (addr + i)
/-- A journal entry to be replayed: SEQ, DST, LENGTH, DIGEST. -/
abbrev Replay := Nat × Nat × Nat × Nat
/-- Insert a journal entry in SEQ order. -/
def insertReplay (x : Replay) : List Replay → List Replay
  | [] => [x]
  | y :: ys => if x.1 ≤ y.1 then x :: y :: ys else y :: insertReplay x ys
/-- The entries of a journal that hold results. -/
def replays (bs : List Byte) : List Replay :=
  (List.range 16).foldl (fun a k =>
    let e := (bs.drop (128 * k)).take 128
    if fieldAt e 0x0C 1 ≤ 1 then insertReplay (fieldAt e 0 8, fieldAt e 0x18 8, fieldAt e 0x10 4, fieldAt e 0x14 4) a else a) []
/-- Replay journal entries: false when a digest does not match (R375). -/
def State.replay (s : State) (c : Ctx) (node gid : Nat) : List Replay → State × Bool
  | [] => (s, true)
  | (_, dst, len, digest) :: es =>
    let bs := donorBytes node gid 2 dst len
    if crc32c bs = digest then (s.storeVa c dst bs).replay c node gid es else (s, false)
/-- GROUP_JOIN (R375). -/
def execGroupJoin (c : Cmd) (s : State) : Out :=
  s.performIn c 5 fun s x =>
    let gid := c.a0.toNat
    let node := c.a2.toNat
    let i := bits c.a1.toNat 0 8
    let self := bits c.a1.toNat 8 8
    let tab := donorBytes node gid 0 0 576
    let nmem := fieldAt tab 0x08 2
    let live := BitVec.ofNat 256 (fieldAt tab 0x20 32)
    if gid ≥ 2 ^ 32 || c.a1.toNat ≥ 2 ^ 16 || i > 15 || (x.group? i).isSome || !s.mapped x c.a3.toNat 576 ||
        !s.mapped x c.a4.toNat 2048 || self ≥ nmem || live.getLsbD self then (s, 0x02, 0)
    else
      let g : Group := ⟨i, gid, fieldAt tab 0x04 4, nmem, self, .joining, fieldAt tab 0x10 8, c.a3.toNat, c.a4.toNat, live,
        nodeList (tab.drop 0x40) nmem, List.replicate nmem 1, List.replicate nmem s.now, [], []⟩
      let journal := donorBytes node gid 1 0 2048
      let s1 := (s.modCtx x.id fun x => { x with groups := x.groups ++ [g] }).writeTable x.id i
      let r := (s1.storeVa x c.a4.toNat journal).replay x node gid (replays journal)
      if r.2 then (r.1, 0x00, 0)
      else (r.1.modCtx x.id fun x => { x with groups := x.groups.filter fun g => g.index != i }, 0x02, 1)

/-! ## The device's own commands -/

/-- FENCE_CORE (R63). -/
def execFenceCore (c : Cmd) (s : State) : Out :=
  s.perform c 1 fun s => if c.a0.toNat ≥ s.cores.length then (s, 0x03, 0) else (s.fence c.a0.toNat, 0x00, 0)
/-- A copy channel by its name in VIOLATION: a block's copy, or a copy node. -/
def State.releaseCopy (s : State) (ctx master : Nat) : Done :=
  if master ≥ 2 ^ 32 then
    let key := master - 2 ^ 32
    match s.node? ctx key with
    | some n => if n.frozen then
        ((s.modNode ctx key fun n => { n with frozen := false }).push (.copyBurst (.node ctx key)), 0x00, 0) else (s, 0x03, 0)
    | none => (s, 0x03, 0)
  else
    let h := master % 16
    let isIt (b : Block) : Bool := b.ctx = ctx && b.index = master / 16 &&
      ((b.copies.getD h none).map fun (x : Copy) => x.frozen).getD false
    match s.blocksNow.find? isIt with
    | some b =>
      let thaw (x : Option Copy) : Option Copy := x.map fun (y : Copy) => { y with frozen := false }
      ((s.modBlk b.id fun b => { b with copies := setAt b.copies h thaw }).push (.copyBurst (.block b.id h)), 0x00, 0)
    | none => (s, 0x03, 0)
/-- RELEASE (R352): the kinds of masters are numbered as VIOLATION names them (log 61). -/
def execRelease (c : Cmd) (s : State) : Out :=
  s.perform c 2 fun s =>
    let m := c.a1.toNat
    match c.a0.toNat, c.queue with
    | 2, _ => if s.frozenNodes.contains m then
        ({ s with frozenNodes := s.frozenNodes.filter fun x => x != m }, 0x00, 0) else (s, 0x03, 0)
    | 1, .context id => s.releaseCopy id m
    | 0, .context id =>
      let bs := s.blocksNow.filter fun b => b.ctx = id && b.core = m && b.state = .halted && b.haltCause = 0
      let s1 : State := { s with frozenCtxs := s.frozenCtxs.filter fun x => x != (id, m) }
      if bs.isEmpty && !s.frozenCtxs.contains (id, m) then (s, 0x03, 0)
      else (bs.foldl (fun s b => s.resumeBlock b.id) s1, 0x00, 0)
    | 0, .device => (s, 0x03, 0)
    | 1, .device => (s, 0x03, 0)
    | _, _ => (s, 0x02, 0)
/-- Banks of each kind (R334). -/
def bankCount (kind : Nat) : Nat := [288, 3, 3, 12, 48, 3, 18].getD kind 0
/-- BANK_READ (R334). -/
def execBankRead (c : Cmd) (s : State) : Out :=
  s.perform c 3 fun s =>
    let kind := bits c.a0.toNat 16 8
    let i := bits c.a0.toNat 0 16
    if c.a0.toNat ≥ 2 ^ 24 || c.a2.toNat > 1 then (s, 0x02, 0)
    else if i ≥ bankCount kind then (s, 0x03, 0)
    else
      let b := (s.banks.find? fun b => b.kind = kind && b.index = i).getD ⟨kind, i, 0, 0⟩
      let s1 := s.writePa c.a1.toNat (bytesOf b.status.toNat 8 ++ bytesOf b.addr.toNat 8)
      (if c.a2 = 1 then { s1 with banks := s1.banks.filter fun b => !(b.kind = kind && b.index = i) } else s1, 0x00, 0)
/-- A key slot's number is in range. -/
def slotOk (i : Nat) : Bool := 1 ≤ i && i ≤ 1023
/-- KEY_BIND (R215, R369): the blob lies in memory granted to the host node that commands, or the reply is BAD_ARGS (log 119). -/
def execKeyBind (c : Cmd) (s : State) : Out :=
  s.perform c 3 fun s =>
    let i := c.a0.toNat
    if !slotOk i || (s.keys.any fun k => k.slot = i) || !Config.hostGranted c.a2.toNat 72 then (s, 0x02, 0)
    else if (s.ctx? c.a1.toNat).isNone then (s, 0x03, 0)
    else match Config.unwrapKey (s.readPas c.a2.toNat 72) with
      | none => (s, 0x02, 0)
      | some k => ({ s with keys := s.keys ++ [⟨i, c.a1.toNat, k⟩] }, 0x00, 0)
/-- KEY_CLEAR (R215, R369). -/
def execKeyClear (c : Cmd) (s : State) : Out :=
  s.perform c 1 fun s =>
    if !slotOk c.a0.toNat then (s, 0x02, 0)
    else ({ s with keys := s.keys.filter fun k => k.slot != c.a0.toNat }, 0x00, 0)

end Sys2Proof.Machine
end

