-- ==== Sys2Proof/Machine/Power.lean ====
section
/-! DEFINITION. Device reset and bring-up (R381, R382), power and throttling (R383-R385), power-gating of cores (R217), and the
write-back of long-latency instructions (R128); their events. -/
namespace Sys2Proof.Machine

/-! ## Reset and bring-up (R381) -/

/-- Device reset: every field at its reset value, but what is fused or is the model's own, the memory of other nodes, and the
device memory, which phase 2 scrubs. -/
def State.resetDevice (s : State) : State :=
  { State.reset with
    mem := s.mem, poison := s.poison, tags := s.tags, spareMap := s.spareMap, stepping := s.stepping, badWays := s.badWays
    fusedChannels := s.fusedChannels, badChannels := s.fusedChannels, firmwareKey := s.firmwareKey
    node := s.node, frozenNodes := s.frozenNodes
    cores := (List.range 288).map fun c => Core.reset (s.spareMap.contains c)
    sched := s.sched, turn := s.turn, free := s.free }
/-- Phase 2: the device's memory is scrubbed to zero, and its poison with it. -/
def State.scrub (s : State) : State :=
  { s with
    mem := s.mem.filter fun c => nodeOf c.1 != s.node
    poison := s.poison.filter fun g => nodeOf (g * 64) != s.node
    tags := s.tags.filter fun t => nodeOf (t.1 * 256) != s.node }
/-- Ports that trained, inside or outside the trust boundary as the management core configures them (R365). -/
def portsOf (bad : List Nat) : List Port :=
  (List.range 18).map fun i =>
    let p := { Port.reset with inside := Config.portInside i }
    if bad.contains i then { p with up := false, lanes := 0 } else p
/-- A core fails the vigil of bring-up (R343, R381): the failing pattern is logged, free, and the core is fenced. -/
def State.failFirst (s : State) (core : Nat) : State :=
  if (s.core core).healthy then
    ({ s with free := s.free + 1 }.logBank 0 core 2 false 0xFFF 10 ((Config.scanVerdict s.free core).getD 0) 0).fence core
  else s
/-- Phase 5: failing cores are fenced and replaced from the spares, which pass a vigil in turn. -/
def State.firstVigils (s : State) (bad : List Nat) : State :=
  (List.range 5).foldl (fun s _ => bad.foldl State.failFirst s) s
/-- Bring-up stops: HEALTH reads FAILED. -/
def State.bringUpFailed (s : State) : State := s.setHealth 3
/-- VIGILCFG as firmware writes it: its fields where they are in their ranges, else the reset value (R387). -/
def vigilcfgOf (x : DWord) : DWord :=
  let inside (lo hi y : Nat) : Bool := lo ≤ y && y ≤ hi
  if inside 1 100 (bits x.toNat 20 12) && inside 15 100 (bits x.toNat 8 12) && inside 1 2 (bits x.toNat 4 2) then x &&& 0xFFFFFF31
  else 0x1400F11
/-- HBM channels mapped out: those of the fuses, and those of the 48 that fail now (R381, R382). -/
def mappedOut (fused bad : List Nat) : List Nat := (List.range 48).filter fun c => fused.contains c || bad.contains c
/-- DEVICE_RESET (R381): reset, then the phases of bring-up up to the one that fails. STATE of HEALTH rises in phase 6 (R388). -/
def execDeviceReset (b : BringUp) (s : State) : Out :=
  let s0 := s.resetDevice
  let s1 : State := { s0 with boot := 1 }
  let s2 : State := { s1.scrub with boot := 2, badChannels := mappedOut s.fusedChannels b.badChannels }
  let s3 : State := { s2 with boot := 3, ports := portsOf b.badPorts, node := b.node % 2048 }
  let s4 : State := { s3.scrub with vigilcfg := vigilcfgOf Config.firmwareVigil, boot := 4 }
  let s5 : State := { s4.firstVigils b.badCores with boot := 5, health := s4.health }
  let s6 : State := { s5 with boot := 6, mgmt := [MgmtQueue.open_ .device (mgmtBase s5.node 0)] }
  .next (
    if !b.romOk then s0.bringUpFailed
    else if s2.badChannels.length > 8 then { s1 with badChannels := s2.badChannels }.bringUpFailed
    else if (List.range 18).all b.badPorts.contains then { s2 with ports := portsOf b.badPorts }.bringUpFailed
    else if b.firmwareKey != some s.firmwareKey then s3.bringUpFailed
    else s6.updateHealth)

/-! ## Power (R383) -/

/-- THERMAL_TRIP (R383): HEALTH becomes FAILED, every context is killed, and the compute dies lose power. -/
def execThermalTrip (_die : Nat) (s : State) : Out :=
  let s1 := (s.ctxs.foldl (fun s c => s.killContext c.id none) s).setHealth 3
  .next { s1 with dies := s1.dies.map fun d => { d with powered := false } }

/-! ## Throttling (R384, R385) -/

/-- Cycles of 1 ms and of 100 µs. -/
def stepFallTime : Nat := Config.cyclesPerMs
def stepRiseTime : Nat := 100 * Config.cyclesPerUs
/-- A step after a change that is due: within 0 to 7. -/
def stepTo (x : Nat) (due : Option Bool) : Nat :=
  match due with
  | none => x
  | some true => min (x + 1) 7
  | some false => x - 1
/-- A die's clock goes on by `n` cycles: the changes of its steps that are due take place at the first boundary of a window of 8 cycles that it
passes (R384, R385). -/
def Die.pass (d : Die) (n : Nat) : Die :=
  let d1 := { d with clk := d.clk + n }
  let bound := (d.clk / 8 + 1) * 8
  if (d.thermalDue.isNone && d.powerDue.isNone) || d1.clk < bound then d1
  else { d1 with
    thermal := stepTo d.thermal d.thermalDue, thermalAt := if d.thermalDue.isSome then bound else d.thermalAt, thermalDue := none
    power := stepTo d.power d.powerDue, powerAt := if d.powerDue.isSome then bound else d.powerAt, powerDue := none }
/-- The clocks of the dies go on; HEALTH shows the highest step. -/
def State.passTime (s : State) (elapsed : Nat → Nat) : State :=
  let s1 := { s with dies := s.dies.mapIdx fun d x => x.pass (elapsed d) }
  if s1.dies.map Die.step = s.dies.map Die.step then s1 else s1.updateHealth
/-- A fall that is due gives way to a rise that is due in the same window (R385). -/
def fallDue (due : Option Bool) : Option Bool := some (due.getD false)
/-- THERMAL_STEP_RISE (R385): the die's hottest sensor has reached the entry temperature of the next step. -/
def execThermalStepRise (die : Nat) (s : State) : Out :=
  .next { s with dies := setAt s.dies die fun d => if d.thermal < 7 then { d with thermalDue := some true } else d }
/-- THERMAL_STEP_FALL (R385): the sensor has stayed 4 °C below the entry temperature for 1 ms since the last change. -/
def execThermalStepFall (die : Nat) (s : State) : Out :=
  let down (d : Die) : Die :=
    if d.thermal > 0 && d.thermalAt + stepFallTime ≤ d.clk then { d with thermalDue := fallDue d.thermalDue } else d
  .next { s with dies := setAt s.dies die down }
/-- POWER_STEP_RISE (R385): package power exceeds 3,600 W, on every die at once. The interval is that of die 0, where the management core
stands. DESIGN CHOICE (log 146). -/
def execPowerStepRise (s : State) : Out :=
  let d := s.die 0
  .next (if d.power < 7 && d.powerAt + stepRiseTime ≤ d.clk then
    { s with dies := s.dies.map fun x => { x with powerDue := some true } } else s)
/-- POWER_STEP_FALL (R385): package power has stayed at or below 3,400 W for 1 ms. -/
def execPowerStepFall (s : State) : Out :=
  let d := s.die 0
  .next (if d.power > 0 && d.powerAt + stepFallTime ≤ d.clk then
    { s with dies := s.dies.map fun x => { x with powerDue := fallDue x.powerDue } } else s)

/-! ## Power-gating (R217) -/

/-- POWER_GATING: an empty core's TLBs are flushed as it is gated, and it acknowledges every shoot-down at once. -/
def execPowerGating (core : Nat) (on : Bool) (s : State) : Out :=
  .next (
    if !on then s.modCore core fun c => { c with gated := false }
    else if s.blocksNow.any fun b => b.core = core then s
    else
      let s1 := s.modCore core fun c => { c with gated := true, tlb := [] }
      s1.shootdowns.foldl (fun s d => s.ackShoot d.id core) s1)

/-! ## Pending writes (R128) -/

/-- LONG_LATENCY_WRITEBACK (R128): the oldest pending instruction of a warp writes its destinations. Nothing is being issued, so that R110
excludes no register of it as a victim. DESIGN CHOICE (log 162). -/
def execLongLatencyWriteback (blk warp : Nat) (s : State) : Out :=
  .next (s.withWarp blk warp Issue.idle State.completeOldest)

end Sys2Proof.Machine
end

