-- ==== Sys2Proof/Machine/Timers.lean ====
section
/-! DEFINITION. The events that time brings about: those that are due in a state. Each changes what made it due. -/
namespace Sys2Proof.Machine

/-- Groups held for 64 cycles while a pending group is ready (R127). -/
def State.dueHolds (s : State) (cores : List Nat) : List Instr :=
  cores.flatMap fun k => (s.core k).actives.filterMap fun p =>
    match p.held with
    | some t => if t + 64 ≤ s.clk k && (s.pendingGroup k p.pipe).isSome then some (.holdTimeout k p.pipe p.pos) else none
    | none => none
/-- Waits of EVWAIT whose timeout has elapsed, or that have not read for 1,024 cycles (R289). -/
def State.dueWaits (s : State) : List Instr :=
  s.blocks.flatMap fun b =>
    if b.state != .running then [] else b.evwaits.filterMap fun e =>
      if e.limit != 0 && e.start + e.limit ≤ s.clk b.core then some (.evwaitTimeout b.id e.warp)
      else if e.seen + 1024 ≤ s.clk b.core then some (.evwaitReread b.id e.warp) else none
/-- The watchdog, the starvation bound and the aging of a context's nodes (R41, R58, R327). -/
def State.dueNodes (s : State) (c : Ctx) : List Instr :=
  c.nodes.flatMap fun n =>
    (if c.state = .running && n.overdue s.now then [Instr.watchdogExpiry c.id n.key] else []) ++
    (if n.graceOver s.now then [Instr.watchdogGraceExpiry c.id n.key] else []) ++
    (if n.record.kind = 0 && c.starves n s.now then [Instr.blockStarved c.id n.key] else []) ++
    (if (n.age_ s.now).aged != n.aged then [Instr.priorityAging c.id n.key] else [])
/-- Heartbeats and timeouts of a context's groups (R373, R374). -/
def State.dueGroups (s : State) (c : Ctx) : List Instr :=
  c.groups.flatMap fun g =>
    (if g.busy && !(s.beats g).isEmpty then [Instr.collHeartbeat c.id g.index] else []) ++
    ((List.range g.nmem).filter fun m => g.silent m s.now).map fun m => Instr.groupTimeout c.id g.index m
/-- The drain or scan of a core's vigil that is over (R341). -/
def State.dueVigil (s : State) (k : Nat) (v : VigilState) : List Instr :=
  match v with
  | .draining t =>
    if t + s.drainWait ≤ s.now && (s.blocksNow.filter fun b => b.core = k).any fun b => (s.preemptUnit b false).isSome then
      [.vigilDrainTimeout k] else []
  | .scanning t =>
    if t + s.scanTime ≤ s.now then
      let v := Config.scanVerdict s.turn k
      [.vigilScanComplete k v.isNone (v.getD 0)]
    else []
  | .none => []
/-- The vigils of some cores, numbered from `k`. -/
def State.dueScans (s : State) (k : Nat) : List Core → List Instr
  | [] => []
  | c :: cs => s.dueVigil k c.vigil ++ s.dueScans (k + 1) cs
/-- Vigils to begin, drains that are over, scans that are over (R341). -/
def State.dueVigils (s : State) : List Instr :=
  ((List.range s.dies.length).flatMap fun d =>
    if s.vigilcfg.getLsbD 0 && s.boot ≥ 6 && (s.die d).step < 6 && s.inVigil d < s.perDie && (s.nextVigil d).isSome then
      [Instr.vigilBegin d] else []) ++ s.dueScans 0 s.cores
/-- Cores silent in a shoot-down for 10 µs (R217). -/
def State.dueShootdowns (s : State) : List Instr :=
  s.shootdowns.flatMap fun d =>
    if d.start + shootLimit ≤ s.now then d.owing.map fun k => Instr.shootdownTimeout d.id k else []
/-- Cores whose accesses by a range being shot down have all been performed (R217), and migrations whose shoot-downs are over
(R216). -/
def State.dueMoves (s : State) : List Instr :=
  (s.shootdowns.flatMap fun d =>
    (d.owing.filter fun k => !s.usesRange k d.ctx d.va d.len).map fun k => Instr.shootdownAck d.id k) ++
  (s.migrations.filter fun m => s.movable m).map fun m => Instr.migrationComplete m.ctx m.va
/-- Ports that have sent nothing for 1 µs or heard nothing for 8 µs (R362, R363). -/
def State.duePorts (s : State) : List Instr :=
  if s.boot < 6 then [] else (List.range s.ports.length).flatMap fun p =>
    (if (s.port p).silent s.now then [Instr.linkTimeout p] else []) ++
    (if (s.port p).idle s.now then [Instr.idleFlit p] else [])
/-- Every event that is due, those that fall due again and again after the others; `cores` are those that run blocks. -/
def State.due (s : State) (cores : List Nat) : List Instr :=
  s.dueHolds cores ++ s.dueShootdowns ++ s.dueMoves ++ s.ctxs.flatMap (fun c => s.dueNodes c ++ s.dueGroups c) ++ s.dueVigils ++
  s.duePorts ++ s.dueWaits

end Sys2Proof.Machine
end

