-- ==== Sys2Proof/Machine/Expansion.lean ====
section
/-! DEFINITION. The short forms (R72, R76, R80): DX performs the instruction its expansion stands for. -/
namespace Sys2Proof.Machine

/-- Perform the instruction an expansion decodes to. A short form, a fill word or an event is no expansion. -/
def State.runExpansion (s : State) (i : Instr) : Out :=
  match i with
  | .nop f => Sys2Proof.Machine.execNop f s
  | .bra f => Sys2Proof.Machine.execBra f s
  | .brx f => Sys2Proof.Machine.execBrx f s
  | .call f => Sys2Proof.Machine.execCall f s
  | .callx f => Sys2Proof.Machine.execCallx f s
  | .ret f => Sys2Proof.Machine.execRet f s
  | .exit f => Sys2Proof.Machine.execExit f s
  | .rcvarm f => Sys2Proof.Machine.execRcvarm f s
  | .rcvwait f => Sys2Proof.Machine.execRcvwait f s
  | .rcvdrop f => Sys2Proof.Machine.execRcvdrop f s
  | .yield f => Sys2Proof.Machine.execYield f s
  | .launch f => Sys2Proof.Machine.execLaunch f s
  | .shq f => Sys2Proof.Machine.execShq f s
  | .shassert f => Sys2Proof.Machine.execShassert f s
  | .shforce f => Sys2Proof.Machine.execShforce f s
  | .shnarrow f => Sys2Proof.Machine.execShnarrow f s
  | .plop f => Sys2Proof.Machine.execPlop f s
  | .p2v f => Sys2Proof.Machine.execP2v f s
  | .v2p f => Sys2Proof.Machine.execV2p f s
  | .iadd f => Sys2Proof.Machine.execIadd f s
  | .isub f => Sys2Proof.Machine.execIsub f s
  | .imul f => Sys2Proof.Machine.execImul f s
  | .imulh f => Sys2Proof.Machine.execImulh f s
  | .imad f => Sys2Proof.Machine.execImad f s
  | .imad64 f => Sys2Proof.Machine.execImad64 f s
  | .imin f => Sys2Proof.Machine.execImin f s
  | .imax f => Sys2Proof.Machine.execImax f s
  | .iabs f => Sys2Proof.Machine.execIabs f s
  | .iaddc f => Sys2Proof.Machine.execIaddc f s
  | .andL f => Sys2Proof.Machine.execAnd f s
  | .orL f => Sys2Proof.Machine.execOr f s
  | .xorL f => Sys2Proof.Machine.execXor f s
  | .andn f => Sys2Proof.Machine.execAndn f s
  | .shl f => Sys2Proof.Machine.execShl f s
  | .shr f => Sys2Proof.Machine.execShr f s
  | .sar f => Sys2Proof.Machine.execSar f s
  | .rotl f => Sys2Proof.Machine.execRotl f s
  | .popc f => Sys2Proof.Machine.execPopc f s
  | .clz f => Sys2Proof.Machine.execClz f s
  | .brev f => Sys2Proof.Machine.execBrev f s
  | .bfe f => Sys2Proof.Machine.execBfe f s
  | .bfi f => Sys2Proof.Machine.execBfi f s
  | .sel f => Sys2Proof.Machine.execSel f s
  | .icmp f => Sys2Proof.Machine.execIcmp f s
  | .iadd64 f => Sys2Proof.Machine.execIadd64 f s
  | .isub64 f => Sys2Proof.Machine.execIsub64 f s
  | .shf f => Sys2Proof.Machine.execShf f s
  | .lea f => Sys2Proof.Machine.execLea f s
  | .mov f => Sys2Proof.Machine.execMov f s
  | .idot4 f => Sys2Proof.Machine.execIdot4 f s
  | .lop3 f => Sys2Proof.Machine.execLop3 f s
  | .prmt f => Sys2Proof.Machine.execPrmt f s
  | .sread f => Sys2Proof.Machine.execSread f s
  | .fadd f => Sys2Proof.Machine.execFadd f s
  | .fsub f => Sys2Proof.Machine.execFsub f s
  | .fmul f => Sys2Proof.Machine.execFmul f s
  | .ffma f => Sys2Proof.Machine.execFfma f s
  | .fmin f => Sys2Proof.Machine.execFmin f s
  | .fmax f => Sys2Proof.Machine.execFmax f s
  | .fcmp f => Sys2Proof.Machine.execFcmp f s
  | .frcp f => Sys2Proof.Machine.execFrcp f s
  | .frsq f => Sys2Proof.Machine.execFrsq f s
  | .fsqrt f => Sys2Proof.Machine.execFsqrt f s
  | .fexp2 f => Sys2Proof.Machine.execFexp2 f s
  | .flog2 f => Sys2Proof.Machine.execFlog2 f s
  | .fsin f => Sys2Proof.Machine.execFsin f s
  | .fcos f => Sys2Proof.Machine.execFcos f s
  | .ftanh f => Sys2Proof.Machine.execFtanh f s
  | .frnd f => Sys2Proof.Machine.execFrnd f s
  | .fclass f => Sys2Proof.Machine.execFclass f s
  | .padd2 f => Sys2Proof.Machine.execPadd2 f s
  | .pmul2 f => Sys2Proof.Machine.execPmul2 f s
  | .pfma2 f => Sys2Proof.Machine.execPfma2 f s
  | .pmin2 f => Sys2Proof.Machine.execPmin2 f s
  | .pmax2 f => Sys2Proof.Machine.execPmax2 f s
  | .cvt f => Sys2Proof.Machine.execCvt f s
  | .cvtp f => Sys2Proof.Machine.execCvtp f s
  | .cvtu f => Sys2Proof.Machine.execCvtu f s
  | .scale f => Sys2Proof.Machine.execScale f s
  | .fdot2 f => Sys2Proof.Machine.execFdot2 f s
  | .qdec f => Sys2Proof.Machine.execQdec f s
  | .shfl f => Sys2Proof.Machine.execShfl f s
  | .vote f => Sys2Proof.Machine.execVote f s
  | .redux f => Sys2Proof.Machine.execRedux f s
  | .matchL f => Sys2Proof.Machine.execMatch f s
  | .scan f => Sys2Proof.Machine.execScan f s
  | .elect f => Sys2Proof.Machine.execElect f s
  | .ld f => Sys2Proof.Machine.execLd f s
  | .st f => Sys2Proof.Machine.execSt f s
  | .lds f => Sys2Proof.Machine.execLds f s
  | .sts f => Sys2Proof.Machine.execSts f s
  | .ldx f => Sys2Proof.Machine.execLdx f s
  | .stx f => Sys2Proof.Machine.execStx f s
  | .atom f => Sys2Proof.Machine.execAtom f s
  | .atomcas f => Sys2Proof.Machine.execAtomcas f s
  | .red f => Sys2Proof.Machine.execRed f s
  | .pref f => Sys2Proof.Machine.execPref f s
  | .fence f => Sys2Proof.Machine.execFence f s
  | .sealR f => Sys2Proof.Machine.execSealR f s
  | .unsealR f => Sys2Proof.Machine.execUnsealR f s
  | .pin f => Sys2Proof.Machine.execPin f s
  | .unpin f => Sys2Proof.Machine.execUnpin f s
  | .ldc f => Sys2Proof.Machine.execLdc f s
  | .cctl f => Sys2Proof.Machine.execCctl f s
  | .pbinit f => Sys2Proof.Machine.execPbinit f s
  | .pbarrive f => Sys2Proof.Machine.execPbarrive f s
  | .pbwait f => Sys2Proof.Machine.execPbwait f s
  | .pbtest f => Sys2Proof.Machine.execPbtest f s
  | .bsync f => Sys2Proof.Machine.execBsync f s
  | .sbar f => Sys2Proof.Machine.execSbar f s
  | .evwait f => Sys2Proof.Machine.execEvwait f s
  | .cpy f => Sys2Proof.Machine.execCpy f s
  | .cpyq f => Sys2Proof.Machine.execCpyq f s
  | .cpywait f => Sys2Proof.Machine.execCpywait f s
  | .coll f => Sys2Proof.Machine.execColl f s
  | .collq f => Sys2Proof.Machine.execCollq f s
  | .osclaim f => Sys2Proof.Machine.execOsclaim f s
  | .osrel f => Sys2Proof.Machine.execOsrel f s
  | .osload f => Sys2Proof.Machine.execOsload f s
  | .osq f => Sys2Proof.Machine.execOsq f s
  | .accgrow f => Sys2Proof.Machine.execAccgrow f s
  | .accfree f => Sys2Proof.Machine.execAccfree f s
  | .acczero f => Sys2Proof.Machine.execAcczero f s
  | .accld f => Sys2Proof.Machine.execAccld f s
  | .accst f => Sys2Proof.Machine.execAccst f s
  | .accmv f => Sys2Proof.Machine.execAccmv f s
  | .mma f => Sys2Proof.Machine.execMma f s
  | .mmag f => Sys2Proof.Machine.execMmag f s
  | .mrfence f => Sys2Proof.Machine.execMrfence f s
  | .mwait f => Sys2Proof.Machine.execMwait f s
  | .bdset f => Sys2Proof.Machine.execBdset f s
  | .bdget f => Sys2Proof.Machine.execBdget f s
  | .ttc f => Sys2Proof.Machine.execTtc f s
  | .ttrun f => Sys2Proof.Machine.execTtrun f s
  | .ttq f => Sys2Proof.Machine.execTtq f s
  | .dload f => Sys2Proof.Machine.execDload f s
  | .dswitch f => Sys2Proof.Machine.execDswitch f s
  | .dsync f => Sys2Proof.Machine.execDsync f s
  | .dread f => Sys2Proof.Machine.execDread f s
  | .dpatch f => Sys2Proof.Machine.execDpatch f s
  | .trap f => Sys2Proof.Machine.execTrap f s
  | .tret f => Sys2Proof.Machine.execTret f s
  | .csrr f => Sys2Proof.Machine.execCsrr f s
  | .csrw f => Sys2Proof.Machine.execCsrw f s
  | .sysq f => Sys2Proof.Machine.execSysq f s
  | .region f => Sys2Proof.Machine.execRegion f s
  | .brk f => Sys2Proof.Machine.execBrk f s
  | .pcmp f => Sys2Proof.Machine.execPcmp f s
  | .dx _ _
  | .fillWord
  | .tailReread _
  | .recordTake _ _
  | .delayedDelivery _
  | .priorityAging _ _
  | .placementDecision
  | .blockStarved _ _
  | .prologueFill _
  | .blockStart _
  | .blockEnd _
  | .holdTimeout _ _ _
  | .activeSetExchange _ _ _
  | .longLatencyWriteback _ _
  | .pageWalk _ _ _
  | .pageMigrateRequest _
  | .migrationComplete _ _
  | .shootdownAck _ _
  | .shootdownTimeout _ _
  | .enginePerform _
  | .mmaHalf _
  | .mmagMemberPart _
  | .ttrunStep _
  | .copyBurst _
  | .evwaitReread _ _
  | .evwaitTimeout _ _
  | .watchdogExpiry _ _
  | .watchdogGraceExpiry _ _
  | .preemption _
  | .errorDetected _
  | .vigilBegin _
  | .vigilDrainTimeout _
  | .vigilScanComplete _ _ _
  | .flitReceive _ _
  | .linkRetrain _ _
  | .idleFlit _
  | .linkTimeout _
  | .switchTimeout _
  | .nodeLost _ _ _
  | .fabricRequest _
  | .collHeartbeat _ _
  | .collContribution _
  | .collResult _
  | .groupTimeout _ _ _
  | .spareAdmission _ _ _ _
  | .ctxCreate _
  | .ctxDestroy _
  | .loadObject _
  | .updateObject _
  | .queueCreate _
  | .queueReset _
  | .cancel _
  | .resume _
  | .fail _
  | .ctxRead _
  | .switchOut _
  | .restore _
  | .migrate _
  | .setXlate _
  | .setWindow _
  | .faultAnswer _
  | .groupCreate _
  | .groupJoin _
  | .fenceCore _
  | .release _
  | .bankRead _
  | .keyBind _
  | .keyClear _
  | .errinjSlotUe _ _ _ _
  | .errinjMemUe _ _
  | .errinjPairFlip _ _
  | .errinjRowSoft _ _ _
  | .errinjCeLog _ _
  | .deviceReset _
  | .thermalTrip _
  | .thermalStepRise _
  | .thermalStepFall _
  | .powerStepRise
  | .powerStepFall
  | .badCommandRecord _ _
  | .unmap _ _ _
  | .portKeyRotation _
  | .powerGating _ _ => .next s
/-- DX (R72, R76, R80): steps 3 to 9 of R75 on the short form and its expansion, then the expansion. A read of a poisoned slot of
the larder consumes the error (R336 SOURCE 6); a group with a stale thread does not read it. -/
def execDx (h : BitVec 22) (i : BitVec 8) (s : State) : Out :=
  let d := dxWord h i
  let s1 : State := { s with iss := { s.iss with d32 := some d, word := d.setWidth 128, exp := false } }
  let stale := (Mask.lanes s1.iss.lanes).any fun l => (s1.wp.thread l).stale
  if !stale && s1.dictPoisoned s1.blk.active then
    .next (s1.consume 6 ((s1.blk.binds.getD s1.blk.active none).getD 0) s1.iss.lanes)
  else match s1.expand h i with
  | .error (0x01, sub) => .next (s1.illegal sub s1.iss.lanes)
  | .error (cause, _) => .next (s1.trap cause (s1.fetchDetail 0) s1.iss.lanes)
  | .ok x =>
    let s2 : State := { s1 with iss := { s1.iss with word := x, exp := true } }
    match decodeF x with
    | .illegal sub _ => .next (s2.illegal sub s2.iss.lanes)
    | .ok j _ => { s2 with iss := { s2.iss with named := touchesOf j } }.runExpansion j

end Sys2Proof.Machine
end

