-- ==== Sys2Proof/Machine/Dispatch.lean ====
section
/-! DEFINITION. The dispatch: one arm for each constructor of `Instr`. -/
namespace Sys2Proof.Machine

def exec (i : Instr) (s : State) : Host.Outcome State Fault Refusal :=
  match i with
  | .nop f => Sys2Proof.Machine.execNop f s
  | .bra f => Sys2Proof.Machine.execBra f s
  | .brx f => Sys2Proof.Machine.execBrx f s
  | .call f => Sys2Proof.Machine.execCall f s
  | .callx f => Sys2Proof.Machine.execCallx f s
  | .ret f => Sys2Proof.Machine.execRet f s
  | .exit f => Sys2Proof.Machine.execExit f s
  | .rcvarm f => Sys2Proof.Machine.execRcvarm f s
  | .rcvwait f => Sys2Proof.Machine.execRcvwait f s
  | .rcvdrop f => Sys2Proof.Machine.execRcvdrop f s
  | .yield f => Sys2Proof.Machine.execYield f s
  | .launch f => Sys2Proof.Machine.execLaunch f s
  | .shq f => Sys2Proof.Machine.execShq f s
  | .shassert f => Sys2Proof.Machine.execShassert f s
  | .shforce f => Sys2Proof.Machine.execShforce f s
  | .shnarrow f => Sys2Proof.Machine.execShnarrow f s
  | .plop f => Sys2Proof.Machine.execPlop f s
  | .p2v f => Sys2Proof.Machine.execP2v f s
  | .v2p f => Sys2Proof.Machine.execV2p f s
  | .iadd f => Sys2Proof.Machine.execIadd f s
  | .isub f => Sys2Proof.Machine.execIsub f s
  | .imul f => Sys2Proof.Machine.execImul f s
  | .imulh f => Sys2Proof.Machine.execImulh f s
  | .imad f => Sys2Proof.Machine.execImad f s
  | .imad64 f => Sys2Proof.Machine.execImad64 f s
  | .imin f => Sys2Proof.Machine.execImin f s
  | .imax f => Sys2Proof.Machine.execImax f s
  | .iabs f => Sys2Proof.Machine.execIabs f s
  | .iaddc f => Sys2Proof.Machine.execIaddc f s
  | .andL f => Sys2Proof.Machine.execAnd f s
  | .orL f => Sys2Proof.Machine.execOr f s
  | .xorL f => Sys2Proof.Machine.execXor f s
  | .andn f => Sys2Proof.Machine.execAndn f s
  | .shl f => Sys2Proof.Machine.execShl f s
  | .shr f => Sys2Proof.Machine.execShr f s
  | .sar f => Sys2Proof.Machine.execSar f s
  | .rotl f => Sys2Proof.Machine.execRotl f s
  | .popc f => Sys2Proof.Machine.execPopc f s
  | .clz f => Sys2Proof.Machine.execClz f s
  | .brev f => Sys2Proof.Machine.execBrev f s
  | .bfe f => Sys2Proof.Machine.execBfe f s
  | .bfi f => Sys2Proof.Machine.execBfi f s
  | .sel f => Sys2Proof.Machine.execSel f s
  | .icmp f => Sys2Proof.Machine.execIcmp f s
  | .iadd64 f => Sys2Proof.Machine.execIadd64 f s
  | .isub64 f => Sys2Proof.Machine.execIsub64 f s
  | .shf f => Sys2Proof.Machine.execShf f s
  | .lea f => Sys2Proof.Machine.execLea f s
  | .mov f => Sys2Proof.Machine.execMov f s
  | .idot4 f => Sys2Proof.Machine.execIdot4 f s
  | .lop3 f => Sys2Proof.Machine.execLop3 f s
  | .prmt f => Sys2Proof.Machine.execPrmt f s
  | .sread f => Sys2Proof.Machine.execSread f s
  | .fadd f => Sys2Proof.Machine.execFadd f s
  | .fsub f => Sys2Proof.Machine.execFsub f s
  | .fmul f => Sys2Proof.Machine.execFmul f s
  | .ffma f => Sys2Proof.Machine.execFfma f s
  | .fmin f => Sys2Proof.Machine.execFmin f s
  | .fmax f => Sys2Proof.Machine.execFmax f s
  | .fcmp f => Sys2Proof.Machine.execFcmp f s
  | .frcp f => Sys2Proof.Machine.execFrcp f s
  | .frsq f => Sys2Proof.Machine.execFrsq f s
  | .fsqrt f => Sys2Proof.Machine.execFsqrt f s
  | .fexp2 f => Sys2Proof.Machine.execFexp2 f s
  | .flog2 f => Sys2Proof.Machine.execFlog2 f s
  | .fsin f => Sys2Proof.Machine.execFsin f s
  | .fcos f => Sys2Proof.Machine.execFcos f s
  | .ftanh f => Sys2Proof.Machine.execFtanh f s
  | .frnd f => Sys2Proof.Machine.execFrnd f s
  | .fclass f => Sys2Proof.Machine.execFclass f s
  | .padd2 f => Sys2Proof.Machine.execPadd2 f s
  | .pmul2 f => Sys2Proof.Machine.execPmul2 f s
  | .pfma2 f => Sys2Proof.Machine.execPfma2 f s
  | .pmin2 f => Sys2Proof.Machine.execPmin2 f s
  | .pmax2 f => Sys2Proof.Machine.execPmax2 f s
  | .cvt f => Sys2Proof.Machine.execCvt f s
  | .cvtp f => Sys2Proof.Machine.execCvtp f s
  | .cvtu f => Sys2Proof.Machine.execCvtu f s
  | .scale f => Sys2Proof.Machine.execScale f s
  | .fdot2 f => Sys2Proof.Machine.execFdot2 f s
  | .qdec f => Sys2Proof.Machine.execQdec f s
  | .shfl f => Sys2Proof.Machine.execShfl f s
  | .vote f => Sys2Proof.Machine.execVote f s
  | .redux f => Sys2Proof.Machine.execRedux f s
  | .matchL f => Sys2Proof.Machine.execMatch f s
  | .scan f => Sys2Proof.Machine.execScan f s
  | .elect f => Sys2Proof.Machine.execElect f s
  | .ld f => Sys2Proof.Machine.execLd f s
  | .st f => Sys2Proof.Machine.execSt f s
  | .lds f => Sys2Proof.Machine.execLds f s
  | .sts f => Sys2Proof.Machine.execSts f s
  | .ldx f => Sys2Proof.Machine.execLdx f s
  | .stx f => Sys2Proof.Machine.execStx f s
  | .atom f => Sys2Proof.Machine.execAtom f s
  | .atomcas f => Sys2Proof.Machine.execAtomcas f s
  | .red f => Sys2Proof.Machine.execRed f s
  | .pref f => Sys2Proof.Machine.execPref f s
  | .fence f => Sys2Proof.Machine.execFence f s
  | .sealR f => Sys2Proof.Machine.execSealR f s
  | .unsealR f => Sys2Proof.Machine.execUnsealR f s
  | .pin f => Sys2Proof.Machine.execPin f s
  | .unpin f => Sys2Proof.Machine.execUnpin f s
  | .ldc f => Sys2Proof.Machine.execLdc f s
  | .cctl f => Sys2Proof.Machine.execCctl f s
  | .pbinit f => Sys2Proof.Machine.execPbinit f s
  | .pbarrive f => Sys2Proof.Machine.execPbarrive f s
  | .pbwait f => Sys2Proof.Machine.execPbwait f s
  | .pbtest f => Sys2Proof.Machine.execPbtest f s
  | .bsync f => Sys2Proof.Machine.execBsync f s
  | .sbar f => Sys2Proof.Machine.execSbar f s
  | .evwait f => Sys2Proof.Machine.execEvwait f s
  | .cpy f => Sys2Proof.Machine.execCpy f s
  | .cpyq f => Sys2Proof.Machine.execCpyq f s
  | .cpywait f => Sys2Proof.Machine.execCpywait f s
  | .coll f => Sys2Proof.Machine.execColl f s
  | .collq f => Sys2Proof.Machine.execCollq f s
  | .osclaim f => Sys2Proof.Machine.execOsclaim f s
  | .osrel f => Sys2Proof.Machine.execOsrel f s
  | .osload f => Sys2Proof.Machine.execOsload f s
  | .osq f => Sys2Proof.Machine.execOsq f s
  | .accgrow f => Sys2Proof.Machine.execAccgrow f s
  | .accfree f => Sys2Proof.Machine.execAccfree f s
  | .acczero f => Sys2Proof.Machine.execAcczero f s
  | .accld f => Sys2Proof.Machine.execAccld f s
  | .accst f => Sys2Proof.Machine.execAccst f s
  | .accmv f => Sys2Proof.Machine.execAccmv f s
  | .mma f => Sys2Proof.Machine.execMma f s
  | .mmag f => Sys2Proof.Machine.execMmag f s
  | .mrfence f => Sys2Proof.Machine.execMrfence f s
  | .mwait f => Sys2Proof.Machine.execMwait f s
  | .bdset f => Sys2Proof.Machine.execBdset f s
  | .bdget f => Sys2Proof.Machine.execBdget f s
  | .ttc f => Sys2Proof.Machine.execTtc f s
  | .ttrun f => Sys2Proof.Machine.execTtrun f s
  | .ttq f => Sys2Proof.Machine.execTtq f s
  | .dload f => Sys2Proof.Machine.execDload f s
  | .dswitch f => Sys2Proof.Machine.execDswitch f s
  | .dsync f => Sys2Proof.Machine.execDsync f s
  | .dread f => Sys2Proof.Machine.execDread f s
  | .dpatch f => Sys2Proof.Machine.execDpatch f s
  | .trap f => Sys2Proof.Machine.execTrap f s
  | .tret f => Sys2Proof.Machine.execTret f s
  | .csrr f => Sys2Proof.Machine.execCsrr f s
  | .csrw f => Sys2Proof.Machine.execCsrw f s
  | .sysq f => Sys2Proof.Machine.execSysq f s
  | .region f => Sys2Proof.Machine.execRegion f s
  | .brk f => Sys2Proof.Machine.execBrk f s
  | .pcmp f => Sys2Proof.Machine.execPcmp f s
  | .dx h e => Sys2Proof.Machine.execDx h e s
  | .fillWord => Sys2Proof.Machine.execFillWord s
  | .tailReread q => Sys2Proof.Machine.execTailReread q s
  | .recordTake ctx q => Sys2Proof.Machine.execRecordTake ctx q s
  | .delayedDelivery ctx => Sys2Proof.Machine.execDelayedDelivery ctx s
  | .priorityAging ctx node => Sys2Proof.Machine.execPriorityAging ctx node s
  | .placementDecision => Sys2Proof.Machine.execPlacementDecision s
  | .blockStarved ctx node => Sys2Proof.Machine.execBlockStarved ctx node s
  | .prologueFill blk => Sys2Proof.Machine.execPrologueFill blk s
  | .blockStart blk => Sys2Proof.Machine.execBlockStart blk s
  | .blockEnd blk => Sys2Proof.Machine.execBlockEnd blk s
  | .holdTimeout core pipe pos => Sys2Proof.Machine.execHoldTimeout core pipe pos s
  | .activeSetExchange core pipe pos => Sys2Proof.Machine.execActiveSetExchange core pipe pos s
  | .longLatencyWriteback blk warp => Sys2Proof.Machine.execLongLatencyWriteback blk warp s
  | .pageWalk core ctx va => Sys2Proof.Machine.execPageWalk core ctx va s
  | .pageMigrateRequest r => Sys2Proof.Machine.execPageMigrateRequest r s
  | .migrationComplete ctx va => Sys2Proof.Machine.execMigrationComplete ctx va s
  | .shootdownAck id core => Sys2Proof.Machine.execShootdownAck id core s
  | .shootdownTimeout id core => Sys2Proof.Machine.execShootdownTimeout id core s
  | .enginePerform core => Sys2Proof.Machine.execEnginePerform core s
  | .mmaHalf core => Sys2Proof.Machine.execMmaHalf core s
  | .mmagMemberPart blk => Sys2Proof.Machine.execMmagMemberPart blk s
  | .ttrunStep core => Sys2Proof.Machine.execTtrunStep core s
  | .copyBurst c => Sys2Proof.Machine.execCopyBurst c s
  | .evwaitReread blk warp => Sys2Proof.Machine.execEvwaitReread blk warp s
  | .evwaitTimeout blk warp => Sys2Proof.Machine.execEvwaitTimeout blk warp s
  | .watchdogExpiry ctx node => Sys2Proof.Machine.execWatchdogExpiry ctx node s
  | .watchdogGraceExpiry ctx node => Sys2Proof.Machine.execWatchdogGraceExpiry ctx node s
  | .preemption blk => Sys2Proof.Machine.execPreemption blk s
  | .errorDetected e => Sys2Proof.Machine.execErrorDetected e s
  | .vigilBegin die => Sys2Proof.Machine.execVigilBegin die s
  | .vigilDrainTimeout core => Sys2Proof.Machine.execVigilDrainTimeout core s
  | .vigilScanComplete core pass pattern => Sys2Proof.Machine.execVigilScanComplete core pass pattern s
  | .flitReceive port flit => Sys2Proof.Machine.execFlitReceive port flit s
  | .linkRetrain port failing => Sys2Proof.Machine.execLinkRetrain port failing s
  | .idleFlit port => Sys2Proof.Machine.execIdleFlit port s
  | .linkTimeout port => Sys2Proof.Machine.execLinkTimeout port s
  | .switchTimeout node => Sys2Proof.Machine.execSwitchTimeout node s
  | .nodeLost blk warp addr => Sys2Proof.Machine.execNodeLost blk warp addr s
  | .fabricRequest r => Sys2Proof.Machine.execFabricRequest r s
  | .collHeartbeat ctx group => Sys2Proof.Machine.execCollHeartbeat ctx group s
  | .collContribution c => Sys2Proof.Machine.execCollContribution c s
  | .collResult r => Sys2Proof.Machine.execCollResult r s
  | .groupTimeout ctx group member => Sys2Proof.Machine.execGroupTimeout ctx group member s
  | .spareAdmission ctx group member node => Sys2Proof.Machine.execSpareAdmission ctx group member node s
  | .ctxCreate c => Sys2Proof.Machine.execCtxCreate c s
  | .ctxDestroy c => Sys2Proof.Machine.execCtxDestroy c s
  | .loadObject c => Sys2Proof.Machine.execLoadObject c s
  | .updateObject c => Sys2Proof.Machine.execUpdateObject c s
  | .queueCreate c => Sys2Proof.Machine.execQueueCreate c s
  | .queueReset c => Sys2Proof.Machine.execQueueReset c s
  | .cancel c => Sys2Proof.Machine.execCancel c s
  | .resume c => Sys2Proof.Machine.execResume c s
  | .fail c => Sys2Proof.Machine.execFail c s
  | .ctxRead c => Sys2Proof.Machine.execCtxRead c s
  | .switchOut c => Sys2Proof.Machine.execSwitchOut c s
  | .restore c => Sys2Proof.Machine.execRestore c s
  | .migrate c => Sys2Proof.Machine.execMigrate c s
  | .setXlate c => Sys2Proof.Machine.execSetXlate c s
  | .setWindow c => Sys2Proof.Machine.execSetWindow c s
  | .faultAnswer c => Sys2Proof.Machine.execFaultAnswer c s
  | .groupCreate c => Sys2Proof.Machine.execGroupCreate c s
  | .groupJoin c => Sys2Proof.Machine.execGroupJoin c s
  | .fenceCore c => Sys2Proof.Machine.execFenceCore c s
  | .release c => Sys2Proof.Machine.execRelease c s
  | .bankRead c => Sys2Proof.Machine.execBankRead c s
  | .keyBind c => Sys2Proof.Machine.execKeyBind c s
  | .keyClear c => Sys2Proof.Machine.execKeyClear c s
  | .errinjSlotUe ctx count index partner => Sys2Proof.Machine.execErrinjSlotUe ctx count index partner s
  | .errinjMemUe ctx count => Sys2Proof.Machine.execErrinjMemUe ctx count s
  | .errinjPairFlip ctx count => Sys2Proof.Machine.execErrinjPairFlip ctx count s
  | .errinjRowSoft ctx count index => Sys2Proof.Machine.execErrinjRowSoft ctx count index s
  | .errinjCeLog ctx count => Sys2Proof.Machine.execErrinjCeLog ctx count s
  | .deviceReset b => Sys2Proof.Machine.execDeviceReset b s
  | .thermalTrip die => Sys2Proof.Machine.execThermalTrip die s
  | .thermalStepRise die => Sys2Proof.Machine.execThermalStepRise die s
  | .thermalStepFall die => Sys2Proof.Machine.execThermalStepFall die s
  | .powerStepRise => Sys2Proof.Machine.execPowerStepRise s
  | .powerStepFall => Sys2Proof.Machine.execPowerStepFall s
  | .badCommandRecord q index => Sys2Proof.Machine.execBadCommandRecord q index s
  | .unmap ctx va len => Sys2Proof.Machine.execUnmap ctx va len s
  | .portKeyRotation port => Sys2Proof.Machine.execPortKeyRotation port s
  | .powerGating core on => Sys2Proof.Machine.execPowerGating core on s

end Sys2Proof.Machine
end

