-- ==== Sys2Proof/Machine/Issue.lean ====
section
/-! DEFINITION. Issue: what a step chooses among (R96-R101, R126, R127, R347), breakpoints (R317), fetch and decode (R75), the
pending marks (R128-R130), and what follows an instruction that issued. -/
namespace Sys2Proof.Machine

/-- Go on with an outcome's next state. -/
def andThen (o : Out) (k : State → State) : Out :=
  match o with
  | .next s => .next (k s)
  | .fault r => .fault r
  | .refused r => .refused r

/-! ## Before an instruction -/

/-- The execute breakpoint at a code offset (R316, R317), as the issuing warp sees the registers (R321). -/
def State.execBreak (s : State) (c : Ctx) (pc : BitVec 57) : Option Nat :=
  (List.range 8).find? fun i =>
    let b := (s.csrSeen c (0x018 + i)).toNat
    bit b 63 && bits b 61 2 = 0 && bits b 0 57 = pc.toNat
/-- The breakpoint a group matches: a thread of it is no handler and not at its first instruction after a TRET. -/
def State.breakAt (s : State) (c : Ctx) : Option Nat :=
  match s.execBreak c s.iss.pc with
  | none => none
  | some i => if (Mask.lanes s.iss.lanes).any fun l => !(s.wp.thread l).handler && !(s.wp.thread l).exempt then some i else none
/-- Threads that wait for their instruction to be tested again issue it. -/
def State.offer (s : State) : State :=
  { s with wp := s.wp.mapThreads s.iss.lanes fun _ t => if t.status = .waiting .retry then { t with status := .eligible } else t }

/-! ## Spilled operands (R109-R111) -/

/-- The instruction took a trap, killed the block or stays: nothing of it has been performed. -/
def State.undone (t : State) (blk : Nat) : Bool := t.blk.id != blk || t.blk.state != .running || t.iss.lanes = 0 || t.iss.stays
/-- Perform an instruction that reads and writes registers, of which some stand in the cellar: a cellar access that fails
leaves it unperformed; one that does nothing takes no row; and else rows are taken in ascending order of the registers (R109,
R111, R115). Values are the same either way. -/
def State.withSpilled (s : State) (reads writes : List Nat) (k : State → Out) : Out :=
  match s.wp.spilledOf reads with
  | [] => k s
  | rs =>
    let s1 := rs.foldl (fun s r => s.useOwnCellar r true) s
    if s1.blk.cellarFail then .next s1
    else
      let first := writes.foldl min 512
      match k s with
      | .next t =>
        if t.undone s.blk.id then .next t
        else andThen (k ((rs.filter fun r => r < first).foldl State.refill s)) fun t =>
          (rs.filter fun r => first ≤ r).foldl State.refill t
      | o => o

/-! ## After an instruction -/

/-- Count an instruction a warp of the issuing block retired (R326, R342, R347). -/
def State.retire (s : State) : State :=
  let w := s.wp.idx
  let old := ((s.blk.retired.find? fun p => p.1 = w).map (·.2)).getD 0
  let s1 : State := { s with blk := { s.blk with retired := (s.blk.retired.filter fun p => p.1 != w) ++ [(w, old + 1)], worked := some s.now } }
  s1.modNode s.blk.ctx s.blk.node fun n => { n with progress := s.now }
/-- A planted CE lands on a retired instruction (R351); what the manual does not say of its record is free. -/
def State.plantCe (s : State) : State :=
  let (hit, s1) := s.injected s.blk 5
  if !hit then s1
  else
    let v (i : Nat) : Nat := (Config.freeWord s.free i).toNat
    { s1 with free := s1.free + 1 }.logBank 0 s.blk.core 1 false s.blk.ctx (v 0) (v 1) (v 2)
/-- Lanes of the issuing warp have issued an instruction: they use up the exemption of R317, and the windows of its pending
instructions move on (R129). -/
def State.moveOn (s : State) (m exempt : Mask) : State :=
  let w := s.wp.mapThreads (exempt &&& m) fun _ t => { t with exempt := false }
  { s with wp := { w with pending := w.pending.map fun p => p.passed m } }
/-- The issuing block's unit is killed for an error it consumed (R337). -/
def Block.isConsumed (b : Block) : Bool :=
  match b.state with
  | .ended (.consumed _ _) => true
  | _ => false
/-- An instruction of a warp is an acquire, and one at `.pod` (R228, R282, R287, R288, R295, R304): an access or a FENCE by its ORD; a wait
that has ended; EVWAIT when its wait ends. -/
def acquireOf (op : Nat) (f : Fields) : Bool × Bool :=
  if (0x80 ≤ op && op ≤ 0x88) || op = 0x8A then
    (acquires (ordOf f), acquires (ordOf f) && ordScope (ordOf f) = 4)
  else if op = 0xA5 then (true, f.m 7 5 = 4)
  else ([0xA2, 0xA3, 0xA4, 0xB2, 0xB4, 0xCD, 0xE3].contains op, false)
/-- What the issuing warp has read or acquired with an instruction: a load, an atomic and QDEC read (R205, R297). An acquire shows the
warp every earlier write. DEDUCED (log 25). -/
def Warp.noted (w : Warp) (turn : Nat) (j : Instr) : Warp :=
  match j.isa with
  | none => w
  | some (op, f) =>
    let (acq, pod) := acquireOf op f
    let w1 := if acq then w.sync turn else if [0x5B, 0x80, 0x82, 0x84, 0x86, 0x87].contains op then { w with readAt := turn } else w
    if pod then { w1 with podAt := turn } else w1
/-- An instruction is a release at `.pod` (R228, R237, R288, R293, R305): an access or a FENCE by its ORD, SEAL, SBAR, CPY and LAUNCH. -/
def podRelease (op : Nat) (f : Fields) : Bool :=
  if (0x80 ≤ op && op ≤ 0x88) || op = 0x8A then 6 ≤ ordOf f && ordScope (ordOf f) = 4
  else if op = 0xA5 then f.m 7 5 = 4
  else [0x8B, 0xB0, 0x0C].contains op
/-- The issuing warp's writes of context registers go out with a release at `.pod` (R321). -/
def State.noteRelease (s : State) (j : Instr) : State :=
  match j.isa with
  | some (op, f) => if podRelease op f then s.sendCsrs s.blk.ctx s.blk.id fun w => w = s.wp.idx else s
  | none => s
/-- Ranges of memory a load or store of the group touches (R322): 0 for generic memory or the block of a scratch window, address, length. -/
def State.memTouched (s : State) (op : Nat) (f : Fields) : List (Nat × Nat × Nat) :=
  let n := sizeBytes (sizeOf f)
  let range (l : Nat) : Nat × Nat × Nat :=
    if op ≤ 0x81 then (0, s.addr f l, n) else ((s.window f (0x84 ≤ op) l).1.id, s.offs f l, n)
  if 0x80 ≤ op && op ≤ 0x85 then ((Mask.lanes (s.en f)).map range).eraseDups else []
/-- Ranges of one space meet. -/
def touching (x y : Nat × Nat × Nat) : Bool := x.1 = y.1 && x.2.1 < y.2.1 + y.2.2 && y.2.1 < x.2.1 + x.2.2
/-- One range of a space lies in another. -/
def within (x y : Nat × Nat × Nat) : Bool := x.1 = y.1 && y.2.1 ≤ x.2.1 && x.2.1 + x.2.2 ≤ y.2.1 + y.2.2
/-- Add what is not in a list. -/
def addNew {α : Type} [DecidableEq α] (xs ys : List α) : List α := ys.foldl (fun a y => if a.contains y then a else a ++ [y]) xs
/-- A warp has performed an instruction of its region (R322): the registers it reads and writes, whether every live lane writes, and the ranges of
memory it reads and writes. -/
def RegionTrace.step (t : RegionTrace) (reads writes : List Nat) (full : Bool) (ls ss : List (Nat × Nat × Nat)) : RegionTrace :=
  let exposed := addNew t.exposed (reads.filter fun r => !t.covered.contains r)
  let seen := addNew t.memRead (ls.filter fun x => !t.memWrote.any (within x))
  { exposed := exposed
    covered := if full then addNew t.covered writes else t.covered
    wrote := addNew t.wrote writes
    memRead := seen
    memWrote := addNew t.memWrote ss
    broken := t.broken || (writes.any exposed.contains) || ss.any fun x => seen.any (touching x) }
/-- The trace of the issuing warp after an instruction, while it has a restart point. -/
def State.traced (s : State) (j : Instr) : RegionTrace :=
  match j.isa with
  | some (op, f) =>
    let ms := s.memTouched op f
    let stores := op % 2 = 1
    s.wp.trace.step (if s.enabled j then valuesOf j else []) (s.writesOf j) (s.wp.live &&& ~~~(s.en f) = 0)
      (if stores then [] else ms) (if stores then ms else [])
  | none => s.wp.trace
/-- The issuing warp has performed an instruction of its region; REGION itself begins one. -/
def State.noteTrace (s : State) (j : Instr) (x : RegionTrace) : State :=
  if s.wp.rvalid && j.isa.any (fun p => p.1 != 0xF5) then { s with wp := { s.wp with trace := x } } else s

/-- What follows an instruction: one that stays leaves its position; one that trapped uses up the exemption of its threads
(R317); one that issued has its touches judged (R248) and is retired, unless every thread of it is parked or an error killed
the block. -/
def State.afterIssue (s : State) (g : GroupRef) (j : Instr) (trace : RegionTrace) (written : List Nat) (exempt : Mask) : State :=
  if s.blk.id != g.blk then s
  else if s.iss.stays then s.leavePosition g s.blk.core
  else if s.iss.lanes = 0 then s.moveOn g.mask exempt
  else
    let m := s.issuers
    let s1 := s.moveOn m exempt
    if m = 0 || s.blk.isConsumed then s1 else (((s1.touchRegs written).noteRelease j).noteTrace j trace).retire.plantCe

/-! ## Issue -/

/-- The register whose reads an armed ROW_SOFT counts (R351). -/
def State.softTarget (s : State) : Option Nat :=
  if s.armed s.blk 4 then (s.ctx? s.blk.ctx).map fun c => bits c.errinj.toNat 32 9 else none
/-- Perform a decoded instruction for the group that is checked out, which is ready. -/
def State.runInstr (s0 : State) (g : GroupRef) (i : Instr) : Out :=
  let j := s0.performed i
  let s : State := { s0 with wp := s0.wp.noted s0.turn j }
  let s1 : State := { s with iss := { s.iss with named := touchesOf j } }
  let exempt := maskOf fun l => Mask.has g.mask l && (s.wp.thread l).exempt
  let trace := if s1.wp.rvalid then s1.traced j else s1.wp.trace
  andThen (s1.withSpilled (if s1.enabled j then valuesOf j else []) (s1.writesOf j) (exec i)) fun t =>
    t.afterIssue g j trace (s1.writesOf j) exempt
/-- The instruction reads its registers: it does not stay, and a thread of it is not parked. -/
def readsRegs (o : Out) : Bool :=
  match o with
  | .next t => !t.iss.stays && (t.iss.lanes = 0 || t.issuers != 0)
  | _ => true
/-- Issue a decoded instruction to the group that is checked out, unless a planted soft error meets a register it reads
(R351). -/
def State.issueInstr (s : State) (g : GroupRef) (i : Instr) : Out :=
  let o := s.runInstr g i
  match s.softTarget with
  | none => o
  | some r =>
    if s.enabled (s.performed i) && (valuesOf (s.performed i)).contains r && readsRegs o then
      let (hit, s1) := s.injected s.blk 4
      if hit then .next (s1.softError g.blk g.warp r 3 g.pc g.mask) else s1.runInstr g i
    else o
/-- The group takes the trap that its wait at the instruction ended with (R286, R295); that of a copy is forwarded to a trailing copy. -/
def State.takeOwed (s : State) (g : GroupRef) (c : Ctx) (cause addr : Nat) : State :=
  let s1 : State := { s with iss := s.shownIssue c g.mask g.pc }
  let a := BitVec.ofNat 64 addr
  let s2 := s1.setStatus g.mask .eligible
  (if cause = 0x12 then s2.forward (.trap 0x12 a g.mask) else s2).trap cause a g.mask
/-- Issue the group that is checked out, in the order of R75 and R317. TRAPWORD is 0 when the fetch itself fails, and holds the bytes inside the
fetch block of a word that crosses it. DESIGN CHOICE (log 161). -/
def State.issueHere (s : State) (g : GroupRef) (c : Ctx) : Out :=
  match (s.wp.thread (Mask.low g.mask)).owed, s.breakAt c with
  | some (cause, addr), _ => .next (s.takeOwed g c cause addr)
  | none, some i => .next ({ s with iss := s.shownIssue c g.mask g.pc }.trap 0x17 (BitVec.ofNat 64 i) g.mask)
  | none, none =>
    match s.fetch c s.blk g.pc with
    | .fail f => .next (s.failWith f g.mask 2)
    | .ue src va => .next (s.consume src va g.mask)
    | .crossing w len => .next ({ s with iss := issueOf g.mask g.pc w len }.illegal 0x6 g.mask)
    | .word w len =>
      let s1 : State := { s with iss := issueOf g.mask g.pc w len }
      match decodeWord w with
      | .illegal sub _ => .next (s1.illegal sub g.mask)
      | .ok i _ => s1.issueInstr g i
/-- A group fetches: the page of its PC is translated (R212). -/
def State.noteFetch (s : State) (g : GroupRef) (c : Ctx) : State := s.missTlb s.blk.core c [s.blk.codeVa g.pc]
/-- Issue a group: its warp is taken out, and put back afterwards. -/
def State.issueGroup (s : State) (g : GroupRef) : Out :=
  let s1 := (s.checkout g.blk g.warp { Issue.idle with lanes := g.mask, pc := g.pc }).offer
  match s1.ctx? s1.blk.ctx with
  | none => .next s
  | some c => andThen (((s1.noteIssue g s1.blk.core).noteFetch g c).issueHere g c) State.checkin

/-! ## Choosing -/

/-- Cores that run blocks. -/
def State.busyCores (s : State) : List Nat := (s.blocks.filter fun b => b.state = .running).foldl (fun a b => insertNat b.core a) []
/-- A move of a step. -/
inductive Move where
  /-- The event at the head of the agenda. -/
  | head (i : Instr) (rest : List Instr)
  | event (i : Instr)
  | group (g : GroupRef)
  deriving DecidableEq, Repr
/-- The groups that the pipes of some cores issue, and the reads of EVWAITs (R126, R289). -/
def State.candidates_ (s : State) (cores : List Nat) : List Move :=
  (cores.flatMap fun k => (List.range 4).filterMap fun p => (s.nextGroup k p).map Move.group) ++
  s.blocks.flatMap fun b => if b.state != .running then [] else
    ((b.evwaits.map EvWait.warp).eraseDups).map fun w => .event (.evwaitReread b.id w)
/-- Writes of long-latency instructions that could be made now (R128). -/
def State.writebacks (s : State) : List Move :=
  s.blocks.flatMap fun b => if b.state != .running then [] else
    (b.warps.filter fun w => !w.pending.isEmpty).map fun w => .event (.longLatencyWriteback b.id w.idx)
/-- The errors of one bank that wait in the agenda, in order. -/
def errorsAt (kind unit : Nat) (es : List Instr) : List ErrorEvent :=
  es.filterMap fun i => match i with
    | .errorDetected e => if e.bankKind = kind && e.unit = unit then some e else none
    | _ => none
/-- The event that waits first; of the errors of its bank that wait with it, the one of the lowest SOURCE (R335, log 129). -/
def State.agendaMove (s : State) : List Move :=
  match s.agenda with
  | [] => []
  | .errorDetected e :: rest =>
    let least := (errorsAt e.bankKind e.unit rest).foldl (fun a b => if b.source < a.source then b else a) e
    [.head (.errorDetected least) (s.agenda.erase (.errorDetected least))]
  | i :: rest => [.head i rest]
/-- The move a step makes: that which `sched` names, else the first event that waits, else the first that is due, else the
candidates in turn. -/
def State.choose (s : State) : Option Move × State :=
  let cores := s.busyCores
  match s.sched with
  | k :: ks =>
    let ms := s.agendaMove ++ (s.due cores).map Move.event ++ s.candidates_ cores ++ s.writebacks
    (if ms.isEmpty then none else ms[k % ms.length]?, { s with sched := ks })
  | [] =>
    match s.agendaMove ++ (s.due cores).map Move.event with
    | m :: _ => (some m, s)
    | [] =>
      let ms := s.candidates_ cores ++ s.writebacks
      (if ms.isEmpty then none else ms[s.turn % ms.length]?, s)
/-- Make a move. -/
def State.make (s : State) (m : Move) : Out :=
  match m with
  | .head i rest => exec i { s with agenda := rest }
  | .event i => exec i s
  | .group g => s.issueGroup g

/-! ## Around a move -/

/-- Contexts whose cellar could not be reached are killed (R111). -/
def State.cellarKills (s : State) : State :=
  (s.blocks.filter fun b => b.cellarFail).foldl (fun s b => s.killContext b.ctx none) s
/-- Nodes that the watchdog stopped and that have no block left on the device, however they left, are suspended (R327). -/
def State.suspendIdle (s : State) : State :=
  s.ctxs.foldl (fun s c => (c.nodes.filter fun n => n.wdExpired.isSome).foldl (fun s n => s.trySuspend c.id n.key) s) s
/-- Held events reach their rings, answers reach the blocks they are for, and active sets are brought up to date. -/
def State.settle (s : State) : State :=
  let s1 := (s.cellarKills.ctxs.foldl (fun s c => s.flushRing c.id) s.cellarKills).settleFaults.suspendIdle
  s1.busyCores.foldl (fun s k => s.refresh k) s1
/-- Time passes (R132): throttle steps that are due change at their boundaries (R385). -/
def State.tick (s : State) : State :=
  { s with turn := s.turn + 1, free := s.free + 1 }.passTime (Config.elapsed s.turn)
/-- The compute dies have power (R383). -/
def State.powered (s : State) : Bool := s.dies.all Die.powered
/-- What a step does on a device with power. -/
def State.advanceStep (s : State) : Out :=
  let c := s.settle.choose
  andThen (match c.1 with
    | some m => c.2.make m
    | none => .next c.2) State.tick
/-- An event is device reset. -/
def isReset (i : Instr) : Bool := match i with | .deviceReset _ => true | _ => false
/-- What a step does without power: only device reset is performed, wherever it waits. -/
def State.darkStep (s : State) : Out :=
  match s.agenda.dropWhile fun i => !isReset i with
  | .deviceReset b :: rest => andThen (exec (.deviceReset b) { s with agenda := rest }) State.tick
  | _ => .fault .powerRemoved

end Sys2Proof.Machine
end

