-- ==== Sys2Proof/Machine/Step.lean ====
section
/-! DEFINITION. One step of the machine, and placing an instruction where the next step fetches it. -/
namespace Sys2Proof.Machine

/-- One step: an event is performed or a group issues one instruction. -/
def step (s : State) : Host.Outcome State Fault Refusal := if s.powered then s.advanceStep else s.darkStep

/-! ## Placing an instruction (log 40) -/

/-- Bytes for an address, most of them 0. -/
def placeNum (mem : List Host.Cell) (pa x n : Nat) : List Host.Cell := Tab.setMany 0 mem pa (bytesOf x n)
/-- A page table that maps virtual addresses 0 to 2 MiB, fetchable, to a frame of the node, and a word at the first code byte of
an object at address 0. -/
def placeMem (mem : List Host.Cell) (base w : Nat) : List Host.Cell :=
  placeNum (placeNum (placeNum (placeNum (placeNum mem (base + 0x1000) (base + 0x2001) 8) (base + 0x2000) (base + 0x3001) 8)
    (base + 0x3000) (base + 0x4001) 8) (base + 0x4000) (base + 0x200045) 8) (base + 0x200100) w 16
/-- The header of the placed object. -/
def placeHeader : Header :=
  { Header.empty with stepping := 0x0100, codeSize := 32, scratch := 4096, depth := 32, accMax := 16, slots := 32, roles := [⟨0, 0, 384, 1⟩] }
/-- The record of the placed launch: one block of the object at address 0. -/
def placeRecord : Record := ⟨0, 0, 0, 0, 0, 0, 0, 0, 0, 0, 1, 0, 0, 0, 0, []⟩
/-- The node of the placed launch. -/
def placeNode (now : Nat) : Node := { Node.make 0 placeRecord none 0x3200FA 0 with state := .running, next := 1, progress := now }
/-- The context of the placed launch. -/
def placeCtx (stepping base now : Nat) : Ctx :=
  { Ctx.make 0 [0] ⟨stepping, 0, 0, 1, 1, 1, 1, 0⟩ 2048 ⟨0, 0, 0, 0, 0, 0, 0, 0⟩ 0 [] with
    ptroot := BitVec.ofNat 64 (base + 0x1000), nodes := [placeNode now]
    objects := [⟨0, 288, 0, [⟨0, placeHeader, [], [], []⟩]⟩] }
/-- The block of the placed launch: one warp of 128 threads at code offset 0, on core 0. -/
def placeBlock : Block :=
  { (placeNode 0).block 0 placeHeader 0 .single with id := 1, state := .running, started := true, inject := true }
/-- The state with an instruction placed where the next step fetches it: a context with a page table, a code object that holds
the instruction, and a running block of it. -/
def State.withFetchWord (s : State) (nbits w : Nat) : State :=
  let base := s.node * 2 ^ 40
  { s with
    mem := placeMem s.mem base (w % 2 ^ nbits)
    ctxs := [placeCtx s.stepping base s.now], blocks := [placeBlock], nextBlock := 2
    agenda := [], sched := [], shootdowns := [] }

end Sys2Proof.Machine
end

