-- ==== Sys2Proof/Safety.lean ====
section
/-! DEFINITION. What claims are stated in: the invariants of the machine, runs of steps, and what an instruction may change. -/
namespace Sys2Proof.Machine

/-- Memory is in its canonical form. -/
def State.MemInv (s : State) : Prop := Memory.wf s.mem = true
/-- One step leads from a state to another. -/
def Steps (s t : State) : Prop := step s = .next t
/-- Some number of steps leads from a state to another. -/
inductive Runs : State → State → Prop where
  | refl (s : State) : Runs s s
  | step {s t u : State} : Runs s t → Steps t u → Runs s u
/-- A run that never stops for good before its last state: the device keeps its power (R383). -/
def SafeFrom (s : State) : Prop := ∀ t, Runs s t → ∃ u, Steps t u

/-! ## Writing registers -/

/-- `s` with the memory of `t`: its bytes, what is known of when and under which key they were written, its poison and guard tags, and
what waits to be performed because of a write. -/
def State.withMemory (s t : State) : State :=
  { s with mem := t.mem, units := t.units, written := t.written, late := t.late, settled := t.settled, poison := t.poison
           tags := t.tags, agenda := t.agenda }
/-- A row can be taken by step 1 or 2 of R109, without a spill. -/
def State.rowFree (s : State) : Prop :=
  if s.wp.rows < s.wp.vmax then s.rowsHeld s.blk.core < Config.rowsPerCore
  else s.rowsReserved s.blk.core + s.rowsLent s.blk.core < Config.rowsPerCore
/-- Writing register `d` of the issuing warp uses no cellar: it is not spilled, and it holds a row or a row can be taken (R108-R111). -/
def State.spareRow (s : State) (d : Nat) : Prop :=
  (s.wp.reg d).spilled = false ∧ ((s.wp.reg d).val.compact = false ∨ s.rowFree)

/-- `t` is `s` after the lanes `m` of register `d` of the issuing warp took `g` (R105-R107), and nothing else happened but the
taking of a row (R108-R111). 511 discards. -/
structure Puts (s t : State) (d : Nat) (m : Mask) (g : Nat → Word) : Prop where
  /-- The lanes written take the result; the other live lanes keep their value. -/
  value : d ≠ 511 → ∀ l, l < 128 → Mask.has s.wp.live l = true →
    t.wp.val d l = if Mask.has m l then g l else s.wp.val d l
  /-- The null destination changes nothing, and neither does a write of no lane. -/
  null : d = 511 ∨ m = 0 → t = s
  /-- Every other register keeps its value in every lane. -/
  others : ∀ r, r ≠ d → t.wp.rv r = s.wp.rv r
  /-- The warp is otherwise unchanged: threads, predicates, flags, trap and special registers. -/
  warp : t.wp = { s.wp with regs := t.wp.regs }
  /-- Without a spill everything outside the warp is unchanged: every byte of memory, every other warp, block and context. -/
  frame : s.spareRow d → t = { s with wp := t.wp, writes := t.writes, free := t.free }
  /-- With a spill, what lies outside the blocks, memory and the watched lines a store to memory touches is unchanged. -/
  rest : t = { s.withMemory t with wp := t.wp, blk := t.blk, blocks := t.blocks, writes := t.writes, free := t.free }

/-- `t` is `s` after predicate `p` took `g` in the lanes `m` (R113); 7 discards. -/
structure PutsPred (s t : State) (p : Nat) (m : Mask) (g : Nat → Bool) : Prop where
  value : p < 7 → ∀ l, l < 128 → t.wp.pred p l = if Mask.has m l then g l else s.wp.pred p l
  others : ∀ q, q ≠ p → q < 7 → ∀ l, l < 128 → t.wp.pred q l = s.wp.pred q l
  null : 7 ≤ p → t = s
  threads : ∀ l, l < 128 → t.wp.thread l = { s.wp.thread l with preds := (t.wp.thread l).preds }
  frame : t = { s with wp := { s.wp with threads := t.wp.threads } }

/-- `t` is `s` with every thread of the issuing group behind the instruction (R68), and nothing else changed. -/
structure Advances (s t : State) : Prop where
  pcs : ∀ l, l < 128 → t.wp.thread l = if Mask.has s.iss.lanes l then { s.wp.thread l with pc := s.nextPc } else s.wp.thread l
  frame : t = { s with wp := { s.wp with threads := t.wp.threads } }

/-- A register result: the lanes `m` of `d` take `g`, and the group goes on. -/
def Results (s t : State) (d : Nat) (m : Mask) (g : Nat → Word) : Prop := ∃ u, Puts s u d m g ∧ Advances u t
/-- A result in an even pair of registers, low word first (R97); 511 discards both halves. -/
def Results64 (s t : State) (d : Nat) (m : Mask) (g : Nat → DWord) : Prop :=
  if d = 511 then Advances s t
  else ∃ u v, Puts s u d m (fun l => (g l).setWidth 32) ∧ Puts u v (d + 1) m (fun l => (g l >>> 32).setWidth 32) ∧ Advances v t
/-- A predicate result. -/
def ResultsPred (s t : State) (p : Nat) (m : Mask) (g : Nat → Bool) : Prop := ∃ u, PutsPred s u p m g ∧ Advances u t

/-- Several registers take results, one after another. -/
def PutsMany (s t : State) (m : Mask) : List (Nat × (Nat → Word)) → Prop
  | [] => t = s
  | (d, g) :: rest => ∃ u, Puts s u d m g ∧ PutsMany u t m rest
/-- Flags are set in FPSTAT of the warp, where they stay (R188, R189), and nothing else changes. -/
def Raises (s t : State) (fl : BitVec 7) : Prop := t = { s with wp := { s.wp with fpstat := s.wp.fpstat ||| fl } }
/-- A register result of a saturating operation: SAT is set in FPSTAT when the result of a lane of `m` was clamped (R188). -/
def ResultsSat (s t : State) (d : Nat) (m : Mask) (g : Nat → Word) (clamped : Nat → Bool) : Prop :=
  ∃ u v, Puts s u d m g ∧ Raises u v (if (Mask.lanes m).any clamped then 0x20 else 0) ∧ Advances v t
/-- The enabled threads of the group go to their targets, the others behind the instruction, and nothing else changes (R152). -/
structure Jumps (s t : State) (m : Mask) (target : Nat → BitVec 57) : Prop where
  pcs : ∀ l, l < 128 → t.wp.thread l = if Mask.has s.iss.lanes l then
    { s.wp.thread l with pc := if Mask.has m l then target l else s.nextPc } else s.wp.thread l
  frame : t = { s with wp := { s.wp with threads := t.wp.threads } }

/-! ## Traps -/

/-- A trap of the issuing group enters its handler at once (R312): the warp has a trap base with EN, no handler thread, and no
write pending in the group. -/
structure CanEnter (s : State) : Prop where
  enabled : s.wp.trapBase.getLsbD 0 = true
  free : s.wp.handlers = 0
  settled : ∀ p ∈ s.wp.pending, (p.issuers ||| p.lanes) &&& s.iss.lanes = 0
/-- The group entered the handler (R310-R312): the record is saved, every thread of the group is a handler thread at the trap
base's entry, and nothing else changes. -/
structure Enters (s t : State) (cause : Nat) (addr : DWord) (mask : Mask) (resume : BitVec 57) : Prop where
  record : t.wp.trap = ⟨BitVec.ofNat 8 cause, resume, s.iss.word, addr, mask⟩
  threads : ∀ l, l < 128 → t.wp.thread l = if Mask.has s.iss.lanes l then
    { s.wp.thread l with handler := true, status := .eligible, pc := (s.wp.trapBase &&& ~~~(3 : DWord)).setWidth 57 }
    else s.wp.thread l
  frame : t = { s with wp := { s.wp with threads := t.wp.threads, trap := t.wp.trap, entryMask := mask },
                       iss := { s.iss with lanes := 0 } }

/-! ## Reconvergence (R158) -/

/-- Entry `k` is armed and every live thread it expects waits there. -/
def State.allAt (s : State) (k : Nat) : Prop :=
  s.wp.rcv.getD k 0 ≠ 0 ∧ ∀ l, l < 128 → Mask.has (s.wp.rcv.getD k 0) l = true → Mask.has s.wp.live l = true →
    (s.wp.thread l).at k = true
/-- The release test at entry `k`: the waiting threads go on and the entry empties, or nothing changes. -/
structure Releases (s t : State) (k : Nat) : Prop where
  go : s.allAt k →
    (∀ l, l < 128 → t.wp.thread l = if (s.wp.thread l).at k then (s.wp.thread l).leave else s.wp.thread l) ∧
    t = { s with wp := { s.wp with threads := t.wp.threads, rcv := s.wp.rcv.set k 0 } }
  stay : ¬ s.allAt k → t = s

/-! ## Accesses -/

/-- A group that issues in a block that is no copy of a pair, of a unit that has lost no store: a thread is enabled, and every thread of the
group stands eligible at the instruction. -/
structure Plain (s : State) (f : Fields) (c : Ctx) : Prop where
  some : s.en f ≠ 0
  single : s.blk.copy = .single
  whole : s.unitLost = none
  home : s.ctx? s.blk.ctx = Option.some c
  /-- VD is a register or the null destination (R70). -/
  dest : f.vd.toNat < 384 ∨ f.vd.toNat = 511
  stands : ∀ l, l < 128 → Mask.has s.iss.lanes l = true → (s.wp.thread l).status = .eligible ∧ (s.wp.thread l).pc = s.iss.pc
/-- A store of bytes at a virtual address: a physical byte that no part of the store's translation holds reads as before; a store of one
part stands where that part is, unless R9 makes the bytes unpredictable (R30, R47, R211, R237); and only memory, what is known of it,
what the store wakes and the caches change. -/
structure Stores (s t : State) (c : Ctx) (va : Nat) (bs : List Byte) : Prop where
  outside : ∀ a, (∀ p ∈ s.segs c va bs.length, a < p.1 ∨ p.1 + p.2 ≤ a) → t.readPa a = s.readPa a
  inside : ∀ l, s.leaves c va bs.length = [(l, bs.length)] → l.stray = false → s.offends c va bs = false →
    ∀ k, k < bs.length → t.readPa (l.pa + k) = bs.getD k 0
  frame : t = { s.withMemory t with caches := t.caches }
/-- Stores one after another. -/
def StoresMany (s t : State) (c : Ctx) : List (Nat × List Byte) → Prop
  | [] => t = s
  | (va, bs) :: rest => ∃ u, Stores s u c va bs ∧ StoresMany u t c rest

/-- Atomic steps of lanes one after another, each at its address: the values found, and what `new` has stored over them. -/
def Atomics (s t : State) (c : Ctx) (n : Nat) (addr : Nat → Nat) (new : Nat → Nat → Option Nat) : List Nat → List Nat → Prop
  | [], [] => t = s
  | l :: ls, m :: ms => m = ofBytes (s.loadVa c (addr l) n) ∧
    ∃ u, (match new l m with | some x => Stores s u c (addr l) (bytesOf x n) | none => u = s) ∧ Atomics u t c n addr new ls ms
  | _, _ => False
/-- Registers are marked pending with the values they will take and the flags set when they do, in the window LA names (R128, R129). -/
def Pends (s t : State) (f : Fields) (m : Mask) (swap : Bool) (fl : BitVec 7) (dests : List (Nat × RegVal)) : Prop :=
  t = { s with wp := { s.wp with pending := s.wp.pending ++
    [⟨dests, m, s.issuers, Lanes.of fun _ => if s.blk.ilock then 0 else f.la.toNat, swap, fl, true⟩] } }
/-- The destinations of a load of `n` registers that completes later (R128): the registers from `d`, none for the null destination,
with the values `vals`, are marked pending. -/
def Marks (s t : State) (f : Fields) (m : Mask) (swap : Bool) (vals : List RegVal) : Prop :=
  if f.vd.toNat = 511 then t = s
  else Pends s t f m swap 0 ((List.range vals.length).map fun i => (f.vd.toNat + i, vals.getD i (.u 0)))

/-- An instruction answers a next state of which something holds. -/
def Completes (i : Instr) (s : State) (P : State → Prop) : Prop := ∃ t, exec i s = .next t ∧ P t

/-! ## Operands of a lane (R102, R136): whatever the shape, the value the lane reads -/

def State.opA (s : State) (f : Fields) (l : Nat) : Word := s.wp.val f.va.toNat l
/-- IMM32 takes the place of VB in F96 (R71). -/
def State.opB (s : State) (f : Fields) (l : Nat) : Word := if f.isF96 then f.imm else s.wp.val f.vb.toNat l
def State.opC (s : State) (f : Fields) (l : Nat) : Word := s.wp.val f.vc.toNat l
def State.pairA (s : State) (f : Fields) (l : Nat) : DWord := s.wp.val (f.va.toNat + 1) l ++ s.wp.val f.va.toNat l
def State.pairC (s : State) (f : Fields) (l : Nat) : DWord := s.wp.val (f.vc.toNat + 1) l ++ s.wp.val f.vc.toNat l

end Sys2Proof.Machine
end

