-- ==== Sys2Proof/Certificates/Slice0/Obligations.lean ====
section
/-! DEFINITION. The statements for the provers. -/

open Sys2Proof Sys2Proof.Machine

/-! ## The integer instructions -/

/-- R138 and R188: IADD, ISUB and IADDC in every mode, with the carry predicates; a saturating form whose result was clamped sets SAT;
the group goes on, and nothing else changes. -/
def Obligations.IntegerSums : Prop := ∀ (f : Fields) (s : State),
  let a := s.opA f
  let b := s.opB f
  let signed (x : Int) : Word := BitVec.ofInt 32 (max (-2 ^ 31) (min x (2 ^ 31 - 1)))
  let unsigned (x : Int) : Word := BitVec.ofInt 32 (max 0 (min x (2 ^ 32 - 1)))
  let sum (l : Nat) : Word :=
    if f.m 1 0 = 0 then BitVec.ofNat 32 ((a l).toNat + (b l).toNat)
    else if f.m 1 0 = 1 then signed ((a l).toInt + (b l).toInt)
    else unsigned ((a l).toNat + (b l).toNat)
  let difference (l : Nat) : Word :=
    if f.m 1 0 = 0 then BitVec.ofInt 32 ((a l).toNat - (b l).toNat)
    else if f.m 1 0 = 1 then signed ((a l).toInt - (b l).toInt)
    else unsigned ((a l).toNat - (b l).toNat)
  let carried (l : Nat) : Nat := (a l).toNat + (b l).toNat + if s.wp.pred f.vc.toNat l then 1 else 0
  -- The exact sum or difference `x`, or `y` of the signed form, is not the value `r` of the result.
  let clamped (x y : Nat → Int) (r : Nat → Word) (l : Nat) : Bool :=
    if f.m 1 0 = 0 then false else if f.m 1 0 = 1 then decide ((r l).toInt ≠ y l) else decide (((r l).toNat : Int) ≠ x l)
  Completes (.iadd f) s (fun t => ∃ u v w, Puts s u f.vd.toNat (s.en f) sum ∧
    (if f.b 2 then PutsPred u v f.vc.toNat (s.en f) fun l => decide (2 ^ 32 ≤ (a l).toNat + (b l).toNat) else v = u) ∧
    Raises v w (if (Mask.lanes (s.en f)).any
      (clamped (fun l => (a l).toNat + (b l).toNat) (fun l => (a l).toInt + (b l).toInt) sum) then 0x20 else 0) ∧
    Advances w t) ∧
  Completes (.isub f) s (fun t => ResultsSat s t f.vd.toNat (s.en f) difference
    (clamped (fun l => (a l).toNat - (b l).toNat) (fun l => (a l).toInt - (b l).toInt) difference)) ∧
  Completes (.iaddc f) s (fun t => ∃ u v, Puts s u f.vd.toNat (s.en f) (fun l => BitVec.ofNat 32 (carried l)) ∧
    (if f.b 2 then PutsPred u v f.vc.toNat (s.en f) fun l => decide (2 ^ 32 ≤ carried l) else v = u) ∧ Advances v t)

/-- R139: IMUL, IMULH, IMAD and IMAD64. -/
def Obligations.IntegerProducts : Prop := ∀ (f : Fields) (s : State),
  let a := s.opA f
  let b := s.opB f
  let high (l : Nat) : Word :=
    let x : Int := if f.m 1 0 = 0 then (a l).toNat else (a l).toInt
    let y : Int := if f.m 1 0 = 1 then (b l).toInt else (b l).toNat
    (BitVec.ofInt 64 (x * y) >>> 32).setWidth 32
  let wide (l : Nat) : DWord :=
    if f.b 0 then BitVec.ofInt 64 ((a l).toInt * (b l).toInt + (s.pairC f l).toNat)
    else BitVec.ofNat 64 ((a l).toNat * (b l).toNat + (s.pairC f l).toNat)
  Completes (.imul f) s (fun t => Results s t f.vd.toNat (s.en f) fun l => BitVec.ofNat 32 ((a l).toNat * (b l).toNat)) ∧
  Completes (.imulh f) s (fun t => Results s t f.vd.toNat (s.en f) high) ∧
  Completes (.imad f) s (fun t => Results s t f.vd.toNat (s.en f) fun l =>
    BitVec.ofNat 32 ((a l).toNat * (b l).toNat + (s.opC f l).toNat)) ∧
  Completes (.imad64 f) s (fun t => Results64 s t f.vd.toNat (s.en f) wide)

/-- R140, R141 and R188: IADD64 and ISUB64 on pairs, an immediate sign-extended; IMIN, IMAX and IABS, whose saturating form sets SAT
when it clamps. -/
def Obligations.IntegerPairsAndExtrema : Prop := ∀ (f : Fields) (s : State),
  let a := s.opA f
  let b := s.opB f
  let y (l : Nat) : DWord := if f.isF96 then f.imm.signExtend 64 else s.wp.val (f.vb.toNat + 1) l ++ s.wp.val f.vb.toNat l
  let key (x : Word) : Int := if f.b 0 then x.toInt else x.toNat
  Completes (.iadd64 f) s (fun t => Results64 s t f.vd.toNat (s.en f) fun l => s.pairA f l + y l) ∧
  Completes (.isub64 f) s (fun t => Results64 s t f.vd.toNat (s.en f) fun l => s.pairA f l - y l) ∧
  Completes (.imin f) s (fun t => Results s t f.vd.toNat (s.en f) fun l => if key (a l) ≤ key (b l) then a l else b l) ∧
  Completes (.imax f) s (fun t => Results s t f.vd.toNat (s.en f) fun l => if key (b l) ≤ key (a l) then a l else b l) ∧
  Completes (.iabs f) s (fun t => ResultsSat s t f.vd.toNat (s.en f) (fun l =>
    if a l = 0x80000000 then (if f.b 0 then 0x7FFFFFFF else 0x80000000) else BitVec.ofNat 32 (a l).toInt.natAbs)
    fun l => f.b 0 && a l == 0x80000000)

/-- R142: the logic instructions, bit by bit. -/
def Obligations.Logic : Prop := ∀ (f : Fields) (s : State),
  let bitwise (i : Instr) (op : Bool → Bool → Bool → Bool) : Prop :=
    Completes i s fun t => ∃ r : Nat → Word, Results s t f.vd.toNat (s.en f) r ∧
      ∀ l, l < 128 → ∀ k, k < 32 →
        (r l).getLsbD k = op ((s.opA f l).getLsbD k) ((s.opB f l).getLsbD k) ((s.opC f l).getLsbD k)
  bitwise (.andL f) (fun a b _ => a && b) ∧ bitwise (.orL f) (fun a b _ => a || b) ∧
  bitwise (.xorL f) (fun a b _ => a != b) ∧ bitwise (.andn f) (fun a b _ => a && !b) ∧
  bitwise (.lop3 f) (fun a b c => f.mod.getLsbD (a.toNat + 2 * b.toNat + 4 * c.toNat))

/-- R143: SHL, SHR, SAR, ROTL and SHF, with shift amounts that are not reduced or reduced modulo 32. -/
def Obligations.Shifts : Prop := ∀ (f : Fields) (s : State),
  let a := s.opA f
  let k (l : Nat) : Nat := if f.b 0 then (s.opB f l).toNat % 32 else (s.opB f l).toNat
  let r (l : Nat) : Nat := (s.opB f l).toNat % 32
  let amount (l : Nat) : Int :=
    if f.b 1 then ((s.opB f l).toInt + 32) % 64 - 32 else max (-64) (min (s.opB f l).toInt 64)
  let funnel (l : Nat) : Nat :=
    let x := (s.opC f l).toNat * 2 ^ 32 + (a l).toNat
    if 0 ≤ amount l then x * 2 ^ (amount l).toNat % 2 ^ 64 else x / 2 ^ (-amount l).toNat
  Completes (.shl f) s (fun t => Results s t f.vd.toNat (s.en f) fun l =>
    if k l < 32 then BitVec.ofNat 32 ((a l).toNat * 2 ^ k l) else 0) ∧
  Completes (.shr f) s (fun t => Results s t f.vd.toNat (s.en f) fun l =>
    if k l < 32 then BitVec.ofNat 32 ((a l).toNat / 2 ^ k l) else 0) ∧
  Completes (.sar f) s (fun t => Results s t f.vd.toNat (s.en f) fun l =>
    if k l < 32 then BitVec.ofInt 32 ((a l).toInt / 2 ^ k l) else if (a l).getLsbD 31 then 0xFFFFFFFF else 0) ∧
  Completes (.rotl f) s (fun t => Results s t f.vd.toNat (s.en f) fun l => (a l).rotateLeft (r l)) ∧
  Completes (.shf f) s (fun t => Results s t f.vd.toNat (s.en f) fun l =>
    if f.b 0 then BitVec.ofNat 32 (funnel l / 2 ^ 32) else BitVec.ofNat 32 (funnel l))

/-- R144: POPC, CLZ, BREV, BFE, BFI and PRMT. -/
def Obligations.BitFields : Prop := ∀ (f : Fields) (s : State),
  let a := s.opA f
  let pos (l : Nat) : Nat := (s.opB f l).toNat % 256
  let len (l : Nat) : Nat := min ((s.opB f l).toNat / 256 % 256) 32
  let field (l k : Nat) : Bool := if k < 32 then (a l).getLsbD k else f.b 0 && (a l).getLsbD 31
  let result (i : Instr) (P : Nat → Word → Prop) : Prop :=
    Completes i s fun t => ∃ r : Nat → Word, Results s t f.vd.toNat (s.en f) r ∧ ∀ l, l < 128 → P l (r l)
  result (.popc f) (fun l r => r.toNat = (List.range 32).countP fun k => (a l).getLsbD k) ∧
  result (.clz f) (fun l r => r.toNat ≤ 32 ∧ (a l).toNat < 2 ^ (32 - r.toNat) ∧
    (r.toNat < 32 → 2 ^ (31 - r.toNat) ≤ (a l).toNat)) ∧
  result (.brev f) (fun l r => ∀ k, k < 32 → r.getLsbD k = (a l).getLsbD (31 - k)) ∧
  result (.bfe f) (fun l r => ∀ k, k < 32 → r.getLsbD k =
    if len l = 0 then false else if k < len l then field l (pos l + k) else f.b 0 && field l (pos l + len l - 1)) ∧
  result (.bfi f) (fun l r => ∀ k, k < 32 → r.getLsbD k =
    if pos l ≤ k ∧ k < pos l + len l then (a l).getLsbD (k - pos l) else (s.opC f l).getLsbD k) ∧
  result (.prmt f) (fun l r => ∀ i, i < 4 →
    let n := (s.opC f l).toNat / 16 ^ i % 16
    let x (k : Nat) : Bool := if k < 32 then (a l).getLsbD k else (s.opB f l).getLsbD (k - 32)
    ∀ k, k < 8 → r.getLsbD (8 * i + k) =
      if n ≤ 7 then x (8 * n + k) else if n = 8 then false else if n = 9 then true
      else if n ≤ 13 then x (8 * (2 * (n - 10) + 1) + 7)
      else if n = 14 then (a l).getLsbD (8 * i + 7 - k) else (s.opB f l).getLsbD (8 * i + 7 - k))

/-- R145: SEL, ICMP with its combinations, and MOV. -/
def Obligations.SelectCompareMove : Prop := ∀ (f : Fields) (s : State),
  let a := s.opA f
  let b := s.opB f
  let key (x : Word) : Int := if f.b 3 then x.toInt else x.toNat
  let p := s.wp.pred f.vc.toNat
  let q (l : Nat) : Bool :=
    if f.m 2 0 = 0 then decide (a l = b l) else if f.m 2 0 = 1 then decide (a l ≠ b l)
    else if f.m 2 0 = 2 then decide (key (a l) < key (b l)) else if f.m 2 0 = 3 then decide (key (a l) ≤ key (b l))
    else if f.m 2 0 = 4 then decide (key (b l) < key (a l)) else decide (key (b l) ≤ key (a l))
  Completes (.sel f) s (fun t => Results s t f.vd.toNat (s.en f) fun l => if p l then a l else b l) ∧
  Completes (.icmp f) s (fun t => ResultsPred s t f.vd.toNat (s.en f) fun l =>
    if f.m 5 4 = 0 then q l else if f.m 5 4 = 1 then q l && p l else if f.m 5 4 = 2 then q l || p l else q l ^^ p l) ∧
  Completes (.mov f) s (fun t => Results s t f.vd.toNat (s.en f) b)

/-- R146, R147 and R188: LEA in both forms, and IDOT4, whose saturating form sets SAT when it clamps. -/
def Obligations.LeaAndDot : Prop := ∀ (f : Fields) (s : State),
  let a := s.opA f
  let b := s.opB f
  let k := f.m 4 0
  let byte (signed : Bool) (x : Word) (i : Nat) : Int :=
    let y : Byte := (x >>> (8 * i)).setWidth 8
    if signed then y.toInt else y.toNat
  let dot (l : Nat) : Int :=
    (if f.b 2 ∧ (f.b 0 ∨ f.b 1) then (s.opC f l).toInt else (s.opC f l).toNat) +
    byte (f.b 0) (a l) 0 * byte (f.b 1) (b l) 0 + byte (f.b 0) (a l) 1 * byte (f.b 1) (b l) 1 +
    byte (f.b 0) (a l) 2 * byte (f.b 1) (b l) 2 + byte (f.b 0) (a l) 3 * byte (f.b 1) (b l) 3
  (f.b 5 = false → Completes (.lea f) s (fun t => Results s t f.vd.toNat (s.en f) fun l =>
    BitVec.ofNat 32 ((a l).toNat + (b l).toNat * 2 ^ k))) ∧
  (f.b 5 = true → Completes (.lea f) s (fun t => Results64 s t f.vd.toNat (s.en f) fun l =>
    s.pairA f l + ((if f.b 6 then (b l).signExtend 64 else (b l).setWidth 64) <<< k))) ∧
  let sum (l : Nat) : Int :=
    if f.b 2 = false then dot l
    else if f.b 0 ∨ f.b 1 then max (-2 ^ 31) (min (dot l) (2 ^ 31 - 1)) else max 0 (min (dot l) (2 ^ 32 - 1))
  Completes (.idot4 f) s (fun t => ResultsSat s t f.vd.toNat (s.en f) (fun l => BitVec.ofInt 32 (sum l)) fun l => sum l != dot l)

/-- R103 and R105: the shape a register takes from IADD, ISUB, IMUL, SHL and MOV. `stride` is what an operand adds from lane to
lane when it is compact. A partial write leaves V. -/
def Obligations.ShapesOfResults : Prop := ∀ (f : Fields) (s : State),
  f.vd.toNat ≠ 511 → s.en f ≠ 0 → f.mod = 0 →
  let full : Bool := s.wp.live &&& ~~~(s.en f) = 0
  let stride (x : RegVal) : Option Word := match x with | .u _ => some 0 | .a _ d => some d | .v _ => none
  let code (d : Option Word) : Nat := match d with | none => 2 | some d => if d = 0 then 0 else 1
  let shape (i : Instr) (d : Option Word) : Prop :=
    Completes i s fun t => (t.wp.rv f.vd.toNat).shape = if full then code d else 2
  let a := s.rvA f
  let b := s.rvB f
  let sum : Option Word := (stride a).bind fun x => (stride b).map fun y => x + y
  let difference : Option Word := (stride a).bind fun x => (stride b).map fun y => x - y
  let product : Option Word := match a, b with
    | .u _, .u _ => some 0
    | .u x, .a _ d => some (x * d)
    | .a _ d, .u y => some (d * y)
    | _, _ => none
  let shifted : Option Word := match a, b with
    | .u _, .u _ => some 0
    | .a _ d, .u k => if k.toNat < 32 then some (d <<< k.toNat) else none
    | _, _ => none
  shape (.iadd f) sum ∧ shape (.isub f) difference ∧ shape (.imul f) product ∧ shape (.shl f) shifted ∧
  Completes (.mov f) s fun t => if full then (if b.compact then t.wp.rv f.vd.toNat = b else (t.wp.rv f.vd.toNat).shape = 2)
    else (t.wp.rv f.vd.toNat).shape = 2

/-- R132: the special values SREAD writes, in a block that is no copy of a pair. -/
def Obligations.SpecialValues : Prop := ∀ (f : Fields) (s : State), s.blk.copy = .single →
  let value (g : Nat → Nat) : Prop :=
    Completes (.sread f) s fun t => Results s t f.vd.toNat (s.en f) fun l => BitVec.ofNat 32 (g l)
  (f.mod = 0x00 → value fun l => l) ∧ (f.mod = 0x01 → value fun _ => s.wp.idx) ∧ (f.mod = 0x02 → value fun _ => s.wp.role) ∧
  (f.mod = 0x03 → value fun _ => s.blk.index) ∧ (f.mod = 0x04 → value fun _ => s.blk.index % s.blk.header.gang) ∧
  (f.mod = 0x05 → value fun _ => s.blk.core) ∧
  (f.mod = 0x06 → value fun _ => s.blk.core / 96 * 24 + s.blk.core % 96 / 4) ∧
  (f.mod = 0x07 → value fun _ => s.blk.core / 96) ∧ (f.mod = 0x08 → value fun _ => s.node) ∧
  (f.mod = 0x10 → Completes (.sread f) s fun t =>
    Results64 s t f.vd.toNat (s.en f) fun _ => BitVec.ofNat 64 (s.die (s.blk.core / 96)).clk)

/-! ## The shape and predicate instructions -/

/-- R116-R119: SHQ, SHASSERT, SHFORCE and SHNARROW with a thread enabled. SHFORCE and SHNARROW keep the value of every live
lane of every register. R115: a shape that is not allowed, or a register that is not equal in every live lane, traps with the register
and the shape found, and changes nothing else. -/
def Obligations.ShapeInstructions : Prop := ∀ (f : Fields) (s : State), s.en f ≠ 0 →
  let r := f.va.toNat
  let w := s.wp
  let keeps (t : State) : Prop := (∀ q l, l < 128 → Mask.has w.live l = true → t.wp.val q l = w.val q l) ∧
    (∀ q, q ≠ r → t.wp.rv q = w.rv q)
  let equal : Prop := ∀ l k, l < 128 → k < 128 → Mask.has w.live l = true → Mask.has w.live k = true → w.val r l = w.val r k
  Completes (.shq f) s (fun t => Results s t f.vd.toNat (s.en f) fun _ => BitVec.ofNat 32 (w.rv r).shape) ∧
  (f.mod.getLsbD (w.rv r).shape = true → Completes (.shassert f) s (Advances s)) ∧
  (f.mod = 0 → equal → Completes (.shforce f) s fun t => ∃ u, keeps u ∧ (u.wp.rv r).shape = 0 ∧ u.mem = s.mem ∧
    u.wp = { w with regs := u.wp.regs } ∧ Advances u t) ∧
  (f.mod = 1 → equal ∨ (w.affineReg r).isSome → Completes (.shforce f) s fun t => ∃ u, keeps u ∧ (u.wp.rv r).compact = true ∧
    u.mem = s.mem ∧ u.wp = { w with regs := u.wp.regs } ∧ Advances u t) ∧
  (f.mod = 2 → Completes (.shforce f) s fun t => ∃ u, keeps u ∧ (u.wp.rv r).shape = 2 ∧ (s.spareRow r → u.mem = s.mem) ∧
    u.wp = { w with regs := u.wp.regs } ∧ Advances u t) ∧
  Completes (.shnarrow f) s (fun t => ∃ u v, keeps u ∧ (equal → (u.wp.rv r).shape = 0) ∧ u.mem = s.mem ∧
    u.wp = { w with regs := u.wp.regs } ∧ PutsPred u v f.vd.toNat (s.en f) (fun _ => (u.wp.rv r).compact) ∧ Advances v t) ∧
  (CanEnter s →
    let addr : DWord := BitVec.ofNat 64 (w.idx % 256 * 2 ^ 16 + (w.rv r).shape * 2 ^ 10 + r)
    (f.mod.getLsbD (w.rv r).shape = false → Completes (.shassert f) s fun t => Enters s t 0x05 addr s.iss.lanes s.iss.pc) ∧
    (f.mod = 0 → ¬ equal → Completes (.shforce f) s fun t => Enters s t 0x06 addr s.iss.lanes s.iss.pc))

/-- R120-R122: PLOP, P2V and V2P. In F96 PLOP's second predicate is the one IMM32 numbers. -/
def Obligations.Predicates : Prop := ∀ (f : Fields) (s : State),
  let p := s.wp.pred f.va.toNat
  let q := s.wp.pred (if f.isF96 then f.imm.toNat else f.vb.toNat)
  let word (k : Nat) : Word := BitVec.ofNat 32 (((List.range 32).filter fun i =>
    Mask.has (s.en f) (32 * k + i) && p (32 * k + i)).foldl (fun x i => x + 2 ^ i) 0)
  Completes (.plop f) s (fun t => ResultsPred s t f.vd.toNat (s.en f) fun l =>
    f.mod.getLsbD (2 * (p l).toNat + (q l).toNat)) ∧
  Completes (.p2v f) s (fun t => ∃ u, PutsMany s u (s.en f)
    [(f.vd.toNat, fun _ => word 0), (f.vd.toNat + 1, fun _ => word 1), (f.vd.toNat + 2, fun _ => word 2),
     (f.vd.toNat + 3, fun _ => word 3)] ∧ Advances u t) ∧
  Completes (.v2p f) s (fun t => ResultsPred s t f.vd.toNat (s.en f) fun l =>
    if f.b 0 then (s.wp.val (f.va.toNat + l / 32) l).getLsbD (l % 32) else decide (s.opA f l ≠ 0))

/-! ## The float instructions -/

/-- R189 and R193: every float instruction that is not long-latency, and every conversion without `.rs`, writes its lanes'
results and sets in FPSTAT, where they stay, the flags of its enabled threads. The results are those of the exact arithmetic of
`Numbers`. -/
def Obligations.FloatResults : Prop := ∀ (f : Fields) (s : State),
  let a (l : Nat) : Nat := (s.opA f l).toNat
  let b (l : Nat) : Nat := (s.opB f l).toNat
  let c (l : Nat) : Nat := (s.opC f l).toNat
  let rnd := f.m 2 0
  let ftz := f.b 3
  let half (x i : Nat) : Nat := x / 2 ^ (16 * i) % 2 ^ 16
  let two (g : Nat → Nat × FpFlags) : Nat × FpFlags := ((g 1).1 * 2 ^ 16 + (g 0).1, (g 0).2 ||| (g 1).2)
  let fmt := if f.b 4 then bf16 else fp16
  let flags (g : Nat → Nat × FpFlags) : FpFlags := (Mask.lanes (s.en f)).foldl (fun x l => x ||| (g l).2) 0
  let gives (i : Instr) (g : Nat → Nat × FpFlags) : Prop := Completes i s fun t => ∃ u v,
    Puts s u f.vd.toNat (s.en f) (fun l => BitVec.ofNat 32 (g l).1) ∧ Raises u v (flags g) ∧ Advances v t
  gives (.fadd f) (fun l => fp32.arith .add rnd ftz (a l) (b l) 0) ∧
  gives (.fsub f) (fun l => fp32.arith .sub rnd ftz (a l) (b l) 0) ∧
  gives (.fmul f) (fun l => fp32.arith .mul rnd ftz (a l) (b l) 0) ∧
  gives (.ffma f) (fun l => fp32.arith .fma rnd ftz (a l) (b l) (c l)) ∧
  gives (.fmin f) (fun l => fp32.minmax false (f.b 4) ftz (a l) (b l)) ∧
  gives (.fmax f) (fun l => fp32.minmax true (f.b 4) ftz (a l) (b l)) ∧
  gives (.frnd f) (fun l => frndWord rnd ftz (a l)) ∧
  gives (.fclass f) (fun l => (fclassWord (a l), 0)) ∧
  gives (.padd2 f) (fun l => two fun i => fmt.arith .add rnd ftz (half (a l) i) (half (b l) i) 0) ∧
  gives (.pmul2 f) (fun l => two fun i => fmt.arith .mul rnd ftz (half (a l) i) (half (b l) i) 0) ∧
  gives (.pfma2 f) (fun l => two fun i => fmt.arith .fma rnd ftz (half (a l) i) (half (b l) i) (half (c l) i)) ∧
  gives (.pmin2 f) (fun l => two fun i => fmt.minmax false (f.b 5) ftz (half (a l) i) (half (b l) i)) ∧
  gives (.pmax2 f) (fun l => two fun i => fmt.minmax true (f.b 5) ftz (half (a l) i) (half (b l) i)) ∧
  gives (.fdot2 f) (fun l => fdot2Word fmt rnd ftz (a l) (b l) (c l)) ∧
  gives (.scale f) (fun l => scaleWord (f.m 6 4) (f.b 2) (a l) (b l / 2 ^ (8 * f.m 1 0) % 2 ^ 8)) ∧
  (f.imm.toNat % 8 < 4 → gives (.cvt f) fun l =>
    convert (cvType (f.m 3 0)) (cvType (f.m 7 4)) (f.imm.toNat % 8) (srDraw (s.wp.thread l).sr) (f.imm.getLsbD 3) (a l))

/-- R190, R194 and R195: a NaN operand of FADD, FSUB, FMUL or FFMA gives the canonical NaN, with IV when an operand is a
signalling NaN; ∞ − ∞ and 0 × ∞ give it with IV; FMIN and FMAX drop a single NaN. -/
def Obligations.FloatSpecialValues : Prop := ∀ (rnd a b c : Nat) (ftz : Bool),
  let nan (x : Nat) : Bool := x / 2 ^ 23 % 256 = 255 && x % 2 ^ 23 != 0
  let signalling (x : Nat) : Bool := nan x && x / 2 ^ 22 % 2 = 0
  let iv (on : Bool) : FpFlags := if on then 0x10 else 0
  a < 2 ^ 32 → b < 2 ^ 32 → c < 2 ^ 32 →
  (nan a ∨ nan b → fp32.arith .add rnd ftz a b 0 = (0x7FC00000, iv (signalling a || signalling b)) ∧
    fp32.arith .sub rnd ftz a b 0 = (0x7FC00000, iv (signalling a || signalling b)) ∧
    fp32.arith .mul rnd ftz a b 0 = (0x7FC00000, iv (signalling a || signalling b))) ∧
  (nan a ∨ nan b ∨ nan c → (fp32.arith .fma rnd ftz a b c).1 = 0x7FC00000) ∧
  fp32.arith .add rnd ftz 0x7F800000 0xFF800000 0 = (0x7FC00000, 0x10) ∧
  fp32.arith .sub rnd ftz 0x7F800000 0x7F800000 0 = (0x7FC00000, 0x10) ∧
  fp32.arith .mul rnd ftz 0 0x7F800000 0 = (0x7FC00000, 0x10) ∧
  fp32.arith .fma rnd ftz 0 0x7F800000 c = (0x7FC00000, 0x10) ∧
  (nan a → nan b → ∀ g k, fp32.minmax g k ftz a b = (0x7FC00000, iv (signalling a || signalling b))) ∧
  (nan a → ¬ nan b → ∀ g, (fp32.minmax g false false a b).1 = b ∧ (fp32.minmax g true false a b).1 = 0x7FC00000)

/-- R189, R193, R196, R202 and R203: CVT and CVTP with every rounding code, CVTU and FCMP. With `.rs` a conversion draws once for each element
in the enabled threads, and no other thread's stochastic state changes. The flags are those that the enabled threads' conversions raise, of
CVTU none but IV; FCMP raises IV for a signalling NaN, and for any NaN with an ordering. -/
def Obligations.ConversionsAndCompares : Prop := ∀ (f : Fields) (s : State),
  let en := s.en f
  let a (l : Nat) : Nat := (s.opA f l).toNat
  let b (l : Nat) : Nat := (s.opB f l).toNat
  let t0 := f.m 3 0
  let n := packCount t0
  let rnd := f.imm.toNat % 8
  let wide := if t0 ≥ 8 then cvType 6 else cvType 0
  let element (l i : Nat) : Nat × FpFlags :=
    convert wide (cvType t0) rnd (srDraw (srAfter (s.wp.thread l).sr i)) (f.imm.getLsbD 3) (s.wp.val (f.va.toNat + i) l).toNat
  let packed (l : Nat) : Nat := (List.range n).foldl (fun x i => x + (element l i).1 * 2 ^ (32 / n * i)) 0
  let opened (l i : Nat) : Nat × FpFlags := convert (cvType t0) wide 0 0 false (a l / 2 ^ (32 / n * i) % 2 ^ (32 / n))
  let value (l : Nat) : Nat × FpFlags :=
    convert (cvType t0) (cvType (f.m 7 4)) rnd (srDraw (s.wp.thread l).sr) (f.imm.getLsbD 3) (a l)
  let raised (g : Nat → FpFlags) : FpFlags := (Mask.lanes en).foldl (fun x l => x ||| g l) 0
  let flags (l : Nat) : FpFlags := (List.range n).foldl (fun x i => x ||| (element l i).2) 0
  let draws (k : Nat) (u : State) : Prop := u = { s with wp := { s.wp with threads := u.wp.threads } } ∧
    ∀ l, l < 128 → u.wp.thread l = if rnd = 4 ∧ Mask.has en l = true
      then { s.wp.thread l with sr := srAfter (s.wp.thread l).sr k } else s.wp.thread l
  let nan (x : Nat) : Bool := x / 2 ^ 23 % 256 = 255 && x % 2 ^ 23 != 0
  let signals (l : Nat) : Bool := (nan (a l) && a l / 2 ^ 22 % 2 = 0) || (nan (b l) && b l / 2 ^ 22 % 2 = 0)
  let compared (ordering : Bool) : FpFlags :=
    if (Mask.lanes en).any fun l => signals l || (ordering && (nan (a l) || nan (b l))) then 0x10 else 0
  let un (l : Nat) : Bool := (fp32.decode (f.b 3) (a l)).isNan || (fp32.decode (f.b 3) (b l)).isNan
  let p := s.wp.pred f.vc.toNat
  let join (q : Nat → Bool) (l : Nat) : Bool :=
    if f.m 5 4 = 0 then q l else if f.m 5 4 = 1 then q l && p l else if f.m 5 4 = 2 then q l || p l else q l ^^ p l
  (rnd ≤ 4 →
    Completes (.cvtp f) s (fun t => ∃ u v w, draws n u ∧ Puts u v f.vd.toNat en (fun l => BitVec.ofNat 32 (packed l)) ∧
      Raises v w (raised flags) ∧ Advances w t) ∧
    Completes (.cvt f) s (fun t => ∃ u v w, draws 1 u ∧ Puts u v f.vd.toNat en (fun l => BitVec.ofNat 32 (value l).1) ∧
      Raises v w (raised fun l => (value l).2) ∧ Advances w t)) ∧
  Completes (.cvtu f) s (fun t => ∃ u v, PutsMany s u en ((List.range n).map fun i =>
    (f.vd.toNat + i, fun l => BitVec.ofNat 32 (opened l i).1)) ∧
    Raises u v (raised fun l => (List.range n).foldl (fun x i => x ||| ((opened l i).2 &&& 0x10)) 0) ∧ Advances v t) ∧
  (f.m 2 0 = 7 → Completes (.fcmp f) s fun t => ∃ u v, PutsPred s u f.vd.toNat en (join un) ∧ Raises u v (compared false) ∧
    Advances v t) ∧
  (f.m 2 0 = 6 → Completes (.fcmp f) s fun t => ∃ u v, PutsPred s u f.vd.toNat en (join fun l => !un l) ∧ Raises u v (compared false) ∧
    Advances v t) ∧
  (f.m 2 0 ≤ 5 → Completes (.fcmp f) s fun t => ∃ u v, PutsPred s u f.vd.toNat en
    (join fun l => (fcmpWord (f.m 2 0) (f.b 3) (a l) (b l)).1) ∧ Raises u v (compared (2 ≤ f.m 2 0)) ∧ Advances v t)

/-- R128, R129, R189 and R197: a unary function marks its destination pending with its value and its flags, in the window its LA
names, and the group goes on; with the null destination (R70) its flags alone are set, and with no thread enabled it only goes on. The
register and FPSTAT change when the pending instruction writes: LONG_LATENCY_WRITEBACK writes the oldest pending instruction's
destinations and flags, of the issuing warp or of another warp. -/
def Obligations.LongLatencyFloat : Prop := ∀ (f : Fields) (s : State),
  let pends (i : Instr) (k : Unary) (op : Nat) : Prop :=
    let y (l : Nat) : Nat × FpFlags := k.apply op (f.m 2 0) (f.b 3) (s.opA f l).toNat
    let fl : FpFlags := (Mask.lanes (s.en f)).foldl (fun x l => x ||| (y l).2) 0
    ∃ t, exec i s = .next t ∧ ∃ (u : State) (x : RegVal), Advances u t ∧
      (∀ l, l < 128 → Mask.has (s.en f) l = true → x.at l = BitVec.ofNat 32 (y l).1) ∧
      if s.en f = 0 then u = s else if f.vd.toNat = 511 then Raises s u fl
      else Pends s u f (s.en f) false fl [(f.vd.toNat, x)]
  (pends (.frcp f) .rcp 0x47 ∧ pends (.frsq f) .rsq 0x48 ∧ pends (.fsqrt f) .sqrt 0x49 ∧ pends (.fexp2 f) .exp2 0x4A ∧
    pends (.flog2 f) .log2 0x4B ∧ pends (.fsin f) .sin 0x4C ∧ pends (.fcos f) .cos 0x4D ∧ pends (.ftanh f) .tanh 0x4E) ∧
  ∀ (p : Pending) (rest : List Pending),
    (s.wp.pending = p :: rest → ∃ t, exec (.longLatencyWriteback s.blk.id s.wp.idx) s = .next t ∧ ∃ u v,
      PutsMany { s with iss := Issue.idle, wp := { s.wp with pending := rest } } u p.lanes (p.dests.map fun d => (d.1, d.2.at)) ∧
      Raises u v p.flags ∧ t = { v with iss := s.iss }) ∧
    ∀ blk warp, (blk ≠ s.blk.id ∨ warp ≠ s.wp.idx) →
      let w := s.checkin.checkout blk warp Issue.idle
      w.blk.id = blk → w.wp.idx = warp → w.wp.pending = p :: rest →
      ∃ t, exec (.longLatencyWriteback blk warp) s = .next t ∧ ∃ u v,
        PutsMany { w with wp := { w.wp with pending := rest } } u p.lanes (p.dests.map fun d => (d.1, d.2.at)) ∧
        Raises u v p.flags ∧ t = v.checkin.checkout s.blk.id s.wp.idx s.iss

/-! ## Control -/

/-- R68, R72, R151: NOP and the fill word advance the group; YIELD advances it and passes its position on. -/
def Obligations.NopAndYield : Prop := ∀ (f : Fields) (s : State),
  Completes (.nop f) s (Advances s) ∧ Completes .fillWord s (Advances s) ∧
  Completes (.yield f) s fun t => ∃ u, Advances s u ∧ t = { u with cores := t.cores }

/-- R148, R152 and R153: BRA, BRX, CALL, CALLX and RET with every target a multiple of 4 inside the code. CALL and CALLX write the
tagged return address; RET returns to an address whose tag is the launch's. R76: a target that is no multiple of 4 or lies beyond
the code is ILLEGAL with SUB 0x8, and a pair that does not hold the launch's tag with SUB 0x7; TRAPMASK names the threads at fault.
There the word is no short form. -/
def Obligations.Branches : Prop := ∀ (f : Fields) (s : State),
  let en := s.en f
  let good (g : Nat → BitVec 57) : Prop := ∀ l, l < 128 → Mask.has en l = true →
    (g l).toNat % 4 = 0 ∧ (g l).toNat < s.blk.header.codeSize
  let relative (l : Nat) : BitVec 57 := s.iss.pc + (s.opB f l).signExtend 57
  let register (l : Nat) : BitVec 57 := (s.opA f l).setWidth 57
  let back (l : Nat) : BitVec 57 := (s.pairA f l).setWidth 57
  let ra : DWord := BitVec.ofNat 64 (s.blk.tag % 16 * 2 ^ 60 + s.nextPc.toNat)
  let calls (t : State) (g : Nat → BitVec 57) : Prop :=
    if f.vd.toNat = 511 then Jumps s t en g
    else ∃ u v, Puts s u f.vd.toNat en (fun _ => ra.setWidth 32) ∧
      Puts u v (f.vd.toNat + 1) en (fun _ => (ra >>> 32).setWidth 32) ∧ Jumps v t en g
  (good relative → Completes (.bra f) s fun t => Jumps s t en relative) ∧
  (good register → Completes (.brx f) s fun t => Jumps s t en register) ∧
  (good relative → Completes (.call f) s fun t => calls t relative) ∧
  (good register → Completes (.callx f) s fun t => calls t register) ∧
  (good back → (∀ l, l < 128 → Mask.has en l = true → (s.pairA f l).toNat / 2 ^ 57 = s.blk.tag % 16 * 8) →
    Completes (.ret f) s fun t => Jumps s t en back) ∧
  (let bad (x : BitVec 57) : Prop := x.toNat % 4 ≠ 0 ∨ s.blk.header.codeSize ≤ x.toNat
   let illegal (i : Instr) (sub l : Nat) : Prop := Completes i s fun t => ∃ m, Mask.has m l = true ∧
     Enters s t 0x01 (BitVec.ofNat 64 (sub * 2 ^ 32)) m s.iss.pc
   CanEnter s → s.iss.d32 = none → ∀ l, l < 128 → Mask.has en l = true →
     (bad (relative l) → illegal (.bra f) 8 l) ∧ (bad (register l) → illegal (.brx f) 8 l) ∧
     ((s.pairA f l).toNat / 2 ^ 57 ≠ s.blk.tag % 16 * 8 → illegal (.ret f) 7 l))

/-- R69 and R156-R159: RCVARM, RCVWAIT and RCVDROP change the expected set of an entry and the release test follows; an entry beyond
DEPTH traps; with no thread enabled they only go on. -/
def Obligations.Reconvergence : Prop := ∀ (f : Fields) (s : State),
  let k := f.m 4 0
  let en := s.en f
  let old := s.wp.rcv.getD k 0
  let armed (m : Mask) : State := { s with wp := { s.wp with rcv := s.wp.rcv.set k m } }
  (k < s.blk.header.depth → en ≠ 0 →
    Completes (.rcvarm f) s (fun t => ∃ u, Advances (armed (en ||| if f.b 5 then old else s.wp.waitingAt k)) u ∧ Releases u t k) ∧
    Completes (.rcvdrop f) s (fun t => ∃ u, Advances (armed (old &&& ~~~en)) u ∧ Releases u t k)) ∧
  (en = 0 → Completes (.rcvarm f) s (Advances s) ∧ Completes (.rcvwait f) s (Advances s) ∧
    Completes (.rcvdrop f) s (Advances s)) ∧
  (k < s.blk.header.depth → en ≠ 0 → Completes (.rcvwait f) s fun t => ∃ u,
    (∀ l, l < 128 → u.wp.thread l = if Mask.has (en &&& old) l then { s.wp.thread l with status := .waiting (.rcv k s.iss.len) }
      else if Mask.has s.iss.lanes l then { s.wp.thread l with pc := s.nextPc } else s.wp.thread l) ∧
    u = { s with wp := { s.wp with threads := u.wp.threads } } ∧ Releases u t k) ∧
  (s.blk.header.depth ≤ k → en ≠ 0 → CanEnter s →
    Completes (.rcvarm f) s (fun t => Enters s t 0x18 (BitVec.ofNat 64 k) s.iss.lanes s.iss.pc) ∧
    Completes (.rcvwait f) s (fun t => Enters s t 0x18 (BitVec.ofNat 64 k) s.iss.lanes s.iss.pc) ∧
    Completes (.rcvdrop f) s (fun t => Enters s t 0x18 (BitVec.ofNat 64 k) s.iss.lanes s.iss.pc))

/-- R154: EXIT ends its enabled threads, takes them out of every expected set and lets the others go on, in a warp with no meeting,
barrier, pending write or pending trap; no byte of memory and no register changes, those of a warp with no thread left neither. -/
def Obligations.ExitEnds : Prop := ∀ (f : Fields) (s : State), s.en f ≠ 0 → s.wp.pending = [] → s.wp.meets = [] →
  s.wp.trapQueue = [] → s.blk.bsyncs = [] → s.blk.sbars = [] → s.blk.copy = .single →
  Completes (.exit f) s fun t =>
    (∀ l, l < 128 → Mask.has (s.en f) l = true → (t.wp.thread l).status = .exited) ∧
    (∀ l, l < 128 → Mask.has s.iss.lanes l = true → Mask.has (s.en f) l = false → (t.wp.thread l).pc = s.nextPc) ∧
    (∀ k, t.wp.rcv.getD k 0 &&& s.en f = 0) ∧
    t.wp.regs = s.wp.regs ∧ t.mem = s.mem ∧ t.ctxs = s.ctxs ∧ t.wp.fpstat = s.wp.fpstat ∧ t.wp.trap = s.wp.trap

/-! ## Traps -/

/-- R310-R312, R318 and R324: TRAP and BRK enter the handler with the instruction after them as the resume PC; the code of TRAP is
the value the lowest enabled thread reads, that of BRK stands above the kind 0xF. -/
def Obligations.SoftwareTraps : Prop := ∀ (f : Fields) (s : State), s.en f ≠ 0 → CanEnter s →
  Completes (.trap f) s (fun t =>
    Enters s t 0x16 ((s.opB f (Mask.low (s.en f))).setWidth 64) (s.en f) s.nextPc) ∧
  Completes (.brk f) s (fun t =>
    Enters s t 0x17 (BitVec.ofNat 64 (0xF + f.mod.toNat * 256)) (s.en f) s.nextPc)

/-- R314: TRET returns the enabled handler threads to TRAPPC, or to their targets, exempt from breakpoints; one taken out of
TRAPMASK by the handler is parked. The warp has no entry armed and no trap pending, and the trap was no mismatch. R312: while a
handler runs in the warp a trap of another group is pending: the report waits at the end of the queue, the threads hold at their
PC, and the record the handler reads is not changed. -/
def Obligations.TrapReturn : Prop := ∀ (f : Fields) (s : State), s.en f ≠ 0 →
  let parked (l : Nat) : Bool := Mask.has s.wp.entryMask l && !Mask.has s.wp.trap.mask l
  (s.wp.handlers &&& s.iss.lanes ≠ 0 → s.en f &&& ~~~s.wp.handlers = 0 → s.wp.trapQueue = [] → (∀ e ∈ s.wp.rcv, e = 0) →
    s.wp.trap.cause ≠ 0x14 →
    (f.b 0 = true → ∀ l, l < 128 → Mask.has (s.en f) l = true →
      (s.opA f l).toNat % 4 = 0 ∧ (s.opA f l).toNat < s.blk.header.codeSize) →
    Completes (.tret f) s fun t =>
      (∀ l, l < 128 → t.wp.thread l =
        if Mask.has (s.en f) l then
          if parked l then { s.wp.thread l with status := .parked .tret, pc := s.wp.trap.pc, handler := false, exempt := true }
          else { s.wp.thread l with status := .eligible, handler := false, exempt := true,
                                    pc := if f.b 0 then (s.opA f l).setWidth 57 else s.wp.trap.pc }
        else if Mask.has s.iss.lanes l then { s.wp.thread l with pc := s.nextPc } else s.wp.thread l) ∧
      t = { s with wp := { s.wp with threads := t.wp.threads, rvalid := false } }) ∧
  (s.wp.trapBase.getLsbD 0 = true → s.wp.handlers ≠ 0 → s.wp.handlers &&& s.iss.lanes = 0 →
    (∀ p ∈ s.wp.pending, p.lanes &&& s.iss.lanes = 0) →
    Completes (.trap f) s fun t =>
      t.wp.trap = s.wp.trap ∧ t.wp.entryMask = s.wp.entryMask ∧
      t.wp.trapQueue = s.wp.trapQueue ++ [(⟨0x16, s.nextPc, s.iss.word, (s.opB f (Mask.low (s.en f))).setWidth 64, s.en f⟩,
        s.iss.lanes)] ∧
      (∀ l, l < 128 → t.wp.thread l = if Mask.has s.iss.lanes l then { s.wp.thread l with status := .waiting .trap }
        else s.wp.thread l) ∧ t.wp.regs = s.wp.regs ∧ t.mem = s.mem)

/-! ## Warp-wide operations -/

/-- R160-R170 when every live thread of the warp is in the group and enabled, names every live lane as a member, and no part of the
warp has been at the instruction before: every thread completes at once, with the value its definition gives over the live lanes. No other
register, predicate, flag or special register changes; REDUX and SCAN with `.fadd` set the flags of their sums.
R162: an enabled thread that is not among its own members traps with MASK_SELF. -/
def Obligations.WarpWide : Prop := ∀ (f : Fields) (s : State),
  let w := s.wp
  let live (l : Nat) : Bool := Mask.has w.live l
  (s.en f = s.wp.live → s.iss.lanes = s.wp.live → s.wp.live ≠ 0 → f.vd.toNat < 380 → (∀ m ∈ s.wp.meets, m.pc ≠ s.iss.pc) →
    (∀ l, l < 128 → live l = true → (s.wp.thread l).status = .eligible) →
    (∀ l, l < 128 → live l = true → Mask.has (s.membersOf f l) l = true ∧ s.wp.live &&& ~~~(s.membersOf f l) = 0) →
    let d := f.vd.toNat
    let lanes : List Nat := (List.range 128).filter live
    -- The registers from `d` that are written, the predicate that is (7 for none), and the flags that are set.
    let goes (t : State) (regs pred : Nat) (fl : FpFlags) : Prop := (∀ l, l < 128 →
        t.wp.thread l = if live l then { w.thread l with pc := s.nextPc, preds := (t.wp.thread l).preds } else w.thread l) ∧
      (∀ q, q ≠ pred → q < 7 → ∀ l, l < 128 → t.wp.pred q l = w.pred q l) ∧
      t.wp = { w with regs := t.wp.regs, threads := t.wp.threads, fpstat := w.fpstat ||| fl } ∧
      (∀ r, r < d ∨ d + regs ≤ r → t.wp.rv r = w.rv r) ∧
      t = { s.withMemory t with wp := t.wp, blk := t.blk, blocks := t.blocks, writes := t.writes, free := t.free }
    let sets (i : Instr) (g : Nat → Word) (fl : FpFlags) : Prop := Completes i s fun t => goes t 1 7 fl ∧
      (s.spareRow d → t.mem = s.mem ∧ t.blk = s.blk ∧ t.blocks = s.blocks) ∧
      ∀ l, l < 128 → live l = true → t.wp.val d l = g l
    let gives (i : Instr) (g : Nat → Word) : Prop := sets i g 0
    let gives4 (i : Instr) (g : Nat → Nat → Bool) : Prop := Completes i s fun t => goes t 4 7 0 ∧
      ∀ l, l < 128 → live l = true → ∀ j, j < 128 → (t.wp.val (d + j / 32) l).getLsbD (j % 32) = g l j
    let p := w.pred f.va.toNat
    let votes (q : Bool) : Prop := Completes (.vote f) s fun t => goes t 0 d 0 ∧ t.mem = s.mem ∧ t.blk = s.blk ∧ t.blocks = s.blocks ∧
      (d < 7 → ∀ l, l < 128 → live l = true → t.wp.pred d l = q)
    let total : Word × FpFlags := (foldTree faddStep 7 ((List.range 128).map fun j =>
      (if live j then w.val f.va.toNat j else (0x80000000 : Word), (0 : FpFlags)))).headD (0x80000000, 0)
    let before (l : Nat) : Word × FpFlags := ((List.range 128).filter fun j => j < l || (!f.b 4 && j = l)).foldl (fun y j =>
      faddStep y (if live j then w.val f.va.toNat j else (0x80000000 : Word), (0 : FpFlags))) (0x80000000, 0)
    let k (l : Nat) : Nat := if f.isF96 then f.imm.toNat else (w.val f.vb.toNat l).toNat
    let from_ (l : Nat) : Nat := shflLane (f.m 2 0) (f.m 5 3) l (k l)
    let x := w.val f.va.toNat
    let op := f.m 3 0
    let key (j : Nat) : DWord := if f.b 1 then w.val (f.va.toNat + 1) j ++ x j else (x j).setWidth 64
    gives (.shfl f) (fun l => if live (from_ l) then x (from_ l) else x l) ∧
    (f.m 2 0 = 0 → votes (lanes.any p)) ∧ (f.m 2 0 = 1 → votes (lanes.all p)) ∧
    (f.m 2 0 = 2 → votes (lanes.all p || lanes.all fun l => !p l)) ∧
    (f.m 2 0 = 3 → gives4 (.vote f) fun _ j => live j && p j) ∧
    (f.m 2 0 = 4 → gives (.vote f) fun _ => BitVec.ofNat 32 (lanes.filter p).length) ∧
    (op < 8 → gives (.redux f) fun _ => lanes.foldl (fun y j => reduxInt op y (x j)) (reduxIdentity op)) ∧
    (op = 8 → sets (.redux f) (fun _ => total.1) total.2) ∧
    (op < 8 → gives (.scan f) fun l =>
      (lanes.filter fun j => j < l || (!f.b 4 && j = l)).foldl (fun y j => reduxInt op y (x j)) (reduxIdentity op)) ∧
    (op = 8 → sets (.scan f) (fun l => (before l).1) (lanes.foldl (fun y l => y ||| (before l).2) 0)) ∧
    gives4 (.matchL f) (fun l j => live j && key j == key l && (!f.b 0 || lanes.all fun i => key i == key l)) ∧
    Completes (.elect f) s (fun t => goes t 1 f.va.toNat 0 ∧
      let e := if f.b 0 then lanes.getLastD 0 else lanes.headD 0
      ∀ l, l < 128 → live l = true → t.wp.val d l = BitVec.ofNat 32 e ∧
        (f.va.toNat < 7 → t.wp.pred f.va.toNat l = decide (l = e)))) ∧
  (CanEnter s → ∀ l, l < 128 → Mask.has (s.en f) l = true → Mask.has (s.membersOf f l) l = false →
    (∀ k, k < l → Mask.has (s.en f) k = true → Mask.has (s.membersOf f k) k = true) →
    let traps (i : Instr) : Prop := Completes i s fun t => ∃ m, Mask.has m l = true ∧
      Enters s t 0x07 (BitVec.ofNat 64 l) m s.iss.pc
    traps (.shfl f) ∧ traps (.vote f) ∧ traps (.redux f) ∧ traps (.scan f) ∧ traps (.matchL f) ∧ traps (.elect f))

/-! ## Memory -/

/-- R4, R97 and R230: a write to physical memory, or to the scratch window of a block, leaves its bytes where it writes them and every
other byte as it was. -/
def Obligations.WriteThenRead : Prop :=
  (∀ (s : State) (pa a : Nat) (bs : List Byte), s.MemInv →
    (s.writePa pa bs).readPa a = if pa ≤ a ∧ a < pa + bs.length then bs.getD (a - pa) 0 else s.readPa a) ∧
  ∀ (b : Block) (off a : Nat) (bs : List Byte), Tab.wf (0 : Byte) b.scratch = true →
    Tab.get 0 (b.writeScr off bs).scratch a = if off ≤ a ∧ a < off + bs.length then bs.getD (a - off) 0 else Tab.get 0 b.scratch a

/-- R227, R229-R231: LD, LDS, LDX and LDC whose checks pass mark their destinations pending with the bytes at each lane's address,
zero- or sign-extended as the size code says; every byte of memory and every register is unchanged until the write-back, and the
group goes on. An LD with an order, and any load of scratch, has the bytes of the last write; an LD without one has the bytes its warp
sees (R301, R308), which is the model's choice (log 25). Through a leaf that R211 forbids an LD has any values (R9). A page the core's TLB
does not hold is walked for (R212, log 41). LDC reads a bank whose bytes came sound. R213 and R310: a load with an order whose address is no multiple of its size traps with MISALIGN at the
address of the lowest such lane. -/
def Obligations.Loads : Prop := ∀ (f : Fields) (s : State) (c : Ctx), Plain s f c →
  let size := f.m 2 0
  let n := if size ≤ 1 then 1 else if size ≤ 3 then 2 else if size = 4 then 4 else if size = 5 then 8 else 16
  let regs := if size ≤ 4 then 1 else if size = 5 then 2 else if size = 6 then 4 else 1
  let need := if f.m 7 4 = 0 then 1 else n
  let x : Access := ⟨s.addr f, n, need, true, false, true⟩
  let en := s.en f
  let word (i : Nat) (bs : List Byte) : Word :=
    if size = 1 then (BitVec.ofNat 8 (ofBytes bs)).signExtend 32 else if size = 3 then (BitVec.ofNat 16 (ofBytes bs)).signExtend 32
    else BitVec.ofNat 32 (ofBytes bs / 2 ^ (32 * i))
  let gives (i : Instr) (swap : Bool) (bytes : Nat → List Byte) : Prop := Completes i s fun t => ∃ u vals,
    vals.length = regs ∧ (∀ i, i < regs → ∀ l, l < 128 → Mask.has en l = true → (vals.getD i (.u 0)).at l = word i (bytes l)) ∧
    Marks { s with caches := t.caches, agenda := t.agenda } u f en swap vals ∧ Advances u t
  (s.armed s.blk 2 = false → (∀ l, l < 128 → Mask.has en l = true → s.laneCause c x l = .fine) →
    (s.strays c x en = false →
      gives (.ld f) true fun l => if f.m 7 4 = 0 then s.seenVa c (s.addr f l) n else s.loadVa c (s.addr f l) n) ∧
    (s.strays c x en = true → Completes (.ld f) s fun t => ∃ u vals, vals.length = regs ∧ (∀ v ∈ vals, RegVal.compact v = false) ∧
      Marks { s with caches := t.caches, agenda := t.agenda } u f en true vals ∧ Advances u t)) ∧
  ((∀ l, l < 128 → Mask.has en l = true → s.blkNow.scrCause true (s.offs f l) n need true = .fine) →
    gives (.lds f) false fun l => (List.range n).map fun k => Tab.get 0 s.blkNow.scratch (s.offs f l + k)) ∧
  ((∀ l, l < 128 → Mask.has en l = true → (s.window f true l).1.scrCause (s.window f true l).2 (s.offs f l) n need true = .fine) →
    gives (.ldx f) true fun l => (List.range n).map fun k => Tab.get 0 (s.window f true l).1.scratch (s.offs f l + k)) ∧
  ((s.bankBad (f.b 3)).1 = [] →
    gives (.ldc f) false (fun l => (List.range n).map fun k => (s.bank (f.b 3)).getD ((s.offs f l + k) % 2 ^ 32) 0)) ∧
  (∀ l, CanEnter s → s.armed s.blk 2 = false → f.m 7 4 ≠ 0 → l < 128 → Mask.has en l = true → s.addr f l % n ≠ 0 →
    (∀ k, k < l → Mask.has en k = true → (s.laneCause c x k).stops = false) →
    Completes (.ld f) s fun t =>
      ∃ m, Mask.has m l = true ∧ Enters s t 0x08 (BitVec.ofNat 64 (s.addr f l % 2 ^ 57)) m s.iss.pc)

/-- R227 and R229: ST whose checks pass stores each enabled lane's bytes at its address, ascending, once when address and data are
uniform; every other byte of memory, every register, predicate and flag is unchanged, and the group goes on. -/
def Obligations.GenericStores : Prop := ∀ (f : Fields) (s : State) (c : Ctx), Plain s f c → s.MemInv → s.lostNodes = [] →
  let en := s.en f
  let n := sizeBytes (f.m 2 0)
  let x : Access := ⟨s.addr f, n, if f.m 7 4 = 0 then 1 else n, false, true, false⟩
  let once : Bool := s.wp.pairShape f.vb.toNat = 0 && s.datumU (f.m 2 0) f.va.toNat
  let lanes := if once then [Mask.low en] else Mask.lanes en
  (∀ l, l < 128 → Mask.has en l = true → s.laneCause c x l = .fine) →
  Completes (.st f) s fun t => ∃ u,
    StoresMany s u c (lanes.map fun l => (s.addr f l, s.storeBytes (f.m 2 0) f.va.toNat l)) ∧ Advances u t

/-- R66, R229 and R230: STS and STX whose checks pass write each enabled lane's bytes into the scratch window of the block, or of the
partner it names, ascending, once when the operands are uniform; no byte of memory and no register changes, and the group goes on. No
thread waits at a barrier of a block. -/
def Obligations.ScratchStores : Prop := ∀ (f : Fields) (s : State) (c : Ctx), Plain s f c →
  (∀ b ∈ s.blocksNow, b.pbwaits = []) → s.blk.pbwaits = [] →
  let en := s.en f
  let size := f.m 2 0
  let n := sizeBytes size
  let need := if f.m 7 4 = 0 then 1 else n
  let lanes (more : Bool) := if (s.wp.rv f.vb.toNat).shape = 0 && more && s.datumU size f.va.toNat then [Mask.low en] else Mask.lanes en
  let write (b : Block) (l : Nat) : Block := b.writeScr (s.offs f l) (s.storeBytes size f.va.toNat l)
  ((∀ l, l < 128 → Mask.has en l = true → s.blkNow.scrCause true (s.offs f l) n need false = .fine) →
    Completes (.sts f) s fun t => ∃ u,
      u = { s with caches := u.caches
                   blk := { (lanes true).foldl write s.blk with scrLate := u.blk.scrLate, scrSettled := u.blk.scrSettled } } ∧
      Advances u t) ∧
  ((∀ l, l < 128 → Mask.has en l = true →
      (s.window f true l).2 = true ∧ (s.window f true l).1.scrCause true (s.offs f l) n need false = .fine) →
    Completes (.stx f) s fun t =>
      (∀ q y, s.block? q = some y → (t.block? q).map Block.scratch =
        some (((lanes ((s.wp.rv f.vc.toNat).shape = 0)).filter fun l => (s.window f true l).1.id = q).foldl write y).scratch) ∧
      t.mem = s.mem ∧ t.wp.regs = s.wp.regs ∧ t.ctxs = s.ctxs ∧
      ∀ k, k < 128 → t.wp.thread k = if Mask.has s.iss.lanes k then { s.wp.thread k with pc := s.nextPc } else s.wp.thread k)

/-- R232 and R233: ATOM, ATOMCAS and RED whose checks pass perform each enabled lane's step in ascending order: the old value is
marked pending for VD (not for RED), the new one is stored. The region's validity ends and the unit becomes non-idempotent (R322,
R338). A step that does what software must not has the results of R9: any value for VD. RED reads without consuming poison, which is the
model's choice (log 68, DEDUCED). A page the core's TLB does not hold is walked for (R212, log 41). -/
def Obligations.AtomicSteps : Prop := ∀ (f : Fields) (s : State) (c : Ctx), Plain s f c → s.MemInv → s.lostNodes = [] →
  let en := s.en f
  let s0 := s.setNonIdem.spoilRegion
  let op := f.m 3 0
  let n := if op ≥ 12 then 8 else 4
  let wide (r k l : Nat) : Nat := s.wp.wide r k l
  let fine (n : Nat) (reads : Bool) : Prop := ∀ l, l < 128 → Mask.has en l = true →
    s.laneCause c ⟨s.addr f, n, n, true, true, reads⟩ l = .fine
  let sound (n : Nat) (new : Nat → Nat → Option Nat) : Prop := ∀ l, l < 128 → Mask.has en l = true →
    (∀ p ∈ s.leaves c (s.addr f l) n, p.1.stray = false) ∧
    ∀ m x, new l m = some x → s.offends c (s.addr f l) (bytesOf x n) = false
  let gives (i : Instr) (n : Nat) (new : Nat → Nat → Option Nat) (marks : Bool) : Prop := Completes i s fun t => ∃ w u v old vals,
    w = { s0 with caches := w.caches, agenda := w.agenda } ∧
    Atomics w u c n (s.addr f) new (Mask.lanes en) old ∧ vals.length = n / 4 ∧
    (sound n new → ∀ k, k < (Mask.lanes en).length → ∀ i, i < n / 4 →
      (vals.getD i (.u 0)).at ((Mask.lanes en).getD k 0) = BitVec.ofNat 32 (old.getD k 0 / 2 ^ (32 * i))) ∧
    (if marks then Marks { u with caches := t.caches } v f en true vals else v = { u with caches := t.caches }) ∧ Advances v t
  (fine n true → gives (.atom f) n (fun l m => some (atomNew op m (wide f.va.toNat (n / 4) l))) true) ∧
  (fine n false → gives (.red f) n (fun l m => some (atomNew op m (wide f.va.toNat (n / 4) l))) false) ∧
  (f.m 1 0 < 3 → fine (4 * 2 ^ f.m 1 0) true → gives (.atomcas f) (4 * 2 ^ f.m 1 0)
    (fun l m => if m = wide f.va.toNat (2 ^ f.m 1 0) l then some (wide f.vc.toNat (2 ^ f.m 1 0) l) else none) true)

/-- R234: PREF goes on in every state, and changes nothing but what caches and TLBs hold. R220, R235: FENCE with no shoot-down of its
warp in progress and no lost store to report goes on; as an acquire wider than `.core` it leaves no line of a page that is not sealed
in the L1, and at `.pkg` or wider none in the die's RDC, at `.quad` too, which is the model's choice (log 164); with a shoot-down in
progress its threads wait. R239: CCTL whose checks pass changes the caches alone, and asks for a page's walk (R212, log 41).
R222-R224, R236-R238: SEAL, UNSEAL, PIN and UNPIN of whole pages whose checks pass. SEAL and UNSEAL set and clear S in the leaf of
every page of the range and change no other byte of memory and no register; the threads of SEAL go on at once or wait for its
shoot-down, those of UNSEAL go on, and it drops the range's lines in its scope but for an L2's pinned ones (R222). PIN answers 2 when a line is another node's, 1 when the
quota does not hold it, else 0, and then every line of the range is pinned; UNPIN answers 0 and no line of the range is pinned. A base
or a length that is no multiple of 4,096, or no length, traps with MISALIGN; that TRAPADDR is the base then, also where only the length
is wrong, is the model's choice (log 67, DEDUCED). -/
def Obligations.CachesAndPins : Prop :=
  (∀ (f : Fields) (s : State) (c : Ctx),
    let ord := f.m 7 4
    let scope := (ord - 1) % 5
    let acquires := (1 ≤ ord ∧ ord ≤ 5) ∨ 11 ≤ ord
    (∃ t, exec (.pref f) s = .next t ∧ ∃ u, u = { s with caches := u.caches, cores := u.cores, dies := u.dies } ∧
      u.cores.map (fun k => { k with tlb := [] }) = s.cores.map (fun k => { k with tlb := [] }) ∧
      u.dies.map (fun k => { k with tlb := [] }) = s.dies.map (fun k => { k with tlb := [] }) ∧ Advances u t) ∧
    (s.en f = 0 → ∃ t, exec (.fence f) s = .next t ∧ Advances s t) ∧
    (s.en f ≠ 0 → s.shooting = false → (s.blk.copy = .leading → s.pairBusy = false) → s.unitLost = none →
      ∃ t, exec (.fence f) s = .next t ∧
      ∃ u, u = { s with caches := u.caches, unfenced := (s.covered scope (s.en f)).unfenced } ∧
        (acquires → 1 ≤ scope → ∀ x ∈ u.caches, x.level = 0 → x.unit = s.blk.core → x.sealed = true) ∧
        (acquires → 3 ≤ scope → ∀ x ∈ u.caches, x.level = 2 → x.unit = dieOf s.blk.core → x.sealed = true) ∧ Advances u t) ∧
    (s.en f ≠ 0 → s.shooting = true → Completes (.fence f) s fun t =>
      ∀ l, l < 128 → t.wp.thread l = if Mask.has s.iss.lanes l then { s.wp.thread l with status := .waiting .retry } else s.wp.thread l) ∧
    (Plain s f c →
      (∀ l, l < 128 → Mask.has (s.en f) l = true → s.laneCause c ⟨s.addr f, 1, 1, false, false, false⟩ l = .fine) →
      ∃ t, exec (.cctl f) s = .next t ∧ ∃ u, u = { s with caches := u.caches, agenda := u.agenda } ∧ Advances u t)) ∧
  ∀ (f : Fields) (s : State) (c : Ctx), Plain s f c →
    (s.wp.rv f.va.toNat).shape = 0 → (s.wp.rv (f.va.toNat + 1)).shape = 0 → (f.isF96 = false → (s.wp.rv f.vb.toNat).shape = 0) →
    let en := s.en f
    let va := s.uniPair f.va.toNat
    let len := s.uniB f
    let s0 := s.setNonIdem
    let lines := (s.linesOf c va len).map Prod.snd
    let changed (t : State) (bit : Nat → Nat) : Prop :=
      (∀ i l, 4096 * i < len → s.xlat c (va + 4096 * i) = .ok l → t.readNum l.entry 8 = bit (s.readNum l.entry 8)) ∧
      (∀ a, (∀ i l, 4096 * i < len → s.xlat c (va + 4096 * i) = .ok l → a < l.entry ∨ l.entry + 8 ≤ a) → t.readPa a = s.readPa a) ∧
      t.wp.regs = s.wp.regs ∧ t.ctxs = s.ctxs ∧
      t = { s0.withMemory t with wp := { s.wp with threads := t.wp.threads }, caches := t.caches, shootdowns := t.shootdowns
                                 nextShoot := s.nextShoot + 1, dies := t.dies, unfenced := t.unfenced }
    (va % 4096 = 0 → len % 4096 = 0 → len ≠ 0 → s.MemInv →
      (s.pagesCause c va len false = .fine →
        (∃ t, exec (.sealR f) s = .next t ∧ changed t (fun e => e ||| 0x20) ∧ t.unfenced = s.unfenced ∧
          ∀ l, l < 128 → Mask.has s.iss.lanes l = true → (t.wp.thread l).pc = s.nextPc ∨
            (Mask.has en l = true ∧ t.wp.thread l = { s.wp.thread l with status := .waiting (.shoot s.nextShoot s.iss.len) })) ∧
        (∃ t, exec (.unsealR f) s = .next t ∧ changed t (fun e => e - if e.testBit 5 then 0x20 else 0) ∧
          t.unfenced = s.unfenced ++ [⟨c.id, va, len, f.m 2 0, s.blk.id, s.wp.idx, en⟩] ∧
          (∀ x ∈ t.caches, x.line ∈ lines → inScope (f.m 2 0) s.blk.core x = true →
            x.level = 1 ∧ ∃ p ∈ s.pins, p.ctx = x.ctx ∧ p.line = x.line) ∧
          ∀ l, l < 128 → Mask.has s.iss.lanes l = true → (t.wp.thread l).pc = s.nextPc) ∧
        (∃ t, exec (.pin f) s = .next t ∧ ∃ (u : State) (code : Nat), u = { s with pins := u.pins, caches := u.caches } ∧ code ≤ 2 ∧
          (code = 2 ↔ ∃ x ∈ lines, nodeOf (x * 128) ≠ s.node) ∧ (code ≠ 0 → u = s) ∧ (∀ p ∈ s.pins, p ∈ u.pins) ∧
          (code = 0 → ∀ x ∈ lines, ∃ p ∈ u.pins, p.ctx = c.id ∧ p.line = x) ∧
          Results u t f.vd.toNat en fun _ => BitVec.ofNat 32 code)) ∧
      (s.pagesCause c va len true = .fine →
        ∃ t, exec (.unpin f) s = .next t ∧ ∃ u : State, u = { s with pins := u.pins } ∧
          (∀ p, p ∈ u.pins ↔ p ∈ s.pins ∧ ¬ (p.ctx = c.id ∧ p.line ∈ lines)) ∧ Results u t f.vd.toNat en fun _ => 0)) ∧
    (CanEnter s → va % 4096 ≠ 0 ∨ len % 4096 ≠ 0 ∨ len = 0 →
      let traps (i : Instr) (s : State) : Prop := Completes i s fun t =>
        Enters s t 0x08 (BitVec.ofNat 64 (va % 2 ^ 57)) en s.iss.pc
      traps (.pin f) s ∧ traps (.unpin f) s ∧
      (Completes (.sealR f) s fun t => Enters s0 t 0x08 (BitVec.ofNat 64 (va % 2 ^ 57)) en s.iss.pc) ∧
      (Completes (.unsealR f) s fun t => Enters s0 t 0x08 (BitVec.ofNat 64 (va % 2 ^ 57)) en s.iss.pc))

/-- R205 and R128: QDEC with an LQ2 window of the context, whose codebook entry can be read, marks four registers pending with the
eight BF16 values of the index, two in each; not through a leaf that R211 forbids, whose bytes R9 makes unpredictable. -/
def Obligations.QdecDecodes : Prop := ∀ (f : Fields) (s : State) (c : Ctx) (w : FmtWin), Plain s f c →
  s.lq2Window (f.m 5 0) = some w → f.vd.toNat < 381 →
  let entry (l : Nat) : Nat := w.codebook.toNat % 2 ^ 57 + 4 * ((s.opA f l).toNat / 2 ^ 8 % 2 ^ 8)
  (∀ l, l < 128 → Mask.has (s.en f) l = true → s.laneCause c ⟨entry, 4, 1, true, false, true⟩ l = .fine) →
  s.strays c ⟨entry, 4, 1, true, false, true⟩ (s.en f) = false →
  Completes (.qdec f) s fun t => ∃ (u : State) (vals : List RegVal) (fl : FpFlags), vals.length = 4 ∧
    (∀ k, k < 4 → ∀ l, l < 128 → Mask.has (s.en f) l = true →
      let cb := (BitVec.ofNat 32 (ofBytes (s.seenVa c (entry l) 4))).toNat
      let y (j : Nat) : Nat := (lq2Scaled ((s.opA f l).toNat % 2 ^ 16) cb ((s.opB f l).toNat % 2 ^ 8) (2 * k + j)).1
      (vals.getD k (.u 0)).at l = BitVec.ofNat 32 (y 1 * 2 ^ 16 + y 0)) ∧
    Pends { s with caches := t.caches, agenda := t.agenda } u f (s.en f) false fl
      ((List.range 4).map fun k => (f.vd.toNat + k, vals.getD k (.u 0))) ∧ Advances u t

/-! ## Barriers -/

/-- R281: the update of a phase barrier word. A completed phase flips PHASE and restores PARR. R283-R286: PBINIT, PBARRIVE, PBTEST and
PBWAIT on a barrier of the block's own scratch, or of a gang partner's, whose granule is sound and at which no thread waits. PBARRIVE
answers the phase before it, PBTEST the phase, POISON and whether the token's phase is over; PBWAIT of a phase that is over goes on,
with `.status` writing POISON, without it trapping when POISON is set, and of a phase that is not over waits. -/
def Obligations.PhaseBarriers : Prop :=
  (∀ (parr expect pbytes phase add sub n : Nat) (poisoned : Bool),
    parr < 2 ^ 16 → expect < 2 ^ 16 → pbytes < 2 ^ 24 → phase < 2 → n ≤ parr → pbytes + add < 2 ^ 24 → sub ≤ pbytes + add →
    let word (p x y b : Nat) (z : Bool) : Nat := (if z then 2 ^ 57 else 0) + p * 2 ^ 56 + b * 2 ^ 32 + y * 2 ^ 16 + x
    let done : Bool := (n != 0 || add != sub) && parr = n && pbytes + add = sub
    barrierUpdate (word phase parr expect pbytes poisoned) add sub n false =
      if done then word (1 - phase) expect expect 0 poisoned
      else word phase (parr - n) expect (pbytes + add - sub) poisoned) ∧
  ∀ (f : Fields) (s : State) (c : Ctx), Plain s f c →
  (s.wp.rv f.va.toNat).shape = 0 → (f.isF96 = false → (s.wp.rv f.vb.toNat).shape = 0) → s.blk.pbwaits = [] →
  s.block? s.blk.id = some s.blkNow →
  let off := s.uni f.va.toNat
  let w := s.blk.barrier off
  let en := s.en f
  off % 8 = 0 → off + 8 ≤ s.blk.header.scratch → s.blk.scrConsumed off 8 = none →
  let phase := w / 2 ^ 56 % 2
  let poison := w / 2 ^ 57 % 2
  let token (l : Nat) : Nat := (s.opB f l).toNat % 2
  let fresh : List Byte := bytesOf (s.uniB f % 2 ^ 16 * 2 ^ 16 + s.uniB f % 2 ^ 16) 8
  let add := if f.b 1 then s.uniB f else 0
  let arrivals := if f.b 3 then 0 else if f.b 0 then Mask.count en else 1
  let named (b : Block) : Prop := (s.wp.rv f.vc.toNat).shape = 0 ∧ s.uni f.vc.toNat < s.blk.header.gang ∧
    s.partner? (s.uni f.vc.toNat) = some b ∧ s.block? b.id = some b ∧ b.pbwaits = [] ∧ b.scrConsumed off 8 = none
  (f.b 0 = false → Completes (.pbinit f) s fun t => ∃ u : State,
    u = { s with blk := { s.blk.writeScr off fresh with scrLate := u.blk.scrLate, scrSettled := u.blk.scrSettled } } ∧
    Advances u t) ∧
  (f.b 2 = false → Completes (.pbarrive f) s fun t => ∃ u : State,
    u = { s with wp := { s.wp with rvalid := false },
                 blk := { s.blk.barrierSet off add 0 arrivals false with scrLate := u.blk.scrLate, scrSettled := u.blk.scrSettled } } ∧
    Results u t f.vd.toNat en fun _ => BitVec.ofNat 32 phase) ∧
  (f.b 1 = false → Completes (.pbtest f) s fun t => Results s t f.vd.toNat en fun l =>
    BitVec.ofNat 32 ((if phase ≠ token l then 1 else 0) + poison * 2 + phase * 4)) ∧
  (f.b 1 = false → f.b 0 = false → poison = 0 → (∀ l, l < 128 → Mask.has en l = true → token l ≠ phase) →
    Completes (.pbwait f) s fun t => Advances s t) ∧
  (f.b 1 = false → f.b 0 = true → (∀ l, l < 128 → Mask.has en l = true → token l ≠ phase) →
    Completes (.pbwait f) s fun t => Results s t f.vd.toNat en fun _ => BitVec.ofNat 32 poison) ∧
  (f.b 1 = false → f.b 0 = false → poison = 1 → CanEnter s → ∀ l, l < 128 → Mask.has en l = true → token l ≠ phase →
    Completes (.pbwait f) s fun t => ∃ m, Mask.has m l = true ∧ Enters s t 0x11 (BitVec.ofNat 64 (off % 2 ^ 24)) m s.iss.pc) ∧
  (∀ b, named b →
    let word := b.barrier off
    let past (l : Nat) : Prop := token l ≠ word / 2 ^ 56 % 2
    (f.b 0 = true → Completes (.pbinit f) s fun t => ∃ u : State, u.wp = s.wp ∧ u.mem = s.mem ∧
      (u.block? b.id).map Block.scratch = some (b.writeScr off fresh).scratch ∧ Advances u t) ∧
    (f.b 2 = true → Completes (.pbarrive f) s fun t => ∃ u : State, u.wp = { s.wp with rvalid := false } ∧ u.mem = s.mem ∧
      (u.block? b.id).map Block.scratch = some (b.barrierSet off add 0 arrivals false).scratch ∧
      Results u t f.vd.toNat en fun _ => BitVec.ofNat 32 (word / 2 ^ 56 % 2)) ∧
    (f.b 1 = true → Completes (.pbtest f) s fun t => Results s t f.vd.toNat en fun l =>
      BitVec.ofNat 32 ((if token l ≠ word / 2 ^ 56 % 2 then 1 else 0) + word / 2 ^ 57 % 2 * 2 + word / 2 ^ 56 % 2 * 4)) ∧
    (f.b 1 = true → f.b 0 = false → word / 2 ^ 57 % 2 = 0 → (∀ l, l < 128 → Mask.has en l = true → past l) →
      Completes (.pbwait f) s fun t => Advances s t)) ∧
  (f.b 1 = false → (∀ l, l < 128 → Mask.has en l = true → token l = phase) →
    Completes (.pbwait f) s fun t => t.wp.regs = s.wp.regs ∧ t.mem = s.mem ∧
      (∀ p ∈ t.blk.pbwaits, p.blk = s.blk.id ∧ p.warp = s.wp.idx ∧ p.off = off) ∧
      ∀ l, l < 128 → t.wp.thread l = if Mask.has en l then { s.wp.thread l with status := .waiting .pb }
        else if Mask.has s.iss.lanes l then { s.wp.thread l with pc := s.nextPc } else s.wp.thread l)

/-- R287-R289: BSYNC of a block of one warp whose live threads all arrive completes at once; SBAR of scope `.core` and count 1 by
such a block completes at once with status 0; EVWAIT whose word differs from its compare value in every enabled lane completes
with the words read, its address checks passed; that it goes on only when the words of all its lanes differ is the model's choice (log 22). -/
def Obligations.Meetings : Prop := ∀ (f : Fields) (s : State) (c : Ctx), Plain s f c → s.en f = s.iss.lanes →
  (s.iss.lanes = s.wp.live → s.blk.warps = [s.wp] → s.block? s.blk.id = some s.blkNow → s.blk.bsyncs = [] → s.wp.role < 4 →
    f.m 7 4 = 15 → Completes (.bsync f) s fun t => t.blk.bsyncs = [] ∧ t.wp.regs = s.wp.regs ∧ t.mem = s.mem ∧
      ∀ l, l < 128 → t.wp.thread l = if Mask.has s.iss.lanes l then { s.wp.thread l with pc := s.nextPc } else s.wp.thread l) ∧
  (s.iss.lanes = s.wp.live → s.blk.warps = [s.wp] → s.block? s.blk.id = some s.blkNow → s.blk.sbars = [] → s.sbarInsts = [] →
    f.m 7 5 = 0 → f.isF96 = true → f.imm = 1 → Completes (.sbar f) s fun t => t.sbarInsts = [] ∧ t.blk.sbars = [] ∧ t.mem = s.mem ∧
      (f.vd.toNat ≠ 511 → ∀ l, l < 128 → Mask.has s.wp.live l = true → t.wp.val f.vd.toNat l = 0) ∧
      (∀ r, r ≠ f.vd.toNat → t.wp.rv r = s.wp.rv r) ∧
      ∀ l, l < 128 → t.wp.thread l = if Mask.has s.iss.lanes l then { s.wp.thread l with pc := s.nextPc } else s.wp.thread l) ∧
  ((s.wp.rv f.vc.toNat).shape = 0 →
    let addr (l : Nat) : Nat := (s.pairA f l).toNat
    let word (l : Nat) : Word := BitVec.ofNat 32 (ofBytes (s.loadVa c (addr l) 4))
    (∀ l, l < 128 → Mask.has (s.en f) l = true → s.laneCause c ⟨addr, 4, 4, true, false, true⟩ l = .fine ∧ word l ≠ s.opB f l) →
    Completes (.evwait f) s fun t => ∃ u : State,
      u = { s with caches := u.caches, agenda := u.agenda
                   wp := if acquires (f.m 7 4) && ordScope (f.m 7 4) = 4 then s.wp.syncPod s.turn else s.wp.sync s.turn } ∧
      Results u t f.vd.toNat (s.en f) word)

/-! ## Copies and collectives -/

/-- R291-R295: CPY with aligned uniform operands and any barrier in range takes the lowest free handle, adds its bytes to the barrier,
leaves its copy running and answers the handle; operands that are no multiples of 256 trap with MISALIGN; CPYQ and CPYWAIT of a handle give its status and cursor, and CPYWAIT of a copy that is over frees it. -/
def Obligations.Copies : Prop := ∀ (f : Fields) (s : State) (c : Ctx), Plain s f c →
  (∀ r, (s.wp.rv r).shape = 0) → s.block? s.blk.id = some s.blkNow →
  let ds := f.b 7
  let ss := f.b 6
  let dst := if ds then s.uni f.va.toNat else s.uniPair f.va.toNat
  let src := if ss then s.uni f.vc.toNat else s.uniPair f.vc.toNat
  let len := s.uniB f
  let h := s.uniB f
  let s0 := s.setNonIdem.spoilRegion
  let bar : Option Nat := if f.isF128 && f.ext.getLsbD 63 then some (f.e 55 32) else none
  ((∀ off, bar = some off → off % 8 = 0 ∧ off + 8 ≤ s.blk.header.scratch ∧ s.blk.pbwaits = []) →
    dst % 256 = 0 → src % 256 = 0 → len % 256 = 0 → len ≠ 0 →
    (ds = true → dst + len ≤ s.blk.header.scratch) → (ss = true → src + len ≤ s.blk.header.scratch) →
    ∀ k, k < 16 → s.blk.copies.getD k none = none → (∀ j, j < k → s.blk.copies.getD j none ≠ none) →
      Completes (.cpy f) s fun t => ∃ u : State,
        u = { s0 with blk := { (match bar with | some off => s0.blk.barrierSet off len 0 0 false | none => s0.blk) with
                        copies := s0.blk.copies.set k
                          (some ⟨dst, ds, src, ss, len, 0, bar, .running, none, false, s.wp.idx, s.iss.named⟩)
                        scrLate := u.blk.scrLate, scrSettled := u.blk.scrSettled },
                      agenda := s0.agenda ++ [.copyBurst (.block s.blk.id k)] } ∧
        Results u t f.vd.toNat (s.en f) fun _ => BitVec.ofNat 32 k) ∧
  (CanEnter s → dst % 256 ≠ 0 ∨ src % 256 ≠ 0 ∨ len % 256 ≠ 0 → Completes (.cpy f) s fun t =>
    Enters s.setNonIdem t 0x08 (BitVec.ofNat 64 ((if dst % 256 ≠ 0 then dst else if src % 256 ≠ 0 then src else len) % 2 ^ 57))
      (s.en f) s.iss.pc) ∧
  (∀ x, h < 16 → s.blk.copies.getD h none = some x → x.status = .ok →
    Completes (.cpyq f) s (fun t => ∃ u, Marks s u f (s.en f) true [.u 0, .u (BitVec.ofNat 32 x.cursor)] ∧ Advances u t) ∧
    (f.vd.toNat < 383 → Completes (.cpywait f) s fun t => ∃ u,
      PutsMany { s with blk := { s.blk with copies := s.blk.copies.set h none } } u (s.en f)
        [(f.vd.toNat, fun _ => 0), (f.vd.toNat + 1, fun _ => BitVec.ofNat 32 x.cursor)] ∧ Advances u t)) ∧
  (∀ x, h < 16 → s.blk.copies.getD h none = some x → x.status = .running →
    Completes (.cpyq f) s (fun t => ∃ u, Marks s u f (s.en f) true [.u 6, .u (BitVec.ofNat 32 x.cursor)] ∧ Advances u t) ∧
    Completes (.cpywait f) s fun t =>
      t = { s with wp := { s.wp with threads := t.wp.threads }
                   blk := { s.blk with cpywaits := s.blk.cpywaits ++ [⟨s.wp.idx, s.en f, h, f.vd.toNat, s.iss.len, f.b 0⟩] } } ∧
      ∀ l, l < 128 → t.wp.thread l = if Mask.has (s.en f) l then { s.wp.thread l with status := .waiting .copy }
        else if Mask.has s.iss.lanes l then { s.wp.thread l with pc := s.nextPc } else s.wp.thread l) ∧
  (∀ x code kind, h < 16 → s.blk.copies.getD h none = some x → x.status = .failed code kind → 1 ≤ code → code ≤ 5 →
    let word : Word := BitVec.ofNat 32 (kind % 16 * 256 + code)
    let freed : State := { s with blk := { s.blk with copies := s.blk.copies.set h none } }
    Completes (.cpyq f) s (fun t => ∃ u, Marks s u f (s.en f) true [.u word, .u (BitVec.ofNat 32 x.cursor)] ∧ Advances u t) ∧
    (f.b 0 = true → f.vd.toNat < 383 → Completes (.cpywait f) s fun t => ∃ u,
      PutsMany freed u (s.en f) [(f.vd.toNat, fun _ => word), (f.vd.toNat + 1, fun _ => BitVec.ofNat 32 x.cursor)] ∧ Advances u t) ∧
    (f.b 0 = false → CanEnter s → Completes (.cpywait f) s fun t =>
      Enters freed t 0x12 (BitVec.ofNat 64 (h * 2 ^ 44 + kind % 16 * 2 ^ 40 + code * 2 ^ 32 + x.cursor)) (s.en f) s.iss.pc))

/-! ## The matrix engine -/

/-- R245, R246, R255 and R257-R260: with no TTRUN of the block outstanding, OSCLAIM, OSREL, OSLOAD from scratch or generic memory, ACCGROW,
ACCFREE and ACCZERO whose checks pass change the logical state of slots and tiles at once and enter the engine queue of the core at its
end; the group goes on, OSCLAIM with the slot, ACCGROW with 0. ACCGROW of nothing answers 0, beyond ACCMAX 3, without `.wait` when the
tiles are not there 1, with it when an older block waits 2. -/
def Obligations.SlotsAndTiles : Prop := ∀ (f : Fields) (s : State) (c : Ctx), Plain s f c →
  (∀ r, (s.wp.rv r).shape = 0) → s.chainRunning = false → s.blk.core < s.cores.length →
  let n := s.uniB f
  let en := s.en f
  let enters (t : State) (b : Block) (op : EngineOp) (k : State → State → Prop) : Prop :=
    ∃ u : State, (∃ e : EngineEntry, e.op = op ∧ e.blk = s.blk.id ∧ e.warp = s.wp.idx ∧ e.iss = s.iss ∧
      u = { s with wp := { s.wp with rvalid := false }, nextOrder := s.nextOrder + 1,
                   blk := { b with uncov := b.uncov ++ [e] },
                   cores := setAt s.cores s.blk.core fun x => { x with queue := x.queue ++ [e] },
                   agenda := s.agenda ++ [.enginePerform s.blk.core] }) ∧ k u t
  let setSlot (k : Nat) (x : Slot) : Block := { s.blk with slots := s.blk.slots.set k x }
  (n < s.blk.slots.length → n ≠ 0xFFFFFFFF → (s.blk.slot n).state = .free → Completes (.osclaim f) s fun t =>
    enters t (setSlot n ⟨.claimed, false, 0⟩) (.osclaim (some n)) fun u t => Results u t f.vd.toNat en fun _ => BitVec.ofNat 32 n) ∧
  (n < s.blk.slots.length → (s.blk.slot n).state ≠ .free → Completes (.osrel f) s fun t =>
    enters t (setSlot n ⟨.free, false, 0⟩) (.osrel n) Advances) ∧
  (let k := f.vd.toNat
   let base := (s.wp.val f.va.toNat 0 + (extOffset f).setWidth 32).toNat
   let rows := opRows (f.b 3)
   f.b 2 = true → f.m 7 4 ≠ 15 → k < s.blk.slots.length → (s.blk.slot k).state ≠ .free →
   (∀ r, r < rows → (base + r * n) % 16 = 0 ∧ base + r * n + opRowBytes (f.m 7 4) ≤ s.blk.header.scratch) →
   Completes (.osload f) s fun t => enters t (setSlot k ⟨.ready, f.b 3, f.m 7 4⟩)
     (.osload k true base n (f.b 3) (f.m 7 4) none) Advances) ∧
  (let k := f.vd.toNat
   let base := (s.wp.pair f.va.toNat 0 + extOffset f).toNat
   ∀ stride fmt w, f.b 2 = false → k < s.blk.slots.length → (s.blk.slot k).state ≠ .free →
   s.osloadCheck f c base = .ok (stride, fmt, w) →
   Completes (.osload f) s fun t => enters t (setSlot k ⟨.ready, f.b 3, fmt⟩)
     (.osload k false base stride (f.b 3) fmt (w.map FmtWin.index)) Advances) ∧
  (let answers (x : Word) : Prop := Completes (.accgrow f) s fun t =>
     Results { s with wp := { s.wp with rvalid := false } } t f.vd.toNat en fun _ => x
   (n = 0 → answers 0) ∧ (0 < n → s.blk.header.accMax < s.blk.held + n → answers 3) ∧
   (0 < n → s.blk.held + n ≤ s.blk.header.accMax → f.b 0 = false → s.freeTiles s.blk.core < n ∨ s.olderWaits s.blk = true → answers 1) ∧
   (0 < n → s.blk.held + n ≤ s.blk.header.accMax → f.b 0 = true → 1 ≤ s.blk.held → s.olderWaits s.blk = true → answers 2)) ∧
  (0 < n → f.b 0 = false → s.blk.held + n ≤ s.blk.header.accMax → n ≤ s.freeTiles s.blk.core → s.olderWaits s.blk = false →
    Completes (.accgrow f) s fun t => enters t { s.blk with held := s.blk.held + n } (.accgrow n)
      fun u t => Results u t f.vd.toNat en fun _ => 0) ∧
  (n ≤ s.blk.held → Completes (.accfree f) s fun t =>
    enters t { s.blk with held := s.blk.held - n } (.accfree n) Advances) ∧
  (f.vd.toNat < s.blk.held → Completes (.acczero f) s fun t => enters t s.blk (.acczero f.vd.toNat en) Advances) ∧
  (Completes (.osq f) s fun t => Results s t f.vd.toNat en fun _ => BitVec.ofNat 32 (s.slotWord n))

/-- R246, R256, R260-R264, R272-R276: ACCLD, ACCST, ACCMV, MMA, MMAG of a gang's leader, TTC, TTRUN and BDSET whose checks pass. ACCLD
marks its registers with the cells of each lane's row, ACCMV `.tr` writes its registers with pairs of cells as BF16 and `.rt` four cells
of each row from registers; the others enter the queue with their rows, and a group that issues TTRUN waits for it. -/
def Obligations.EngineWork : Prop := ∀ (f : Fields) (s : State) (c : Ctx), Plain s f c →
  (∀ r, (s.wp.rv r).shape = 0) → s.chainRunning = false → s.tilesPending = false →
  let en := s.en f
  let queued (t : State) (op : EngineOp) : Prop := t.wp.regs = s.wp.regs ∧ t.mem = s.mem ∧
    ∃ e, e.op = op ∧ e.blk = s.blk.id ∧ e.warp = s.wp.idx ∧ e ∈ t.blk.uncov ∧
      (s.blk.core < s.cores.length → e ∈ (t.core s.blk.core).queue)
  let goes (t : State) : Prop := ∀ l, l < 128 →
    t.wp.thread l = if Mask.has s.iss.lanes l then { s.wp.thread l with pc := s.nextPc } else s.wp.thread l
  (f.va.toNat < s.blk.held → (s.blk.tile f.va.toNat).poisoned = false → f.vd.toNat < 376 → s.writtenRows f.va.toNat &&& en = 0 →
    Completes (.accld f) s fun t => ∃ (u : State) (vals : List RegVal), vals.length = accCount (f.m 7 6) ∧
      (∀ i, i < vals.length → ∀ l, l < 128 → (vals.getD i (.u 0)).at l =
        (((s.blk.tile f.va.toNat).row l).getD (f.m 5 0 + i) 0)) ∧
      Marks { s with free := s.free + 8 } u f en false vals ∧ Advances u t) ∧
  (let base := if f.b 3 then s.uni f.vc.toNat else s.uniPair f.vc.toNat
   let stride := s.uniB f
   f.va.toNat < s.blk.held → base % 16 = 0 → stride % 16 = 0 →
   (∀ l, l < 128 → Mask.has en l = true → if f.b 3 then base + l * stride + accstBytes (f.m 7 5) ≤ s.blk.header.scratch
     else s.check c .store (base + l * stride) (accstBytes (f.m 7 5)) 1 = none) →
   Completes (.accst f) s fun t => queued t (.accst f.va.toNat en (f.b 3) base stride (f.m 7 5) (f.b 4)) ∧ goes t) ∧
  (f.m 7 6 = 0 → f.vd.toNat < s.blk.held → f.va.toNat < s.blk.held →
    Completes (.accmv f) s fun t => queued t (.accmvTT f.vd.toNat f.va.toNat en (if f.isF128 then f.e 5 0 else 0)
      (if f.isF128 then f.e 11 6 else 0) (if f.isF128 then f.e 18 12 else 64)) ∧ goes t) ∧
  (let d := f.vd.toNat
   let old (l : Nat) : List Word := (s.blk.tile d).row l
   f.m 7 6 = 1 → d < s.blk.held → d < s.blk.tiles.length → s.namedRows d &&& en = 0 → Tab.wf zeroRow (s.blk.tile d).cells = true →
   Completes (.accmv f) s fun t => t.wp.regs = s.wp.regs ∧ t.mem = s.mem ∧ goes t ∧
     (∀ l, l < 128 → (t.blk.tile d).row l = if Mask.has en l then (old l).take (f.m 5 0) ++
       ((List.range 4).map fun i => s.wp.val (f.va.toNat + i) l) ++ (old l).drop (f.m 5 0 + 4) else old l) ∧
     ∀ k, k ≠ d → t.blk.tile k = s.blk.tile k) ∧
  (let cell (l j : Nat) : Nat := bf16Half (((s.blk.tile f.va.toNat).row l).getD (f.m 5 0 + j) 0)
   2 ≤ f.m 7 6 → f.va.toNat < s.blk.held → (s.blk.tile f.va.toNat).poisoned = false → f.vd.toNat < 381 →
   s.writtenRows f.va.toNat &&& en = 0 → Completes (.accmv f) s fun t => ∃ u,
     PutsMany { s with free := s.free + 8 } u en ((List.range 4).map fun i =>
       (f.vd.toNat + i, fun l => BitVec.ofNat 32 (cell l (2 * i + 1) * 2 ^ 16 + cell l (2 * i)))) ∧ Advances u t) ∧
  ((f.e 63 63 = 1 → f.e 55 32 % 8 = 0 ∧ f.e 55 32 + 8 ≤ s.blk.header.scratch) →
    s.blk.mmaCheck f.vd.toNat f.va.toNat (slotB f) (f.m 2 0) (f.b 3) (f.b 4) = none →
    Completes (.mma f) s fun t => queued t (.mma f.vd.toNat f.va.toNat (slotB f) (f.m 2 0) (s.scalesOf f (f.b 3)) en
      (if f.e 63 63 = 1 then some (f.e 55 32) else none)) ∧ goes t) ∧
  (let off := s.uni f.vc.toNat
   2 ≤ s.blk.header.gang → s.blk.partner = 0 → off % 8 = 0 → off + 8 ≤ s.blk.header.scratch →
   s.blk.mmaCheck f.vd.toNat f.va.toNat (slotB f) (f.m 2 0) false (f.b 4) = none →
   Completes (.mmag f) s fun t => queued t (.mmag f.vd.toNat f.va.toNat (slotB f) (s.blk.slot (slotB f)).fmt (f.m 2 0)
     (s.scalesOf f false) en off s.blk.id 0 none) ∧ goes t) ∧
  (let bond : Bond := if f.isF128 then f.ext else s.blk.bonds.getD (bondB f) 0
   s.blk.stepCheck ⟨f.va.toNat, bond, if f.isF128 then 0x10 else bondB f, 0, none⟩ = none →
   Completes (.ttc f) s fun t => queued t (.ttc f.va.toNat bond s.blk.desc en) ∧ t.blk.desc = stepDesc s.blk.desc bond ∧
     goes t) ∧
  (let addr := if f.isF128 then f.e 56 0 else s.uniPair f.va.toNat
   addr % 16 = 0 → s.wp.progIdx.getLsbD 63 = false →
   Completes (.ttrun f) s fun t => queued t (.ttrun addr (s.uniB f % 2 ^ 16) 0 en none) ∧
     ∀ l, l < 128 → t.wp.thread l = if Mask.has s.iss.lanes l then { s.wp.thread l with status := .waiting (.chain s.iss.len) }
       else s.wp.thread l) ∧
  (let x := BitVec.ofNat 64 (s.uniPair f.va.toNat)
   Completes (.bdset f) s fun t => queued t (.bdset (if f.b 4 then none else some (f.m 3 0)) x) ∧ goes t ∧
     (if f.b 4 then t.blk.desc = x ∧ t.blk.bonds = s.blk.bonds
      else t.blk.bonds = s.blk.bonds.set (f.m 3 0) x ∧ t.blk.desc = s.blk.desc))

/-- R247, R249, R273 and R278: after MRFENCE the engine reads of what the block issues see every store made before it; MWAIT goes on
when at most N queued instructions of the warp are outstanding and none has a deferred failure, and covers those it waited for, all that
the warp queued but the last N; BDGET reads a bond or the descriptor; TTQ marks its register with the number asked for. -/
def Obligations.EngineQueries : Prop := ∀ (f : Fields) (s : State) (c : Ctx), Plain s f c →
  let d := f.vd.toNat
  Completes (.mrfence f) s (fun t => ∃ u : State, u = { s with blk := { s.blk with fenced := s.turn } } ∧ Advances u t) ∧
  ((s.outstanding s.blk.id s.wp.idx).length ≤ f.m 5 0 → s.blk.deferred = [] →
    Completes (.mwait f) s fun t => ∃ u : State,
      u = { s with blk := { s.blk with uncov := u.blk.uncov, past := u.blk.past } } ∧
      (∀ e, e ∈ u.blk.uncov ↔ e ∈ s.blk.uncov ∧ (e.warp = s.wp.idx → e.id ∈ s.blk.waitedFor s.wp.idx (f.m 5 0) →
        e.id ∈ s.outstanding s.blk.id s.wp.idx)) ∧ Advances u t) ∧
  Completes (.bdget f) s (fun t => Results64 s t d (s.en f) fun _ => if f.b 4 then s.blk.desc else s.blk.bonds.getD (f.m 3 0) 0) ∧
  (let n := if f.m 1 0 = 0 then (if descWf s.blk.desc then descLen s.blk.desc else 0)
     else if f.m 1 0 = 1 then s.blk.chainNeed (s.blk.bonds.getD (bondB f) 0) else s.chainBusy
   Completes (.ttq f) s fun t => ∃ u, Marks s u f (s.en f) false [.u (BitVec.ofNat 32 n)] ∧ Advances u t)

/-! ## Dictionaries -/

/-- R83, R89-R91: DSWITCH selects a dictionary and makes every thread of the block stale; DSYNC clears the stale bits of its enabled
threads; DREAD writes the six words of an entry. -/
def Obligations.DictionaryState : Prop := ∀ (f : Fields) (s : State), s.en f ≠ 0 →
  Completes (.dswitch f) s (fun t => t.blk.active = f.m 1 0 ∧ t.wp.rvalid = false ∧ t.wp.regs = s.wp.regs ∧ t.mem = s.mem ∧
    (∀ w ∈ t.blkNow.warps, ∀ l, l < 128 → (w.thread l).stale = true) ∧
    ∀ l, l < 128 → t.wp.thread l = if Mask.has s.iss.lanes l then { s.wp.thread l with pc := s.nextPc, stale := true }
      else { s.wp.thread l with stale := true }) ∧
  Completes (.dsync f) s (fun t => (∀ l, l < 128 → t.wp.thread l =
      if Mask.has (s.en f) l then { s.wp.thread l with stale := false, pc := (t.wp.thread l).pc } else
        { s.wp.thread l with pc := (t.wp.thread l).pc }) ∧
    (∀ l, l < 128 → (t.wp.thread l).pc = if Mask.has s.iss.lanes l then s.nextPc else (s.wp.thread l).pc) ∧
    t = { s with wp := { s.wp with threads := t.wp.threads } }) ∧
  (let entry (l : Nat) : Nat := (Tab.get 0 (s.dict (if f.b 2 then s.blk.active else f.m 1 0)) ((s.opA f l).toNat % 256)).toNat
   s.dictPoisoned (if f.b 2 then s.blk.active else f.m 1 0) = false → Completes (.dread f) s fun t => ∃ u, PutsMany s u (s.en f) ((List.range 6).map fun i =>
     (f.vd.toNat + i, fun l => BitVec.ofNat 32 (entry l / 2 ^ (32 * i)))) ∧ Advances u t)

/-- R82, R87, R88 and R92: DLOAD of a sound image and DPATCH of a well-formed entry, for a dictionary whose larder slot only this block
holds, change the slot's entries, make every thread of the block stale and answer 0; of an image or entry that is not, they change no entry
and answer the status word. DPATCH takes its entry from six registers, or in F128 from memory. A page the core's TLB does not hold is walked
for (R212), which is the model's choice (log 41). -/
def Obligations.DictionaryChanges : Prop := ∀ (f : Fields) (s : State) (c : Ctx) (k : Nat) (x : LarderSlot), Plain s f c →
  (∀ r, (s.wp.rv r).shape = 0) → s.blk.binds.getD (f.m 1 0) none = some k → s.larderSlot s.blk.core k = some x → x.count = 1 →
  s.blk.core < s.cores.length → f.vd.toNat < 384 →
  let changed (t : State) (d : Dict) (poisoned : Bool) : Prop :=
    t.larderSlot s.blk.core k = some { x with modified := true, entries := d, poisoned := poisoned } ∧
    (∀ l, l < 128 → Mask.has (s.en f) l = true → Mask.has s.wp.live l = true → t.wp.val f.vd.toNat l = 0) ∧
    (∀ w ∈ t.blkNow.warps, ∀ l, l < 128 → (w.thread l).stale = true) ∧
    ∀ l, l < 128 → t.wp.thread l = if Mask.has s.iss.lanes l then { s.wp.thread l with pc := s.nextPc, stale := true }
      else { s.wp.thread l with stale := true }
  let refused (t : State) (entry sub : Nat) : Prop := ∃ u : State,
    u = { s with caches := u.caches, agenda := u.agenda, wp := { s.wp with rvalid := false } } ∧
    Results u t f.vd.toNat (s.en f) fun _ => dictStatus entry sub
  let readable (n need : Nat) (a : Nat) : Prop := ∀ l, l < 128 → Mask.has (s.en f) l = true →
    s.laneCause c ⟨fun _ => a, n, need, true, false, true⟩ l = .fine
  let i := s.uni f.va.toNat % 256
  let patches (e : BitVec 192) : Prop :=
    ((entryValid e = true → entryFault e = none) → Completes (.dpatch f) s fun t => changed t (Tab.set 0 x.entries i e) x.poisoned) ∧
    (∀ sub, entryValid e = true → entryFault e = some sub → Completes (.dpatch f) s fun t => refused t i sub)
  (readable 6208 64 (s.imageAddr f) →
    (∀ d, imageCheck (s.loadVa c (s.imageAddr f) 6208) = .ok d → Completes (.dload f) s fun t => changed t d false) ∧
    (∀ entry sub, imageCheck (s.loadVa c (s.imageAddr f) 6208) = .error (entry, sub) →
      Completes (.dload f) s fun t => refused t entry sub)) ∧
  (f.isF128 = true → readable 24 8 (f.e 56 0) → patches (BitVec.ofNat 192 (ofBytes (s.loadVa c (f.e 56 0) 24)))) ∧
  (let e : BitVec 192 := s.wp.val (f.vb.toNat + 5) 0 ++ (s.wp.val (f.vb.toNat + 4) 0 ++ (s.wp.val (f.vb.toNat + 3) 0 ++
     (s.wp.val (f.vb.toNat + 2) 0 ++ (s.wp.val (f.vb.toNat + 1) 0 ++ s.wp.val f.vb.toNat 0))))
   f.isF128 = false → patches e)

/-! ## The system instructions -/

/-- R188, R320, R321 and R325: CSRR reads a control register into a pair, CSRW writes one, SYSQ marks its register with a word of the
feature record. TRAPBASE and PROGIDX keep their RO fields at 0, FPSTAT is cleared where ones are written, the trap record changes only
while the warp has a handler thread, and REGIONCNT is read-only. SRSEED, CTXCFG and the breakpoint registers of the context take their
writable fields; no other context and no other register changes. -/
def Obligations.ControlRegisters : Prop := ∀ (f : Fields) (s : State) (c : Ctx), Plain s f c →
  (∀ r, (s.wp.rv r).shape = 0) → s.wp.pending = [] →
  let n := s.uniB f
  let x : DWord := s.pairA f 0
  let w := s.wp
  let writes (k : Nat) (v : Warp) : Prop := n = k → Completes (.csrw f) s (Advances { s with wp := { v with rvalid := false } })
  let shares (k : Nat) (P : Ctx → Ctx) : Prop := n = k → Completes (.csrw f) s fun t => ∃ u : State,
    u = { s with wp := { s.wp with rvalid := false }, ctxs := u.ctxs } ∧
    (∃ log, u.ctx? s.blk.ctx = some { P c with csrLog := log }) ∧
    (∀ j, j ≠ s.blk.ctx → u.ctx? j = s.ctx? j) ∧ Advances u t
  shares 0x011 (fun c => { c with srseed := x.setWidth 32 }) ∧
  shares 0x012 (fun c => { c with ctxcfg := x &&& 3 }) ∧
  (∀ j, j < 8 → shares (0x018 + j) fun c => { c with bpa := c.bpa.set j (x &&& 0xE1FFFFFFFFFFFFFF) }) ∧
  (csrKnown n = true → Completes (.csrr f) s fun t => Results64 s t f.vd.toNat (s.en f) fun _ => s.csr n) ∧
  writes 0x007 { w with trapBase := x &&& 0x01FFFFFFFFFFFFFD } ∧
  writes 0x008 { w with progIdx := x &&& 0x8000FFFF00000003 } ∧
  writes 0x010 { w with fpstat := w.fpstat &&& ~~~(x.setWidth 7) } ∧
  writes 0x001 { w with trap := if w.handlers = 0 then w.trap else { w.trap with pc := x.setWidth 57 } } ∧
  writes 0x00A w ∧
  Completes (.sysq f) s (fun t => ∃ u, Marks s u f (s.en f) true [.u (BitVec.ofNat 32 (c.feat.word n))] ∧ Advances u t)

/-- R322 and R350: REGION with every live thread enabled makes its own PC the restart point, counts it, makes it valid and takes the
snapshot; PCMP in a block that is no copy of a pair does nothing. -/
def Obligations.RegionAndCompare : Prop := ∀ (f : Fields) (s : State) (c : Ctx), Plain s f c →
  Completes (.pcmp f) s (Advances s) ∧
  (s.wp.live &&& ~~~(s.en f) = 0 → s.wp.restarted = false → Completes (.region f) s fun t => ∃ u : State,
    u = { s with blk := s.blk.setUsed s.wp.idx 0, wp := { s.wp with
      regionPc := s.iss.pc, regionCnt := s.wp.regionCnt + 1, rvalid := true, snapshot := u.wp.snapshot
      trace := RegionTrace.empty } } ∧
    u.wp.snapshot.isSome = true ∧ Advances u t) ∧
  (s.wp.live &&& ~~~(s.en f) ≠ 0 → Completes (.region f) s fun t => ∃ u : State,
    u = { s with wp := { s.wp with rvalid := false, restarted := false } } ∧ Advances u t)

/-! ## Collectives and children -/

/-- R376-R379: COLL with aligned operands and any barrier in range takes the lowest handle that is free or complete and goes on with it: of
a group that is not created the handle completes at once with code 6, and VD is not written; else VD takes the handle, which holds
NEXTSEQ, and NEXTSEQ rises by 1 in the group and in its membership table. No spare waits to be admitted. Operands that are no multiples of 256 trap with MISALIGN. COLLQ marks its registers with a handle's status word and
SEQ. -/
def Obligations.Collectives : Prop := ∀ (f : Fields) (s : State) (c : Ctx), Plain s f c → (∀ r, (s.wp.rv r).shape = 0) →
  let a := s.collArgs f
  let en := s.en f
  let d := f.vd.toNat
  let s0 := s.setNonIdem.spoilRegion
  let marks (lo hi : Word) : Prop :=
    Completes (.collq f) s fun t => ∃ u, Marks s u f en true [.u lo, .u hi] ∧ Advances u t
  (∀ k, (∀ off, a.bar = some off → off % 8 = 0 ∧ off + 8 ≤ s.blk.header.scratch ∧ s.blk.pbwaits = []) →
    s.block? s.blk.id = some s.blkNow → a.dst % 256 = 0 → a.src % 256 = 0 → a.len % 256 = 0 → s.blk.takeColl = some k →
    (c.group? a.group = none → Completes (.coll f) s fun t =>
      let x : CollHandle := ⟨a.group, 0, some 6, s.wp.idx, s.iss.named⟩
      Advances { s0 with blk := { s0.blk with colls := s0.blk.colls.set k (some x) } } t) ∧
    (∀ g, c.group? a.group = some g → g.spares = [] → s.check c .load a.src a.len 1 = none →
      s.check c .store a.dst (if a.kind = 2 then g.nmem * a.len else a.len) 1 = none →
      Completes (.coll f) s fun t =>
        t.blk.colls = s.blk.colls.set k (some ⟨g.index, g.nextSeq, none, s.wp.idx, s.iss.named⟩) ∧
        (∃ x y, t.ctx? c.id = some x ∧ x.group? g.index = some y ∧ y.nextSeq = g.nextSeq + 1) ∧
        (d ≠ 511 → ∀ l, l < 128 → Mask.has s.wp.live l = true →
          t.wp.val d l = if Mask.has en l then BitVec.ofNat 32 k else s.wp.val d l) ∧
        (∀ r, r ≠ d → t.wp.rv r = s.wp.rv r) ∧
        (s.MemInv → s.spareRow d → ∀ pa, (∀ p ∈ s.segs c (g.table + 0x10) 8, pa < p.1 ∨ p.1 + p.2 ≤ pa) → t.readPa pa = s.readPa pa) ∧
        ∀ l, l < 128 → t.wp.thread l = if Mask.has s.iss.lanes l then { s.wp.thread l with pc := s.nextPc } else s.wp.thread l)) ∧
  (CanEnter s → a.dst % 256 ≠ 0 ∨ a.src % 256 ≠ 0 ∨ a.len % 256 ≠ 0 → Completes (.coll f) s fun t =>
    Enters s.setNonIdem t 0x08 (BitVec.ofNat 64 ((if a.dst % 256 ≠ 0 then a.dst else if a.src % 256 ≠ 0 then a.src else a.len) % 2 ^ 57))
      en s.iss.pc) ∧
  (∀ x, s.uniB f < 4 → s.blk.colls.getD (s.uniB f) none = some x → marks (x.status.getD 2) (BitVec.ofNat 32 x.seq)) ∧
  (s.uniB f < 4 → s.blk.colls.getD (s.uniB f) none = none → marks 3 0) ∧ (4 ≤ s.uniB f → marks 3 0)

/-- R171-R174: LAUNCH whose records pass their checks, read after a release at `.pod`, writes each thread's status. A first child that is not taken has 2 when the node
table is full, else 1 for a record that is not good, else 4 for a judged retained copy with the attic full, and the others have 3; with
no status register the threads trap with LAUNCH_FAIL behind the instruction. A first child that is taken has 0, and is taken as a record of
a queue is; without `.once` the others follow in thread order. A page the core's TLB does not hold is walked for (R212), which is the model's
choice (log 41). -/
def Obligations.LaunchTakesChildren : Prop := ∀ (f : Fields) (s : State) (c : Ctx), Plain s f c →
  (∀ l, l < 128 → Mask.has (s.en f) l = true →
    s.laneCause c ⟨s.launchAddr f, 128, 128, true, false, true⟩ l = .fine) →
  let en := s.en f
  let low := Mask.low en
  let r := s.release s.blk.core 4
  let base (ag : List Instr) : State := { r with agenda := ag }
  let bs := r.loadVa c (s.launchAddr f low) 128
  let wd := ((s.node? c.id s.blk.node).map fun (n : Node) => n.wdcfg).getD 0
  let refused : Option Nat := if c.tableFull then some 2 else if recordGood bs 0 = false then some 1
    else if c.judgedRetained (Record.of bs) && c.atticFull then some 4 else none
  let all (ag : List Instr) := (base ag).takeChildren false ((Mask.lanes en).map fun l => r.loadVa c (s.launchAddr f l) 128)
  (∀ k, refused = some k → f.vd.toNat ≠ 511 → Completes (.launch f) s fun t => ∃ ag,
    Results (base ag) t f.vd.toNat en fun l => if f.b 0 = true ∨ l = low then BitVec.ofNat 32 k else 3) ∧
  (∀ k, refused = some k → f.vd.toNat = 511 → CanEnter s → Completes (.launch f) s fun t => ∃ ag,
    Enters (base ag) t 0x19 (BitVec.ofNat 64 (k * 2 ^ 16)) en s.nextPc) ∧
  (refused = none → f.b 0 = true → Completes (.launch f) s fun t => ∃ (ag : List Instr) (u : State),
    u = ((base ag).takeRecord c.id bs none wd (dieOf s.blk.core)).setNonIdem.spoilRegion ∧ Results u t f.vd.toNat en fun _ => 0) ∧
  (refused = none → f.b 0 = false → f.vd.toNat ≠ 511 → Completes (.launch f) s fun t => ∃ (ag : List Instr) (u : State),
    u = (all ag).1.setNonIdem.spoilRegion ∧
    Results u t f.vd.toNat en fun l => BitVec.ofNat 32 ((all ag).2.getD ((Mask.lanes en).idxOf l) 0))

/-! ## Short forms -/

/-- R72, R76, R80 and R83: a short form whose threads are not stale, and whose entry of the active dictionary is valid and expands,
does what the instruction of its expansion does. A stale thread traps with DX_STALE and an entry that is not valid with DX_INVALID;
TRAPADDR holds the short form and the dictionary. -/
def Obligations.ShortForms : Prop := ∀ (h : BitVec 22) (e : BitVec 8) (s : State),
  let d := dxWord h e
  let stale : Prop := ∃ l, l < 128 ∧ Mask.has s.iss.lanes l = true ∧ (s.wp.thread l).stale = true
  let entry := Tab.get 0 (s.dict s.blk.active) e.toNat
  let s1 : State := { s with iss := { s.iss with d32 := some d, word := d.setWidth 128, exp := false } }
  let detail : DWord := BitVec.ofNat 64 (s.blk.active % 4 * 2 ^ 38 + 2 ^ 36 + d.toNat)
  (∀ x j n, ¬ stale → s.dictPoisoned s.blk.active = false → entryValid entry = true → expandEntry entry h = some x → decodeF x = .ok j n →
    ∃ t, exec (.dx h e) s = .next t ∧
      exec j { s with iss := { s.iss with d32 := some d, word := x, exp := true, named := touchesOf j } } = .next t) ∧
  (CanEnter s → stale → Completes (.dx h e) s fun t => Enters s1 t 0x03 detail s.iss.lanes s.iss.pc) ∧
  (CanEnter s → ¬ stale → s.dictPoisoned s.blk.active = false → entryValid entry = false →
    Completes (.dx h e) s fun t => Enters s1 t 0x02 detail s.iss.lanes s.iss.pc)

/-! ## Device events: power, ports -/

/-- R217, R351, R381, R382, R383, R385, R387 and R388: the events of the throttle steps make a change due, of a die or of every die at once,
a rise where a rise and a fall are; what is due takes place at the next window boundary that time passes, and HEALTH follows; the thermal trip,
power-gating of an empty core, device reset whose bring-up succeeds, which keeps what is fused, leaves VIGILCFG in its ranges and writes HEALTH
where its STATE is not 0, or whose ROM fails, and the planting of faults in a context that has TEST. That the interval of the power step is die 0's (log 146),
that reset empties the key slots (log 7) and what VIGILCFG holds after it (log 145) are the model's choices. -/
def Obligations.PowerEvents : Prop := ∀ (s : State) (d : Nat),
  let die := s.die d
  let due (t : State) (g : Nat → Die) : Prop := (∀ j, j < s.dies.length → t.die j = g j) ∧ t = { s with dies := t.dies }
  let moves (x : Nat) (d : Option Bool) : Nat := match d with | none => x | some true => min (x + 1) 7 | some false => x - 1
  let one (x : Die) (j : Nat) : Die := if j = d then x else s.die j
  let vigilLegal (v : Nat) : Prop := v < 2 ^ 32 ∧ 1 ≤ v / 2 ^ 20 ∧ v / 2 ^ 20 ≤ 100 ∧ 15 ≤ v / 2 ^ 8 % 2 ^ 12 ∧ v / 2 ^ 8 % 2 ^ 12 ≤ 100 ∧
    1 ≤ v / 2 ^ 4 % 2 ^ 4 ∧ v / 2 ^ 4 % 2 ^ 4 ≤ 2
  Completes (.thermalStepRise d) s (fun t => due t (one { die with
    thermalDue := if die.thermal < 7 then some true else die.thermalDue })) ∧
  Completes (.thermalStepFall d) s (fun t => due t (one { die with
    thermalDue := if 0 < die.thermal ∧ die.thermalAt + 2250000 ≤ die.clk ∧ die.thermalDue ≠ some true then some false
      else die.thermalDue })) ∧
  (let z := s.die 0
   Completes .powerStepRise s (fun t => due t fun j => { s.die j with
     powerDue := if z.power < 7 ∧ z.powerAt + 225000 ≤ z.clk then some true else (s.die j).powerDue }) ∧
   Completes .powerStepFall s (fun t => due t fun j => { s.die j with
     powerDue := if 0 < z.power ∧ z.powerAt + 2250000 ≤ z.clk ∧ (s.die j).powerDue ≠ some true then some false
       else (s.die j).powerDue })) ∧
  (∀ e : Nat → Nat,
    let t := s.passTime e
    let x := die
    let bound := (x.clk / 8 + 1) * 8
    (d < s.dies.length → t.die d = if x.clk + e d < bound then { x with clk := x.clk + e d } else { x with
      clk := x.clk + e d
      thermal := moves x.thermal x.thermalDue, thermalAt := if x.thermalDue.isSome then bound else x.thermalAt, thermalDue := none
      power := moves x.power x.powerDue, powerAt := if x.powerDue.isSome then bound else x.powerAt, powerDue := none }) ∧
    (t.dies.map Die.step ≠ s.dies.map Die.step → ∃ st, s.healthState ≤ st ∧ st < 4 ∧ t.health = t.healthWord st) ∧
    t = { s.withMemory t with dies := t.dies, health := t.health }) ∧
  Completes (.thermalTrip d) s (fun t => (∀ x ∈ t.dies, x.powered = false) ∧ t.health % 4 = 3) ∧
  (∀ k, k < s.cores.length → Completes (.powerGating k false) s (fun t =>
      t.core k = { s.core k with gated := false } ∧ (∀ j, j ≠ k → t.core j = s.core j) ∧ t = { s with cores := t.cores }) ∧
    ((∀ b ∈ s.blocksNow, b.core ≠ k) → Completes (.powerGating k true) s fun t =>
      (t.core k).gated = true ∧ (t.core k).tlb = [] ∧ t.mem = s.mem)) ∧
  (∀ b : BringUp,
    (b.romOk = true → (mappedOut s.fusedChannels b.badChannels).length ≤ 8 → (∃ i, i < 18 ∧ b.badPorts.contains i = false) →
      b.firmwareKey = some s.firmwareKey → Completes (.deviceReset b) s fun t => t.boot = 6 ∧ t.ctxs = [] ∧ t.blocks = [] ∧ t.caches = [] ∧ (b.badCores = [] → t.banks = []) ∧
        t.keys = [] ∧ vigilLegal t.vigilcfg.toNat ∧ t.stepping = s.stepping ∧ t.node = b.node % 2048 ∧
        t.badChannels = mappedOut s.fusedChannels b.badChannels ∧ t.fusedChannels = s.fusedChannels ∧ t.spareMap = s.spareMap ∧
        t.firmwareKey = s.firmwareKey ∧ (∀ j, j < 3 → (t.die j).clk = 0) ∧
        ∃ m, t.mgmt = [m] ∧ m.q = .device ∧ (s.MemInv → t.health % 4 ≠ 0 → t.readNum (m.watch + 0x10) 8 = t.health)) ∧
    (b.romOk = false → Completes (.deviceReset b) s fun t => t.boot = 0 ∧ t.health % 4 = 3)) ∧
  (∀ (ctx n x p : Nat) (c : Ctx), s.ctx? ctx = some c → c.test = true → n < 4096 → x < 512 → p < 4 →
    let plants (i : Instr) (kind x p : Nat) : Prop := Completes i s fun t => ∃ y, t.ctx? ctx = some y ∧ y.errCount = 0 ∧
      y.errinj.getLsbD 63 = true ∧ y.errinj.toNat / 2 ^ 60 % 8 = kind ∧ y.errinj.toNat / 2 ^ 48 % 4096 = n ∧
      y.errinj.toNat / 2 ^ 32 % 512 = x ∧ y.errinj.toNat / 2 ^ 30 % 4 = p ∧
      (∀ b ∈ t.blocks, b.ctx = ctx → b.inject = false) ∧ t.mem = s.mem
    plants (.errinjSlotUe ctx n x p) 1 x p ∧ plants (.errinjMemUe ctx n) 2 0 0 ∧ plants (.errinjPairFlip ctx n) 3 0 0 ∧
    plants (.errinjRowSoft ctx n x) 4 x 0 ∧ plants (.errinjCeLog ctx n) 5 0 0)

/-- R360-R367 and R381: the events of the ports. A port takes the next flit: an idle, header or data flit is acknowledged, a header
begins a packet and a data flit joins it, an acknowledgement clears the replay buffer up to its flit, and a negative one replays and is
logged. It rejects any other; it retrains to 16 or 8 lanes or goes down; it sends an idle flit, or goes down when it has heard nothing; it
takes a new key. A node that does not answer is lost; a block whose store was lost records it. Another node's access inside its grant is
performed and answered, one outside it freezes the node; a frozen node is answered with an error, and every node with NODE_LOST while the
device comes up. A write or an atomic that does what software must not (R9) is not among those whose bytes are stated. What an
acknowledgement covers and the types it rejects (log 51), the lanes of a port that is down (log 52), and the content of flits (log 53) are the
model's choices. -/
def Obligations.PortEvents : Prop := ∀ (s : State) (k : Nat), k < s.ports.length →
  let p := s.port k
  let only (t : State) : Prop := t = { s with ports := t.ports } ∧ ∀ j, j ≠ k → t.port j = s.port j
  (∀ fl : BitVec 256, p.up = true →
    let seq := Config.ackSeq (flitPayload fl)
    let heard : Port := { p with seqIn := (p.seqIn + 1) % 4096, waiting := false, lastHeard := s.now }
    let sends (x : Port) (ty : BitVec 4) (payload : BitVec 224) : Port :=
      { x with replay := x.replay ++ [flitOf (BitVec.ofNat 12 x.seqOut) ty payload], seqOut := (x.seqOut + 1) % 4096, lastSent := s.now }
    let acks (x : Port) : Port := sends x 3 (Config.ackPayload (flitSeq fl))
    let left := flitsAfter seq p.replay
    let acked : Port := { heard with replay := left, replays := if left.length = p.replay.length then p.replays else 0 }
    (p.accepts fl = true → p.outbox = [] → p.replay.length < 512 →
      (flitType fl = 0 → Completes (.flitReceive k fl) s fun t => only t ∧ t.port k = acks acked) ∧
      (flitType fl = 1 → Completes (.flitReceive k fl) s fun t => only t ∧
        t.port k = acks { heard with received := p.received ++ [[fl]] }) ∧
      (∀ ps x, flitType fl = 2 → p.received = ps ++ [x] → Completes (.flitReceive k fl) s fun t => only t ∧
        t.port k = acks { heard with received := ps ++ [x ++ [fl]] }) ∧
      (flitType fl = 3 → Completes (.flitReceive k fl) s fun t => only t ∧ t.port k = acked)) ∧
    (p.accepts fl = true → flitType fl = 4 → (∀ b ∈ s.banks, ¬ (b.kind = 6 ∧ b.index = k)) →
      Completes (.flitReceive k fl) s fun t => (∀ j, j ≠ k → t.port j = s.port j) ∧
        (t.port k).replay = flitsFrom seq p.replay ∧ (t.port k).seqIn = (p.seqIn + 1) % 4096 ∧ (t.port k).lastSent = s.now ∧
        (∃ b, t.banks = s.banks ++ [b] ∧ b.kind = 6 ∧ b.index = k ∧ b.status.toNat / 2 ^ 62 = 1 ∧ b.status.toNat / 2 ^ 32 % 256 = 9) ∧
        t = { s with ports := t.ports, banks := t.banks }) ∧
    (p.accepts fl = false → p.waiting = false ∨ flitBad fl = true → p.replay.length < 512 →
      Completes (.flitReceive k fl) s fun t => only t ∧
        t.port k = sends { p with waiting := true, lastHeard := s.now } 4 (Config.ackPayload (BitVec.ofNat 12 p.seqIn)))) ∧
  (∀ bad : BitVec 16, p.up = true → 16 ≤ p.replays →
    (bad = 0 → Completes (.linkRetrain k bad) s fun t => only t ∧ t.port k = { p with replays := 0, lanes := 16 }) ∧
    (bad ≠ 0 → bad % 256 = 0 ∨ bad / 256 = 0 → Completes (.linkRetrain k bad) s fun t =>
      t.port k = { p with replays := 0, lanes := 8 }) ∧
    (bad % 256 ≠ 0 → bad / 256 ≠ 0 → Completes (.linkRetrain k bad) s fun t =>
      t.port k = { p with up := false, lanes := 0 })) ∧
  (p.up = true → p.lastSent + 2250 ≤ s.now → p.replay.length < 512 → Completes (.idleFlit k) s fun t => only t ∧
    t.port k = { p with
      replay := p.replay ++ [flitOf (BitVec.ofNat 12 p.seqOut) 0 (Config.ackPayload (BitVec.ofNat 12 (p.seqIn + 4095)))]
      seqOut := (p.seqOut + 1) % 4096, lastSent := s.now }) ∧
  (p.up = true → p.lastHeard + 8 * 2250 ≤ s.now → Completes (.linkTimeout k) s fun t =>
    t.port k = { p with up := false, lanes := 0 }) ∧
  Completes (.portKeyRotation k) s (fun t => only t ∧ t.port k = { p with keyGen := p.keyGen + 1, txCount := 0 }) ∧
  (∀ n, n ≠ s.node → Completes (.switchTimeout n) s fun t => n ∈ t.lostNodes) ∧
  (∀ blk warp addr b, s.block? blk = some b → b.lost = none → Completes (.nodeLost blk warp addr) s fun t =>
    (t.block? blk).map Block.lost = some (some (warp, addr)) ∧ t.mem = s.mem) ∧
  (∀ r : FabricReq, s.MemInv → r.port = k → p.up = true → (∀ b, r.op ≠ .answer b) →
    let pa := s.node * 2 ^ 40 + r.addr % 2 ^ 40
    (s.boot < 6 → Completes (.fabricRequest r) s fun t => t = s.answer r .lost [] ∧ only t) ∧
    (6 ≤ s.boot → r.src ∈ s.frozenNodes → Completes (.fabricRequest r) s fun t => t = s.answer r .error [] ∧ only t) ∧
    (6 ≤ s.boot → r.src ∉ s.frozenNodes → (∀ m ∈ s.mgmt, m.holds pa (writesOfOp r.op) = false) →
      (r.granted = false → Completes (.fabricRequest r) s fun t => ∃ u : State, t = u.answer r .error [] ∧ r.src ∈ u.frozenNodes ∧
        u.blocks = s.blocks) ∧
      (∀ n, r.granted = true → r.op = .read n → Completes (.fabricRequest r) s fun t => only t) ∧
      (∀ bs tag, r.granted = true → r.op = .write (.plain bs tag 0) → p.inside = true →
        s.offendsPa pa bs.length (fun i => bs.getD i 0) = false → Completes (.fabricRequest r) s fun t =>
          (∀ a, t.readPa a = if pa ≤ a ∧ a < pa + bs.length then bs.getD (a - pa) 0 else s.readPa a) ∧ t.blocks = s.blocks ∧
          ∀ j, j ≠ k → t.port j = s.port j) ∧
      (∀ op x, r.granted = true → r.op = .atomic op x → let n := atomBytes (op % 16)
        let new := bytesOf (atomNew (op % 16) (s.readNum pa n) (x.toNat % 2 ^ (8 * n))) n
        s.offendsPa pa n (fun i => new.getD i 0) = false → Completes (.fabricRequest r) s fun t =>
          t.readNum pa n = atomNew (op % 16) (s.readNum pa n) (x.toNat % 2 ^ (8 * n)) % 2 ^ (8 * n) ∧
          (∀ a, a < pa ∨ pa + n ≤ a → t.readPa a = s.readPa a) ∧ t.blocks = s.blocks)))

/-! ## Device events: scheduling, launches, blocks -/

/-- R126, R127, R289, R326-R328: the exchange of active-set positions, the reads and timeouts of EVWAIT, the watchdog, and
pre-emption. Which group a pending set gives (log 29), and that an EVWAIT goes on once the words of all its lanes differ (log 22), are the
model's choices. -/
def Obligations.SchedulingEvents : Prop := ∀ (s : State),
  (∀ k pipe pos p t0, (s.core k).actives.find? (fun p => p.pipe = pipe && p.pos = pos) = some p → p.held = some t0 →
    t0 + 64 ≤ s.clk k → (s.pendingGroup k pipe).isSome = true → Completes (.holdTimeout k pipe pos) s fun t =>
      t = { s with agenda := s.agenda ++ [.activeSetExchange k pipe pos] }) ∧
  (∀ k pipe pos g, k < s.cores.length → s.pendingGroup k pipe = some g → Completes (.activeSetExchange k pipe pos) s fun t =>
    (t.core k).actives = ((s.core k).actives.map fun p =>
      if p.pipe = pipe ∧ p.pos = pos then ⟨pipe, pos, g.blk, g.warp, Mask.low g.mask, none⟩ else p) ∧
    t = { s with cores := t.cores }) ∧
  (∀ blk warp b c e, s.blk.id ≠ blk → s.block? blk = some b → s.ctx? b.ctx = some c → b.evwaits = [e] → e.warp = warp →
    let word := s.evRead c e
    let sound : Prop := ∀ l, l < 128 → Mask.has e.left l = true →
      s.check c .load (e.addr.at l).toNat 4 4 = none ∧ s.consumed c (e.addr.at l).toNat 4 = none
    (sound → (∃ l, l < 128 ∧ Mask.has e.left l = true ∧ word l = Lanes.at e.cmp l) →
      Completes (.evwaitReread blk warp) s fun t =>
        (t.block? blk).map Block.evwaits = some [e.see word false (s.clk b.core)] ∧ t.mem = s.mem ∧ t.wp = s.wp) ∧
    (sound → (∀ l, l < 128 → Mask.has e.left l = true → word l ≠ Lanes.at e.cmp l) →
      Completes (.evwaitReread blk warp) s fun t => (t.block? blk).map Block.evwaits = some []) ∧
    (e.limit ≠ 0 → e.start + e.limit ≤ s.clk b.core →
      Completes (.evwaitTimeout blk warp) s fun t => (t.block? blk).map Block.evwaits = some [])) ∧
  (∀ ctx node c n, s.ctx? ctx = some c → s.node? ctx node = some n →
    (c.state = .running → n.state = .running → n.wdExpired = none → n.progress + n.wdcfg.toNat % 2 ^ 16 * 2250000 ≤ s.now →
      s.hasBlocks ctx node = true → Completes (.watchdogExpiry ctx node) s fun t =>
        t.node? ctx node = some { n with wdExpired := some s.now } ∧
        t.agenda = s.agenda ++ ((s.blocksNow.filter fun b => b.ctx = ctx && b.node = node).map fun b => .preemption b.id) ∧
        t = { s with ctxs := t.ctxs, agenda := t.agenda }) ∧
    (∀ t0, n.wdExpired = some t0 → n.state = .running → t0 + n.wdcfg.toNat / 2 ^ 16 % 2 ^ 16 * 2250000 ≤ s.now →
      Completes (.watchdogGraceExpiry ctx node) s fun t => (t.ctx? ctx).map Ctx.state = some .killed)) ∧
  (∀ blk b n u, s.block? blk = some b → s.node? b.ctx b.node = some n →
    n.wdExpired.isSome = true ∨ (b.header.flags.testBit 3 = true ∧ b.state = .running) →
    s.preemptUnit b n.wdExpired.isSome = some u →
    Completes (.preemption blk) s fun t => t = u.trySuspend b.ctx b.node)

/-- R29, R33, R38-R41, R57 and R58: TAIL is read again and the record at HEAD taken; a delivery counts a waiting node down; a node
ages and starves; a placement is made for a node that is offered. That a record which cannot be read is taken as one without bytes (log 75), that a
delivery is an event of its own (log 78), and after which node of its priority one is tried (log 81), are the model's choices. -/
def Obligations.GraphEvents : Prop := ∀ (s : State) (ctx : Nat) (c : Ctx), s.ctx? ctx = some c →
  (∀ q x, c.queue? q = some x → c.state = .running →
    let tail := ofBytes (s.loadVa c x.watch 4)
    let va := x.base + x.head % 2 ^ x.log2 * 128
    let bs := if s.canRead c va 128 then s.loadVa c va 128 else []
    let head := (x.head + 1) % 2 ^ 32
    let s1 := (s.modQueue ctx q fun x => { x with head := head }).storeNum c (x.watch + 8) head 4
    let s2 : State := if head = x.tail then s1 else { s1 with agenda := s1.agenda ++ [.recordTake ctx q] }
    (tail ≠ x.tail → (tail + 2 ^ 32 - x.head) % 2 ^ 32 ≤ 2 ^ x.log2 → Completes (.tailReread (.launch ctx q)) s fun t =>
      ((t.ctx? ctx).bind fun y => y.queue? q) = some { x with tail := tail } ∧
      t = { s with ctxs := t.ctxs, agenda := s.agenda ++ [.recordTake ctx q] }) ∧
    (x.error = false → x.head ≠ x.tail → c.tableFull = false → (c.judgedRetained (Record.of bs) && c.atticFull) = false →
      (recordGood bs (x.head % 2 ^ 16) = true → Completes (.recordTake ctx q) s fun t =>
        t = s2.takeRecord ctx bs (some q) x.wdcfg 0) ∧
      (recordGood bs (x.head % 2 ^ 16) = false → Completes (.recordTake ctx q) s fun t =>
        ((t.ctx? ctx).bind fun y => y.queue? q) = some { x with head := head, bad := x.bad + 1 }))) ∧
  (∀ d n, s.nextDelivery c = some d → s.destOf c d ≠ 0 → c.named (s.destOf c d) = some n → s.node? ctx n.key = some n →
    n.state = .waiting → 1 < n.count →
    Completes (.delayedDelivery ctx) s fun t =>
      t.node? ctx n.key = some { n with count := n.count - 1, failures := n.failures + if d.fail then 1 else 0 } ∧
      (t.ctx? ctx).map Ctx.delayed = some (c.delayed.erase d) ∧ t = { s with ctxs := t.ctxs, agenda := t.agenda }) ∧
  (∀ key n, s.node? ctx key = some n → n.state = .ready ∨ n.state = .running →
    Completes (.priorityAging ctx key) s (fun t =>
      t.node? ctx key = some { n with aged := min 7 ((s.now - n.readyClk) / 2250000) } ∧
      t = { s with ctxs := t.ctxs, agenda := s.agenda ++ [.placementDecision] }) ∧
    (n.passed = true → c.hasNext n = true → n.nextClk + 2250000 ≤ s.now →
      Completes (.blockStarved ctx key) s fun t =>
        t.node? ctx key = some { n with starved := true } ∧ t = { s with ctxs := t.ctxs })) ∧
  (let s0 : State := { s with ctxs := s.ctxs.map fun c => { c with nodes := c.nodes.map fun n => n.age_ s.now } }
   let ps := s0.tryOrder.filterMap s0.placing
   s0.unplaceable = [] →
   (ps = [] → Completes .placementDecision s fun t => t = s0) ∧
   (∀ p, s0.alternate ps = some p → Completes .placementDecision s fun t =>
     (p.node.priority, p.node.readyAt) ∈ t.lastNode ∧ (∀ k ∈ p.cores, (k, p.ctx) ∈ t.lastPlaced) ∧
     .placementDecision ∈ t.agenda))

/-- R18, R36, R45, R154 and R290: a block alone in its unit whose node has no transform is filled, starts, and ends when its warps
have ended and its operations completed; a copy from scratch to scratch moves one burst. -/
def Obligations.BlockEvents : Prop := ∀ (s : State) (blk : Nat) (b : Block) (c : Ctx) (n : Node), s.blk.id ≠ blk →
  s.block? blk = some b → s.ctx? b.ctx = some c → s.node? b.ctx b.node = some n →
  (b.state = .prologue → c.state = .running → n.xforms = [] → s.copiesOf blk = [blk] → s.unitOf b = [blk] →
    Completes (.prologueFill blk) s fun t => t.block? blk = some { b with state := .filled } ∧
      t.agenda = s.agenda ++ [.blockStart blk] ∧ t = { s with blocks := t.blocks, agenda := t.agenda }) ∧
  (b.state = .filled → c.state = .running → s.copiesOf blk = [blk] → b.started = false → Completes (.blockStart blk) s fun t =>
    t.block? blk = some { b with
      state := if (b.ctx, b.core) ∈ s.frozenCtxs then .halted else .running
      started := true, inject := true, since := s.now, fenced := s.turn
      warps := b.warps.map fun w =>
        (w.mapThreads Mask.all fun l x => { x with sr := srSeed c.srseed b.index w.idx l }).syncPod s.turn } ∧
    t.node? b.ctx b.node = some { n with
      state := .running, progress := if n.state = .running then n.progress else s.now
      tstart := some (n.tstart.getD (s.die n.die).clk) } ∧
    t.agenda = s.agenda ++ b.parts.map (fun _ => .mmagMemberPart blk) ∧
    t = { s with blocks := t.blocks, ctxs := t.ctxs, agenda := t.agenda, caches := (s.acquire b.core 4).caches }) ∧
  (b.state = .running → (∀ w ∈ b.warps, w.live = 0) → s.quiet b = true → b.lost = none → b.copyFailed = false →
    Completes (.blockEnd blk) s fun t => (t.block? blk).map Block.state = some (.ended .done) ∧
      t.agenda = s.agenda ++ [.blockEnd blk] ∧ t.mem = s.mem ∧ t.ctxs = s.ctxs) ∧
  (∀ h x, h < b.copies.length → b.copies.getD h none = some x → x.status = .running → x.fault = none → x.frozen = false →
    x.bar = none → x.srcScr = true → x.dstScr = true → x.cursor + 256 < x.len → b.state = .running → c.state = .running →
    s.copiesOf blk = [blk] → b.pbwaits = [] → b.scrConsumed (x.src + x.cursor) 256 = none → Tab.wf (0 : Byte) b.scratch = true →
    Completes (.copyBurst (.block blk h)) s fun t => ∃ y, t.block? blk = some y ∧
      y.copies = b.copies.set h (some { x with cursor := x.cursor + 256 }) ∧
      (∀ a, Tab.get 0 y.scratch a = if x.dst + x.cursor ≤ a ∧ a < x.dst + x.cursor + 256
        then Tab.get 0 b.scratch (x.src + x.cursor + (a - (x.dst + x.cursor))) else Tab.get 0 b.scratch a) ∧
      t.agenda = s.agenda ++ [.copyBurst (.block blk h)] ∧ t.mem = s.mem)

/-! ## Device events: pages, errors, vigils -/

/-- R212, R216, R217 and R223: a walk fills the TLBs of the core and its die; every translation of a page that is asked for becomes on
demand, and the page then stands at its new frame with its bytes, its generation one higher; one that is pinned is refused; a shoot-down
that a core acknowledges, or is fenced for, leaves none of its translations there; an unmapped page has no leaf, but one of the
context's regions stays (R370). That a page that is pinned is
refused with a reply (log 142), and that a leaf of a page moved to another node names no key (log 43), are the model's choices. -/
def Obligations.PagingEvents : Prop := ∀ (s : State) (ctx : Nat) (c : Ctx), s.MemInv → s.ctx? ctx = some c →
  (∀ k va l, k < s.cores.length → (s.core k).gated = false → s.xlat c va = .ok l → l.heap = false →
    let page : TlbEntry := ⟨ctx, va / l.span * l.span / 4096, l.span⟩
    Completes (.pageWalk k ctx va) s fun t => page ∈ (t.core k).tlb ∧ (dieOf k < s.dies.length → page ∈ (t.die (dieOf k)).tlb) ∧
      t = { s with cores := t.cores, dies := t.dies, caches := t.caches }) ∧
  (∀ (r : MigrateReq) (e level : Nat), r.ctx = ctx → s.leafOf c r.va = some (e, level) → r.tie = false →
    let page := pageOf (s.readNum e 8) level
    let xs := s.translations page.1 page.2
    (∀ m ∈ s.migrations, m.old ≠ page.1) →
    (xs.any (s.keptPage page.2) = false → s.pinnedIn page.1 page.2 = false → Completes (.pageMigrateRequest r) s fun t =>
      (∃ shoots, t.migrations = s.migrations ++ [⟨ctx, r.va / page.2 * page.2, page.1, page.2, r.frame, r.toward,
        xs.map fun x => (x.2.2, BitVec.ofNat 64 (s.readNum x.2.2 8)), shoots, [], r.token⟩]) ∧
      (∀ x, xs = [x] → t.readNum x.2.2 8 = onDemand (s.readNum x.2.2 8))) ∧
    (s.pinnedIn page.1 page.2 = true → r.forced = false → Completes (.pageMigrateRequest r) s fun t =>
      t = { s with pageReplies := s.pageReplies ++ [(ctx, r.va / 4096 * 4096, 5)] })) ∧
  (∀ va m, s.migrations.find? (fun m => m.ctx = ctx && m.va = va) = some m → m.held = [] → m.token = none →
    (∀ d ∈ s.shootdowns, d.id ∉ m.shoots) → 4096 ≤ m.size → Completes (.migrationComplete ctx va) s fun t =>
      t.migrations = s.migrations.erase m ∧
      Tab.get 0 t.pageGen (m.frame / 4096) = (Tab.get 0 s.pageGen (m.old / 4096) + 1) % 65536 ∧
      ∀ at_ leaf, m.leaves = [(at_, leaf)] →
        t.readNum at_ 8 = movedLeaf leaf.toNat (leaf.toNat / 4096 % 2 ^ 40 * 4096 - m.old + m.frame) (nodeOf m.frame != s.node) ∧
        ∀ i, i < m.size → ¬ (at_ ≤ m.frame + i ∧ m.frame + i < at_ + 8) → t.readPa (m.frame + i) = s.readPa (m.old + i)) ∧
  (∀ id k d, s.shootdowns.find? (fun d => d.id = id) = some d → k ∈ d.owing → s.usesRange k d.ctx d.va d.len = false →
    let left := d.owing.filter fun x => x != k
    (Completes (.shootdownAck id k) s fun t =>
      (∀ x ∈ (t.core k).tlb, ¬ (x.ctx = d.ctx ∧ x.page * 4096 < d.va + d.len ∧ d.va < x.page * 4096 + x.size)) ∧
      (left = [] → ∀ x ∈ t.shootdowns, x.id ≠ id) ∧ (left ≠ [] → { d with owing := left } ∈ t.shootdowns) ∧ t.mem = s.mem) ∧
    (d.start + 10 * 2250 ≤ s.now → k < s.cores.length → (s.core k).cond = .serving → (∀ b ∈ s.blocksNow, b.core ≠ k) →
      Completes (.shootdownTimeout id k) s fun t => (t.core k).cond = .fenced ∧ (left = [] → ∀ x ∈ t.shootdowns, x.id ≠ id))) ∧
  (∀ va len e level, s.blocks = [] → s.pins = [] → (∀ n ∈ c.nodes, n.readsFrom va len = false) → 0 < len → len ≤ 4096 →
    s.leafOf c va = some (e, level) →
    let n := pageBytes level
    (c.holdsPage (va / n * n) n = false → Completes (.unmap ctx va len) s fun t => t.readNum e 8 = 0) ∧
    (c.holdsPage (va / n * n) n = true → Completes (.unmap ctx va len) s fun t => t.readNum e 8 = s.readNum e 8))

/-- R63, R333-R335 and R341: an error that is corrected is recorded in its bank, and one that is not also poisons what it lies in; a vigil
begins on the next core of the almanac, pre-empts the block that remains at its timeout, and returns a core that passes to service
or fences one that fails. -/
def Obligations.HealthEvents : Prop := ∀ (s : State),
  (∀ e : ErrorEvent, (∀ b ∈ s.banks, ¬ (b.kind = e.bankKind ∧ b.index = e.unit)) →
    let bank (sev poisoned : Nat) : Bank := ⟨e.bankKind, e.unit,
      BitVec.ofNat 64 (sev * 2 ^ 62 + poisoned * 2 ^ 60 + 2 ^ 52 + e.ctx.getD 0xFFF % 4096 * 2 ^ 40 + e.source % 256 * 2 ^ 32 +
        e.unit % 65536 * 2 ^ 16 + e.syndrome % 65536), BitVec.ofNat 64 (e.addr % 2 ^ 57)⟩
    ∀ pa, e.target = .memory pa →
      (e.sev = .ce → Completes (.errorDetected e) s fun t => t = { s with banks := s.banks ++ [bank 1 0] }) ∧
      (e.sev = .ue → Completes (.errorDetected e) s fun t => t.banks = s.banks ++ [bank 2 1] ∧
        (∀ g, g ∈ t.poison ↔ g = pa / 64 ∨ g ∈ s.poison) ∧ t = { s with banks := t.banks, poison := t.poison })) ∧
  (∀ d k, s.vigilcfg.getLsbD 0 = true → 6 ≤ s.boot → (s.die d).step < 6 → s.inVigil d < s.perDie → s.nextVigil d = some k →
    k < s.cores.length →
    ((∃ b ∈ s.blocksNow, b.core = k) → Completes (.vigilBegin d) s fun t => (t.core k).vigil = .draining s.now ∧ t.mem = s.mem) ∧
    ((∀ b ∈ s.blocksNow, b.core ≠ k) → Completes (.vigilBegin d) s fun t => (t.core k).vigil = .scanning s.now ∧ t.mem = s.mem)) ∧
  (∀ k t0 b u, (s.core k).vigil = .draining t0 → t0 + s.vigilcfg.toNat / 2 ^ 20 % 2 ^ 12 * 225000 ≤ s.now →
    s.blocksNow.filter (fun b => b.core = k) = [b] → s.preemptUnit b false = some u →
    Completes (.vigilDrainTimeout k) s fun t => t = u) ∧
  (∀ k t0, (s.core k).vigil = .scanning t0 → k < s.cores.length → t0 + s.vigilcfg.toNat / 2 ^ 8 % 2 ^ 12 * 225000 ≤ s.now →
    (∀ p, Completes (.vigilScanComplete k true p) s fun t => (t.core k).vigil = .none ∧ (t.core k).passed = t0) ∧
    (∀ p, (s.core k).cond = .serving → (∀ b ∈ s.blocksNow, b.core ≠ k) → s.ctxs = [] →
      Completes (.vigilScanComplete k false p) s fun t => (t.core k).cond = .fenced ∧ (t.core k).vigil = .none ∧
        ∃ b ∈ t.banks, b.kind = 0 ∧ b.index = k))

/-! ## Device events: the engine and collectives -/

/-- R244, R246, R253, R254 and R276: the head of an engine queue is performed: growth adds tiles of zeros, the second half of a product
computes the rows of lanes 64 to 127, a chain at its end leaves the queue; a member's part of an MMAG that passes its checks enters its
queue. -/
def Obligations.EngineEvents : Prop := ∀ (s : State) (k : Nat) (e : EngineEntry) (rest : List EngineEntry) (b : Block),
  (s.core k).queue = e :: rest → s.block? e.blk = some b →
  let popped (t : State) : Prop := (t.core k).queue = (e :: rest).filter fun x => !(x.id = e.id && x.blk = e.blk)
  (∀ n, e.op = .accgrow n → Completes (.enginePerform k) s fun t => popped t ∧
    (t.block? e.blk).map Block.tiles = some (b.tiles ++ List.replicate n TileCell.zero) ∧ t.mem = s.mem) ∧
  (∀ tile va vb semi sc rows, e.op = .mma tile va vb semi sc rows none → e.half = 1 → e.spoil = 0 → tile < b.tiles.length →
    (b.tile tile).poisoned = false → Tab.wf zeroRow (b.tile tile).cells = true → (b.image va).poisoned = false →
    (b.image vb).poisoned = false → (∃ l, 64 ≤ l ∧ l < 128 ∧ Mask.has rows l = true) →
    Completes (.mmaHalf k) s fun t => popped t ∧ t.mem = s.mem ∧ ∃ y, t.block? e.blk = some y ∧
      ∀ l, l < 128 → (y.tile tile).row l = if 64 ≤ l ∧ Mask.has rows l = true
        then mmaRow semi sc (b.image va) (b.image vb) l ((b.tile tile).row l) else (b.tile tile).row l) ∧
  (∀ addr count step rows, e.op = .ttrun addr count step rows none → count ≤ step → (s.core k).tileWaits = [] →
    Completes (.ttrunStep k) s fun t => popped t ∧ t.mem = s.mem) ∧
  (∀ blk y x more tile va vb bf semi sc rows off leader m img, s.block? blk = some y → y.parts = x :: more → y.state = .running →
    x.op = .mmag tile va vb bf semi sc rows off leader m img → y.memberCheck m tile va bf semi = none → y.core < s.cores.length →
    Completes (.mmagMemberPart blk) s fun t => (t.core y.core).queue = (s.core y.core).queue ++ [x] ∧
      (t.block? blk).map Block.parts = some more ∧ t.agenda = s.agenda ++ [.enginePerform y.core] ∧ t.mem = s.mem)

/-- R363, R373-R377: the heartbeats that are due arrive; a contribution reaches the folding member; a result completes the handle of its
block with its status word; a silent member is lost in a new season; a spare waits until the next collective begins, which admits it in a
new season. Which members a heartbeat is heard from (log 93), and which seasons' contributions are taken (log 147), are the model's choices. -/
def Obligations.CollectiveEvents : Prop := ∀ (s : State) (ctx i : Nat) (c : Ctx) (g : Group), s.ctx? ctx = some c →
  c.group? i = some g →
  let group (t : State) : Option Group := (t.ctx? ctx).bind fun x => x.group? i
  (g.colls ≠ [] → Completes (.collHeartbeat ctx i) s fun t => ∃ y, group t = some y ∧
    (∀ m, m < g.heard.length → y.heard.getD m 0 = if m ∈ s.beats g then s.now else g.heard.getD m 0) ∧ t.mem = s.mem) ∧
  (∀ x : Contribution, x.ctx = ctx → x.group = i → g.folder x.seq = some g.self → g.has x.member = true → x.member ≠ g.self →
    g.since.getD x.member 1 ≤ x.season → g.spares = [] → x.seq ≥ g.nextSeq → (∀ y ∈ g.colls, y.seq ≠ x.seq) → Completes (.collContribution x) s fun t => ∃ y, group t = some y ∧
      ⟨x.seq, none, g.live, [x], 0⟩ ∈ y.colls ∧ y.nextSeq = g.nextSeq ∧ t.mem = s.mem) ∧
  (∀ (r : CollResult) (x : Collective) (o : OwnPart) (b : Block) (h : CollHandle), r.ctx = ctx → r.group = i → r.code ≠ 5 →
    g.colls.find? (fun x => x.seq = r.seq) = some x → x.own = some o → o.bar = none → s.block? o.blk = some b →
    b.state = .running → o.handle < b.colls.length → b.colls.getD o.handle none = some h →
    Completes (.collResult r) s fun t =>
      (t.block? o.blk).map (fun y => y.colls.getD o.handle none) =
        some (some { h with status := some (BitVec.ofNat 32 (r.ncontrib % 2 ^ 16 * 2 ^ 16 + r.code % 256)) }) ∧
      ∃ y, group t = some y ∧ ∀ z ∈ y.colls, z.seq ≠ r.seq) ∧
  (∀ m, g.silent m s.now = true → Completes (.groupTimeout ctx i m) s fun t => ∃ y, group t = some y ∧
    y.season = g.season + 1 ∧ y.has m = false ∧ (∀ j, j ≠ m → y.has j = g.has j)) ∧
  (∀ m node, g.has m = false → m < g.nmem → g.state ≠ .expelled → (∀ p ∈ g.spares, p.1 ≠ m) →
    Completes (.spareAdmission ctx i m node) s fun t =>
      group t = some { g with spares := g.spares ++ [(m, node)] } ∧ t = { s with ctxs := t.ctxs }) ∧
  (∀ (x : Contribution) (m node : Nat), x.ctx = ctx → x.group = i → x.seq ≥ g.nextSeq → (∀ y ∈ g.colls, y.seq ≠ x.seq) →
    g.state ≠ .expelled → g.spares = [(m, node)] → m < 256 → m < g.nodes.length →
    Completes (.collContribution x) s fun t => ∃ y, group t = some y ∧
      y.season = g.season + 1 ∧ y.has m = true ∧ (∀ j, j ≠ m → y.has j = g.has j) ∧ y.nodes = g.nodes.set m node ∧ y.spares = [])

/-! ## Commands -/

/-- R368: the command at HEAD of its queue completes by REPLY, and the queue's HEAD moves on. R14, R21, R28, R30, R48, R63, R209, R214, R215,
R225, R313, R315, R325-R331, R334, R352, R369, R370, R372, R375: what each command whose arguments are in range does before it; LOAD_OBJECT
replies once its shoot-down is over (R237), and MIGRATE to another package takes the context away with its memory. The form of a saved
record (log 30), the bytes of a donor (log 57), the lists of nodes (log 60), the numbers of masters (log 61), that MIGRATE ends in the departed
contexts (log 99), that CTX_READ drops what does not translate (log 101), NEXTSEQ of a new group (log 102) and the registers of a new context
(log 117) are the model's choices. -/
def Obligations.Commands : Prop := ∀ (s : State) (c : Cmd) (m : MgmtQueue), s.mgmtQueue c.queue = some m → m.head = c.index →
  let done (i : Instr) (u : State) (status detail : Nat) : Prop := Completes i s fun t => t = u.reply m status detail
  let does (i : Instr) (detail : Nat) (P : State → Prop) : Prop := Completes i s fun t => ∃ u, P u ∧ t = u.reply m 0 detail
  let only (n : Nat) : Prop := onlyArgs c n = true
  let a0 := c.a0.toNat
  let a1 := c.a1.toNat
  let a2 := c.a2.toNat
  let a3 := c.a3.toNat
  (∀ (u : State) (status detail : Nat), u.MemInv → u.mgmtQueue m.q = some m →
    m.base + m.head % 2 ^ m.log2 * 64 + 0x3C ≤ m.watch + 8 ∨ m.watch + 12 ≤ m.base + m.head % 2 ^ m.log2 * 64 + 0x38 →
    let t := u.reply m status detail
    (t.mgmtQueue m.q).map MgmtQueue.head = some ((m.head + 1) % 2 ^ 32) ∧ t.readNum (m.watch + 8) 4 = (m.head + 1) % 2 ^ 32 ∧
    t.readNum (m.base + m.head % 2 ^ m.log2 * 64 + 0x38) 4 = detail % 2 ^ 24 * 256 + status % 256 ∧ t.ctxs = u.ctxs) ∧
  done (.badCommandRecord c.queue c.index) s 1 0 ∧
  (let grant := s.grantOf (s.readNum a0 36)
   let bs := s.readPas c.a1.toNat 64
   let feat := s.featuresFor grant a2
   let r := Regions.of bs (48 * 196608 * (feat.cores + 4 * feat.dies))
   ∀ id slack, s.freeCtx = some id → slackOf a3 = some slack → a2 < 4 → grant ≠ [] →
     let x : Ctx := { Ctx.make id grant feat slack r c.a4.toNat (s.nodesFrom c.a5.toNat 2048) with slotSets := s.slotSetsOf grant }
     s.regionsOk x bs = true → does (.ctxCreate c) id fun u => u.ctxs = s.ctxs ++ [x] ∧
       u.mgmt = s.mgmt ++ [MgmtQueue.open_ (.context id) (mgmtBase s.node (id + 1))] ∧ u.blocks = s.blocks) ∧
  (only 1 → ∀ x, s.ctx? a0 = some x → done (.ctxDestroy c) ((s.killContext x.id none).removeCtx x.id) 0 0) ∧
  (only 1 → a0 < s.cores.length → done (.fenceCore c) (s.fence a0) 0 0) ∧
  (only 2 → a0 = 2 → a1 ∈ s.frozenNodes →
    done (.release c) { s with frozenNodes := s.frozenNodes.filter fun y => y != a1 } 0 0) ∧
  (only 3 → a0 / 2 ^ 16 = 0 → a0 < 288 → a2 = 0 →
    let b := (s.banks.find? fun b => b.kind = 0 && b.index = a0).getD ⟨0, a0, 0, 0⟩
    done (.bankRead c) (s.writePa a1 (bytesOf b.status.toNat 8 ++ bytesOf b.addr.toNat 8)) 0 0) ∧
  (∀ x, only 3 → 1 ≤ a0 → a0 ≤ 1023 → (∀ y ∈ s.keys, y.slot ≠ a0) → s.ctx? a1 = some x →
    if Config.hostGranted a2 72 = false then done (.keyBind c) s 2 0
    else match Config.unwrapKey (s.readPas a2 72) with
    | some k => done (.keyBind c) { s with keys := s.keys ++ [⟨a0, a1, k⟩] } 0 0
    | none => done (.keyBind c) s 2 0) ∧
  (only 1 → 1 ≤ a0 → a0 ≤ 1023 → done (.keyClear c) { s with keys := s.keys.filter fun k => k.slot != a0 } 0 0) ∧
  (only 6 → a0 < 64 → does (.setWindow c) 0 fun u =>
    u.windows = (s.windows.filter fun x => x.index != a0) ++ [⟨a0, c.a1 &&& 0xFFF00F000FFF0001, c.a2 &&& 0x00FFFFFFFFFFFFFF,
      c.a3 &&& 0x01FFFFFFFFFFFFFF, c.a4 &&& 0x01FFFFFFFFFFFFFF, c.a5 &&& 0x01FFFFFFFFFFFFFF⟩] ∧
    (∀ y ∈ u.caches, y.window ≠ some a0) ∧ u = { s with windows := u.windows, caches := u.caches }) ∧
  (∀ id x, c.queue = .context id → s.ctx? id = some x →
    (only 1 → a0 % 256 = 0 → x.insideObject a0 = false → s.objectFault x a0 = none →
      m.hold = none → (∀ d ∈ s.shootdowns, d.id ≠ s.nextShoot) →
      let h := headerOf (s.loadVa x a0 256)
      let loaded (u : State) : Prop := (u.ctx? id).map Ctx.objects =
        some (x.objects ++ [⟨a0, h.extent, 0, [⟨0, h, s.bank0 x a0 h, s.bad0 x a0 h, []⟩]⟩]) ∧ u.blocks = s.blocks
      (s.tlbCores id = [] → does (.loadObject c) 0 loaded) ∧
      (s.tlbCores id ≠ [] → Completes (.loadObject c) s fun t => loaded t ∧
        t.mgmtQueue c.queue = some { m with hold := some (s.nextShoot, .loadObject c) })) ∧
    (∀ k j, only 1 → m.hold = some (k, j) →
      (s.shootLasts k = true → Completes (.loadObject c) s fun t => t = s) ∧
      (s.shootLasts k = false → does (.loadObject c) 0 fun u => u = { s with mgmt := u.mgmt } ∧
        u.mgmtQueue c.queue = some { m with hold := none })) ∧
    (∀ o v tag, only 2 → x.object? a0 = some o → a1 % 256 = 0 → s.objectFault x a1 = none → o.version o.current = some v →
      o.nextTag = some tag → does (.updateObject c) 0 fun u =>
        u = { s with ctxs := u.ctxs } ∧ ∃ y w, u.ctx? id = some y ∧ y.object? a0 = some w ∧ w.current = tag) ∧
    (∀ wd, only 4 → wdcfgOf a3 = some wd → a0 % 4096 = 0 → 4 ≤ a1 → a1 ≤ 15 → a2 % 64 = 0 → x.queues.length < 64 →
      does (.queueCreate c) x.queues.length fun u => u = { s with ctxs := u.ctxs } ∧
        (u.ctx? id).map Ctx.queues =
          some (x.queues ++ [⟨x.queues.length, a0, a1, a2, BitVec.ofNat 64 wd, 0, 0, false, 0⟩])) ∧
    (∀ q, only 1 → x.queue? a0 = some q → does (.queueReset c) 0 fun u =>
      ((u.ctx? id).bind fun y => y.queue? a0) = some { q with error := false } ∧
      u = { s with ctxs := u.ctxs, agenda := u.agenda }) ∧
    (∀ n, c.a0 ≠ 0 → x.named a0 = some n →
      (only 1 → done (.cancel c) (s.cancelNode x n) 0 0) ∧
      (only 5 → n.state = .suspended → s.node? id n.key = some n → does (.resume c) 0 fun u =>
        u.node? id n.key = some { n with state := .running, progress := s.now } ∧
        u = { s with ctxs := u.ctxs, agenda := s.agenda ++ .placementDecision ::
          if n.record.kind = 1 then [.copyBurst (.node id n.key)] else [] }) ∧
      (∀ b, only 2 → s.blocksNow.filter (fun b => b.ctx = id && b.node = n.key && b.index = a1 && b.state = .halted) = [b] →
        does (.fail c) 0 fun u => u = { s.endBlock b.id (.failed 0x08 b.haltCause) true with ctxs := u.ctxs }) ∧
      (∀ b, only 4 → x.saved.find? (fun b => b.node = n.key && b.index = a1) = some b →
        done (.ctxRead c) ({ s with free := s.free + 1 }.storeVa x a2 ((b.savedRecord s.free).take a3)) 0 0)) ∧
    (∀ u, only 0 → x.state = .running → s.switchOut x = some u → done (.switchOut c) u 0 0) ∧
    (only 0 → x.state = .out → does (.restore c) 0 fun u => (u.ctx? id).map Ctx.state = some .running ∧
      .placementDecision ∈ u.agenda ∧ u = { s with ctxs := u.ctxs, agenda := u.agenda }) ∧
    (only 1 → a0 < 1024 → x.state = .out →
      let level := if a0 = s.node then Config.featureLevel else Config.levelOf a0
      (level < x.feat.level → done (.migrate c) s 2 0) ∧
      (x.feat.level ≤ level → a0 ≠ s.node → done (.migrate c) ((s.revokeAll id).depart x a0) 0 0) ∧
      (x.feat.level ≤ level → a0 = s.node → does (.migrate c) 0 fun u =>
        (u.ctx? id).map Ctx.state = some .running ∧ (∀ p ∈ u.pins, p.ctx ≠ id) ∧
        (∀ k, ∀ e ∈ (u.core k).tlb, e.ctx ≠ id) ∧ .placementDecision ∈ u.agenda)) ∧
    (only 5 →
      let cfg := c.a1 &&& 0x000003FF00000003
      let base := c.a2 &&& 0x01FFFFFFFFE00000
      let limit := c.a3 &&& 0x01FFFFFFFFE00000
      s.heapFits cfg.toNat base.toNat limit.toNat c.a4.toNat = true → does (.setXlate c) 0 fun u =>
        u.ctx? id = some { x with ptroot := c.a0 &&& 0x000FFFFFFFFFF000, heapcfg := cfg, heapbase := base, heaplimit := limit
                                  heapoff := c.a4 } ∧ u.mem = s.mem) ∧
    (∀ q, only 2 → a1 ≤ 3 → q ∈ x.faults → q.token = a0 → q.answer = none →
      done (.faultAnswer c) (s.answerFault id a0 a1) 0 0) ∧
    (let i := a1 % 2 ^ 8
     let self := a1 / 2 ^ 8 % 2 ^ 8
     let n := a1 / 2 ^ 16
     only 5 → a0 < 2 ^ 32 → a1 < 2 ^ 32 → i ≤ 15 → 2 ≤ n → n ≤ 256 → self < n → x.group? i = none → s.mapped x a2 (2 * n) = true →
      s.mapped x a3 576 = true → s.mapped x c.a4.toNat 2048 = true → does (.groupCreate c) 0 fun u =>
        ((u.ctx? id).bind fun y => y.group? i) = some ⟨i, a0, 1, n, self, .active, 0, a3, c.a4.toNat,
          BitVec.ofNat 256 (2 ^ n - 1), nodeList (s.loadVa x a2 (2 * n)) n, List.replicate n 1, List.replicate n s.now, [], []⟩ ∧ u.blocks = s.blocks) ∧
    (let i := a1 % 2 ^ 8
     let self := a1 / 2 ^ 8
     let tab := donorBytes a2 a0 0 0 576
     let nmem := fieldAt tab 0x08 2
     let journal := donorBytes a2 a0 1 0 2048
     only 5 → a0 < 2 ^ 32 → a1 < 2 ^ 16 → i ≤ 15 → x.group? i = none → s.mapped x a3 576 = true → s.mapped x c.a4.toNat 2048 = true →
      if nmem ≤ self ∨ fieldAt tab 0x20 32 / 2 ^ self % 2 = 1 then done (.groupJoin c) s 2 0
      else Completes (.groupJoin c) s fun t => ∃ (u : State) (status detail : Nat), t = u.reply m status detail ∧ u.blocks = s.blocks ∧
        (replays journal = [] → status = 0 ∧ detail = 0 ∧ ∃ g, ((u.ctx? id).bind fun y => y.group? i) = some g ∧ g.gid = a0 ∧
          g.self = self ∧ g.state = .joining ∧ g.nmem = nmem ∧ g.nextSeq = fieldAt tab 0x10 8)))

/-! ## The step -/

/-- R68, R75, R96, R109 and R126: when a step chooses a group, and the bytes at its PC decode to an instruction, which no trap it owes,
breakpoint or planted error keeps from issuing, the step is `exec` of that instruction with the group's warp taken out, around which the
registers whose values it reads are brought back from the cellar where some stand there, then what follows an instruction, the warp's return
and the passing of time. When it chooses an event, the step is `exec` of the event, and time passes. That time passes at the end of a step (log
105) and the order of the registers that are brought back (log 24) are the model's choices. -/
def Obligations.StepRunsDecoded : Prop := ∀ (s : State), s.powered = true →
  (∀ g u c w len i n, s.settle.choose = (some (.group g), u) →
    let v0 := (u.checkout g.blk g.warp { Issue.idle with lanes := g.mask, pc := g.pc }).offer
    let v := (v0.noteIssue g v0.blk.core).noteFetch g c
    v.ctx? v.blk.ctx = some c → (v.wp.thread (Mask.low g.mask)).owed = none → v.breakAt c = none →
    v.fetch c v.blk g.pc = .word w len → decodeWord w = .ok i n → v.armed v.blk 4 = false →
    let v1 : State := { v with iss := issueOf g.mask g.pc w len }
    let j := v1.performed i
    let v2 : State := { v1 with wp := v.wp.noted v.turn j, iss := { v1.iss with named := touchesOf j } }
    let reads := if v2.enabled j then valuesOf j else []
    let trace := if v2.wp.rvalid then v2.traced j else v2.wp.trace
    let exempt := maskOf fun l => Mask.has g.mask l && (v2.wp.thread l).exempt
    let after (t : State) : State := ((t.afterIssue g j trace (v2.writesOf j) exempt).checkin).tick
    step s = andThen (v2.withSpilled reads (v2.writesOf j) (exec i)) after ∧
    (v2.wp.spilledOf reads = [] → step s = andThen (exec i v2) after)) ∧
  (∀ i u, s.settle.choose = (some (.event i), u) → step s = andThen (exec i u) State.tick) ∧
  (∀ i rest u, s.settle.choose = (some (.head i rest), u) → step s = andThen (exec i { u with agenda := rest }) State.tick)

/-- R383: every instruction, event and command answers a next state, and so does every step, but for a step without power that no
device reset awaits. -/
def Obligations.StepsAnswer : Prop :=
  (∀ i s, ∃ t, exec i s = .next t) ∧
  ∀ s, (∃ t, step s = .next t) ∨
    (step s = .fault .powerRemoved ∧ s.powered = false ∧ ∀ i ∈ s.agenda, isReset i = false)

/-- R211 and R333: memory keeps its canonical form in every step. -/
def Obligations.MemoryStaysCanonical : Prop := ∀ s t : State, s.MemInv → step s = .next t → t.MemInv

/-- R18, R132, R210, R381, R382: the machine right after reset. That an unwritten byte reads 0 (log 15), which cores are spare (log 3) and
that the key slots are empty (log 7) are the model's choices. -/
def Obligations.ResetState : Prop :=
  State.reset.MemInv ∧ State.reset.boot = 0 ∧ State.reset.ctxs = [] ∧ State.reset.blocks = [] ∧ State.reset.caches = [] ∧
  State.reset.banks = [] ∧ State.reset.keys = [] ∧ State.reset.ports.length = 18 ∧ State.reset.dies.length = 3 ∧
  (∀ d, d < 3 → (State.reset.die d).clk = 0 ∧ ((List.range 288).filter fun k => dieOf k = d && (State.reset.core k).healthy).length = 92) ∧
  State.reset.cores.length = 288 ∧ (∀ k, k < 288 → (State.reset.core k).queue = [] ∧ (State.reset.core k).larder = List.replicate 16 none) ∧
  ∀ a, State.reset.readPa a = 0

/-! ## Encodings -/

/-- R68-R74: words written out from the encoding tables decode to the instructions they stand for. -/
def Obligations.DecodeWords : Prop :=
  decodeTableWord 64 0x000000000001C3D5 = some (.region ⟨7, false, 0, 0, 0, 0, 0, 0, .none⟩) ∧
  decodeTableWord 64 0x004000002001C381 = some (.bdset ⟨7, false, 0, 1, 0, 4, 0, 0, .none⟩) ∧
  decodeTableWord 64 0x010000805001C205 = some (.st ⟨7, false, 0, 4, 0, 10, 8, 0, .none⟩) ∧
  decodeTableWord 64 0x0040000B9001C3C5 = some (.tret ⟨7, false, 0, 1, 0, 370, 0, 0, .none⟩) ∧
  decodeTableWord 64 0x00014150A029C071 = some (.imad ⟨7, false, 0, 0, 10, 20, 21, 10, .none⟩) ∧
  decodeTableWord 64 0x0000000000000001 = none ∧
  decodeTableWord 96 0x00000007000000001001C3CE = some (.csrw ⟨7, false, 0, 0, 0, 2, 0, 0, .imm 7⟩) ∧
  decodeTableWord 32 0x30582814 = some (.dx 0x0C160A 0x05) ∧
  decodeTableWord 32 0 = some .fillWord

/-- R68, R69, R71, R72: the bytes of every well-formed instruction, whatever follows them, decode to it and its length. -/
def Obligations.EncodingRoundTrip : Prop := ∀ (i : Instr) (w : BitVec 128) (n : Nat) (tail : List Byte),
  i.wellFormed = true → encode i = some (w, n) →
  decodeBytes ((List.range n).map (byteOf w.toNat) ++ tail) = some (.ok i n)

/-- R68, R69, R71, R72, R75: a word that decodes is the encoding of what it decodes to, which is well formed: no bit is dropped. -/
def Obligations.DecodingRoundTrip : Prop := ∀ (v : BitVec 128) (i : Instr) (n : Nat), decodeWord v = .ok i n →
  i.wellFormed = true ∧ ∃ w, encode i = some (w, n) ∧ v.toNat % 2 ^ (8 * n) = w.toNat
end

