-- ==== Sys2Proof/Laws/Encoding.lean ====
section
/-! SUPPORT. The fields of an encoded word (R69) read back: what the decoder takes from a word in which they stand at their
places. -/
namespace Sys2Proof

theorem toNat_wbits (w : BitVec 128) (l n : Nat) : (wbits w l n).toNat = w.toNat / 2 ^ l % 2 ^ n := by
  simp [wbits, Nat.shiftRight_eq_div_pow]
theorem getLsbD_eq_div (w : BitVec 128) (l : Nat) : w.getLsbD l = decide (w.toNat / 2 ^ l % 2 = 1) := by
  simp [BitVec.getLsbD, Nat.testBit_eq_decide_div_mod_eq]
theorem wbits_eq {w : BitVec 128} {l n : Nat} {x : BitVec n} (h : w.toNat / 2 ^ l % 2 ^ n = x.toNat) : wbits w l n = x :=
  BitVec.eq_of_toNat_eq (by rw [toNat_wbits, h])

/-- What stands in a word that holds the fields at their places, with a number above them. -/
theorem fields_of_place {w : BitVec 128} {op code e : Nat} {f : Fields} (ho : op < 256) (hc : code < 4)
    (h : w.toNat = placeFields op f code + 2 ^ 64 * e) :
    lengthOf w = 4 * (code + 1) ∧ (wbits w 2 8).toNat = op ∧ wbits w 62 2 = 0 ∧ wbits w 14 3 = f.pg ∧
    w.getLsbD 17 = f.pgn ∧ wbits w 10 4 = f.la ∧ wbits w 54 8 = f.mod ∧ wbits w 18 9 = f.vd ∧ wbits w 27 9 = f.va ∧
    wbits w 36 9 = f.vb ∧ wbits w 45 9 = f.vc := by
  obtain ⟨pg, pgn, la, mod, vd, va, vb, vc, x⟩ := f
  have h1 := pg.isLt; have h2 := la.isLt; have h3 := mod.isLt; have h4 := vd.isLt; have h5 := va.isLt
  have h6 := vb.isLt; have h7 := vc.isLt; have h8 := pgn.toNat_lt
  have h9 : pgn = decide (pgn.toNat = 1) := by cases pgn <;> rfl
  simp only [placeFields] at h
  refine ⟨by rw [lengthOf]; omega, by rw [toNat_wbits]; omega, wbits_eq (by change _ = 0; omega),
    wbits_eq (x := pg) (by omega), ?_, wbits_eq (x := la) (by omega), wbits_eq (x := mod) (by omega),
    wbits_eq (x := vd) (by omega), wbits_eq (x := va) (by omega), wbits_eq (x := vb) (by omega), wbits_eq (x := vc) (by omega)⟩
  rw [getLsbD_eq_div]
  change _ = pgn
  rw [h9]
  congr 1
  exact propext ⟨fun _ => by omega, fun _ => by omega⟩

/-- The word of an encoding is the places' number. -/
theorem toNat_encodeF (op : Nat) (ho : op < 256) (f : Fields) :
    ∃ code e, code < 4 ∧ 0 < code ∧ (encodeF op f).1.toNat = placeFields op f code + 2 ^ 64 * e ∧
      (encodeF op f).2 = 4 * (code + 1) ∧
      (f.x = .none ∧ code = 1 ∨ (∃ v : Word, f.x = .imm v ∧ code = 2 ∧ e = v.toNat) ∨
        ∃ v : DWord, f.x = .ext v ∧ code = 3 ∧ e = v.toNat) := by
  have h1 := f.pg.isLt; have h2 := f.la.isLt; have h3 := f.mod.isLt; have h4 := f.vd.isLt; have h5 := f.va.isLt
  have h6 := f.vb.isLt; have h7 := f.vc.isLt; have h8 := f.pgn.toNat_lt
  have hp : ∀ c, c < 4 → placeFields op f c < 2 ^ 64 := by intro c hc; simp only [placeFields]; omega
  unfold encodeF
  cases hx : f.x with
  | none =>
    have := hp 1 (by omega)
    exact ⟨1, 0, by omega, by omega, by simp only [BitVec.toNat_ofNat]; omega, rfl, .inl ⟨rfl, rfl⟩⟩
  | imm v =>
    have := hp 2 (by omega); have := v.isLt
    exact ⟨2, v.toNat, by omega, by omega, by simp only [BitVec.toNat_ofNat]; omega, rfl, .inr (.inl ⟨v, rfl, rfl, rfl⟩)⟩
  | ext v =>
    have := hp 3 (by omega); have := v.isLt
    exact ⟨3, v.toNat, by omega, by omega, by simp only [BitVec.toNat_ofNat]; omega, rfl, .inr (.inr ⟨v, rfl, rfl, rfl⟩)⟩

/-- The fields come back from an encoding, whatever stands above its length. -/
theorem fieldsOf_place {w : BitVec 128} {op : Nat} {f : Fields} (ho : op < 256)
    (h : ∃ code e, code < 4 ∧ 0 < code ∧ w.toNat = placeFields op f code + 2 ^ 64 * e ∧
      (f.x = .none ∧ code = 1 ∨ (∃ v : Word, f.x = .imm v ∧ code = 2 ∧ e % 2 ^ 32 = v.toNat) ∨
        ∃ v : DWord, f.x = .ext v ∧ code = 3 ∧ e = v.toNat)) : fieldsOf w (lengthOf w) = f := by
  obtain ⟨code, e, hc, hp, hw, hx⟩ := h
  obtain ⟨hl, -, -, a1, a2, a3, a4, a5, a6, a7, a8⟩ := fields_of_place ho hc hw
  have hb : placeFields op f code < 2 ^ 64 := by
    have h1 := f.pg.isLt; have h2 := f.la.isLt; have h3 := f.mod.isLt; have h4 := f.vd.isLt; have h5 := f.va.isLt
    have h6 := f.vb.isLt; have h7 := f.vc.isLt; have h8 := f.pgn.toNat_lt
    simp only [placeFields]; omega
  obtain ⟨pg, pgn, la, mod, vd, va, vb, vc, x⟩ := f
  simp only [fieldsOf, hl, a1, a2, a3, a4, a5, a6, a7, a8, Fields.mk.injEq, true_and]
  rcases hx with ⟨hx, rfl⟩ | ⟨v, hx, rfl, he⟩ | ⟨v, hx, rfl, he⟩
  · simpa using hx.symm
  · have : wbits w 64 32 = v := wbits_eq (by omega)
    simpa [this] using hx.symm
  · have := v.isLt
    have : wbits w 64 64 = v := wbits_eq (by omega)
    simpa [this] using hx.symm

/-- An encoding that passes steps 4 to 9 of R75 decodes to its instruction, whatever stands above its length. -/
theorem decodeWord_place {w : BitVec 128} {op : Nat} {f : Fields} {i : Instr} (ho : op < 256)
    (hi : Instr.ofOp op f = some i) (hs : illegalSub op f = none) (hm : w.toNat % 2 ^ (8 * (encodeF op f).2) = (encodeF op f).1.toNat) :
    decodeWord w = .ok i (encodeF op f).2 := by
  obtain ⟨code, e, hc, hp, he, hn, hx⟩ := toNat_encodeF op ho f
  have hb : placeFields op f code < 2 ^ 64 := by
    have h1 := f.pg.isLt; have h2 := f.la.isLt; have h3 := f.mod.isLt; have h4 := f.vd.isLt; have h5 := f.va.isLt
    have h6 := f.vb.isLt; have h7 := f.vc.isLt; have h8 := f.pgn.toNat_lt
    simp only [placeFields]; omega
  rw [hn, he] at hm
  have hw : ∃ e', w.toNat = placeFields op f code + 2 ^ 64 * e' ∧
      (f.x = .none ∧ code = 1 ∨ (∃ v : Word, f.x = .imm v ∧ code = 2 ∧ e' % 2 ^ 32 = v.toNat) ∨
        ∃ v : DWord, f.x = .ext v ∧ code = 3 ∧ e' = v.toNat) := by
    have := w.isLt
    rcases hx with ⟨hx, rfl⟩ | ⟨v, hx, rfl, rfl⟩ | ⟨v, hx, rfl, rfl⟩
    · exact ⟨w.toNat / 2 ^ 64, by omega, .inl ⟨hx, rfl⟩⟩
    · exact ⟨w.toNat / 2 ^ 64, by omega, .inr (.inl ⟨v, hx, rfl, by omega⟩)⟩
    · exact ⟨v.toNat, by omega, .inr (.inr ⟨v, hx, rfl, rfl⟩)⟩
  obtain ⟨e', hw, hx'⟩ := hw
  obtain ⟨hl, h2, h3, -⟩ := fields_of_place ho hc hw
  have hf := fieldsOf_place ho ⟨code, e', hc, hp, hw, hx'⟩
  have : lengthOf w ≠ 4 := by omega
  rw [hl] at hf this
  simp only [decodeWord, decodeF, hl, this, if_false, hf, h2, hi, hs, h3, hn]
  simp

end Sys2Proof
end

