-- ==== Sys2Proof/Laws/Tab.lean ====
section
/-! SUPPORT. Laws of sparse tables, lanes and masks: a read after a write, and that writes keep the canonical form. -/
namespace Sys2Proof

namespace Tab
variable {α : Type} [DecidableEq α]

theorem wfFrom_mono {d : α} {t : Tab α} {lo lo' : Nat} (h : lo' ≤ lo) (w : wfFrom d lo t = true) : wfFrom d lo' t = true := by
  cases t with
  | nil => rfl
  | cons p t => simp only [wfFrom, Bool.and_eq_true, decide_eq_true_eq] at w ⊢; exact ⟨⟨by omega, w.1.2⟩, w.2⟩

/-- A key below a canonical table's least key reads as the default. -/
theorem get_of_lt {d : α} {t : Tab α} {lo n : Nat} (w : wfFrom d lo t = true) (h : n < lo) : get d t n = d := by
  cases t with
  | nil => rfl
  | cons p t =>
    simp only [wfFrom, Bool.and_eq_true, decide_eq_true_eq] at w
    simp only [get, if_neg (show n ≠ p.1 by omega), if_pos (show n < p.1 by omega)]

theorem wfFrom_set {d : α} {t : Tab α} {lo : Nat} (w : wfFrom d lo t = true) (n : Nat) (v : α) (h : lo ≤ n) :
    wfFrom d lo (set d t n v) = true := by
  induction t generalizing lo with
  | nil => unfold set; split <;> simp_all [wfFrom]
  | cons p t ih =>
    simp only [wfFrom, Bool.and_eq_true, decide_eq_true_eq] at w
    unfold set
    split
    · split
      · simp_all [wfFrom]
      · next h1 h2 => simp only [wfFrom, Bool.and_eq_true, decide_eq_true_eq]; exact ⟨⟨h, h2⟩, ⟨by omega, w.1.2⟩, w.2⟩
    · split
      · split
        · exact wfFrom_mono (by omega) w.2
        · next h1 h2 h3 => simp only [wfFrom, Bool.and_eq_true, decide_eq_true_eq]; subst h2; exact ⟨⟨h, h3⟩, w.2⟩
      · simp only [wfFrom, Bool.and_eq_true, decide_eq_true_eq]
        exact ⟨w.1, ih w.2 (by omega)⟩
/-- Writing one key keeps the canonical form. -/
theorem wf_set {d : α} {t : Tab α} (w : wf d t = true) (n : Nat) (v : α) : wf d (set d t n v) = true :=
  wfFrom_set w n v (Nat.zero_le n)
theorem set_eq {d : α} (t : Tab α) (n : Nat) (v : α) :
    set d t n v = (t.takeWhile fun p => p.1 < n) ++ (if v = d then [] else [(n, v)]) ++ skip n (t.dropWhile fun p => p.1 < n) := by
  induction t with
  | nil => simp only [set, List.takeWhile_nil, List.dropWhile_nil, skip]; split <;> simp
  | cons p t ih =>
    obtain ⟨k, x⟩ := p
    rw [set]
    by_cases h1 : n < k
    · have h2 : ¬ k < n := by omega
      have h3 : k ≠ n := by omega
      rw [if_pos h1]; simp [h2, h3, skip]; split <;> simp
    · rw [if_neg h1]
      by_cases h2 : n = k
      · subst h2; simp [skip]; split <;> simp
      · have h3 : k < n := by omega
        rw [if_neg h2, ih]; simp [h3]
theorem setAcc_acc {d : α} (vs : List α) (n : Nat) (t acc : Tab α) : setAcc d vs n t acc = acc.reverse ++ setAcc d vs n t [] := by
  induction vs generalizing n t acc with
  | nil => simp [setAcc]
  | cons v vs ih =>
    simp only [setAcc]
    rw [ih, ih (acc := if v = d then _ else _)]
    split <;> simp
theorem takeWhile_of_all {β : Type} {a t : Tab β} {n : Nat} (h : ∀ p ∈ a, p.1 < n) :
    (a ++ t).takeWhile (fun p => p.1 < n) = a ++ t.takeWhile fun p => p.1 < n :=
  List.takeWhile_append_of_pos fun p hp => decide_eq_true (h p hp)
theorem dropWhile_of_all {β : Type} {a t : Tab β} {n : Nat} (h : ∀ p ∈ a, p.1 < n) :
    (a ++ t).dropWhile (fun p => p.1 < n) = t.dropWhile fun p => p.1 < n :=
  List.dropWhile_append_of_pos fun p hp => decide_eq_true (h p hp)
theorem setAcc_append {d : α} (vs : List α) (n : Nat) (a t : Tab α) (h : ∀ p ∈ a, p.1 < n) :
    setAcc d vs n (a ++ t) [] = a ++ setAcc d vs n t [] := by
  cases vs with
  | nil => simp [setAcc]
  | cons v vs =>
    simp only [setAcc, takeWhile_of_all h, dropWhile_of_all h]
    rw [setAcc_acc, setAcc_acc (acc := if v = d then (t.takeWhile fun p => p.1 < n).reverse ++ [] else _)]
    split <;> simp
@[simp] theorem setMany_nil {d : α} (t : Tab α) (n : Nat) : setMany d t n [] = t := rfl
/-- Writing consecutive keys writes the first and then the others. -/
theorem setMany_cons {d : α} (t : Tab α) (n : Nat) (v : α) (vs : List α) :
    setMany d t n (v :: vs) = setMany d (set d t n v) (n + 1) vs := by
  have h : ∀ p ∈ (t.takeWhile fun p => p.1 < n) ++ (if v = d then [] else [(n, v)]), p.1 < n + 1 := by
    intro p hp
    rcases List.mem_append.mp hp with hp | hp
    · have := List.all_eq_true.mp List.all_takeWhile p hp
      simp only [decide_eq_true_eq] at this; omega
    · split at hp
      · cases hp
      · rw [List.mem_singleton.mp hp]; exact Nat.lt_succ_self n
  rw [setMany, setMany, set_eq, setAcc_append _ _ _ _ h, setAcc, setAcc_acc]
  split <;> simp
theorem get_dropWhile {β : Type} {d : β} (t : Tab β) {n m : Nat} (h : m ≤ n) : get d (t.dropWhile fun p => p.1 < m) n = get d t n := by
  induction t with
  | nil => rfl
  | cons p t ih =>
    obtain ⟨k, x⟩ := p
    by_cases hk : k < m
    · rw [List.dropWhile_cons_of_pos (by simpa using hk), ih, get, if_neg (by omega), if_neg (by omega)]
    · rw [List.dropWhile_cons_of_neg (by simpa using hk)]
theorem getAcc_eq {β : Type} {d : β} (len n : Nat) (t : Tab β) (acc : List β) :
    getAcc d len n t acc = acc.reverse ++ (List.range len).map fun i => get d t (n + i) := by
  induction len generalizing n t acc with
  | zero => simp [getAcc]
  | succ len ih =>
    simp only [getAcc]
    rw [ih, get_dropWhile t (Nat.le_refl n), List.range_succ_eq_map]
    simp only [List.reverse_cons, List.append_assoc, List.map_cons, List.map_map, Nat.add_zero, List.singleton_append]
    congr 2
    apply List.map_congr_left
    intro i _
    rw [get_dropWhile t (by omega), Function.comp_apply, show n + 1 + i = n + (i + 1) by omega]
/-- Reading consecutive keys reads each. -/
theorem getMany_eq {β : Type} {d : β} (t : Tab β) (n len : Nat) : getMany d t n len = (List.range len).map fun i => get d t (n + i) := by
  rw [getMany, getAcc_eq]; rfl
@[simp] theorem length_getMany {β : Type} {d : β} (t : Tab β) (n len : Nat) : (getMany d t n len).length = len := by simp [getMany_eq]
/-- Writing consecutive keys keeps the canonical form. -/
theorem wf_setMany {d : α} {t : Tab α} (w : wf d t = true) (n : Nat) (vs : List α) : wf d (setMany d t n vs) = true := by
  induction vs generalizing t n with
  | nil => exact w
  | cons v vs ih => rw [setMany_cons]; exact ih (wf_set w n v) (n + 1)
/-- Dropping entries keeps the canonical form. -/
theorem wfFrom_filter {d : α} {t : Tab α} {lo : Nat} (w : wfFrom d lo t = true) (p : Nat × α → Bool) :
    wfFrom d lo (t.filter p) = true := by
  induction t generalizing lo with
  | nil => rfl
  | cons q t ih =>
    simp only [wfFrom, Bool.and_eq_true, decide_eq_true_eq] at w
    rw [List.filter_cons]
    split
    · simp only [wfFrom, Bool.and_eq_true, decide_eq_true_eq]; exact ⟨w.1, ih w.2⟩
    · exact wfFrom_mono (by omega) (ih w.2)
theorem wf_filter {d : α} {t : Tab α} (w : wf d t = true) (p : Nat × α → Bool) : wf d (t.filter p) = true := wfFrom_filter w p

theorem get_set_from {d : α} {t : Tab α} {lo : Nat} (w : wfFrom d lo t = true) (n m : Nat) (v : α) :
    get d (set d t n v) m = if m = n then v else get d t m := by
  induction t generalizing lo with
  | nil =>
    unfold set
    split
    · next h => subst h; simp [get]
    · simp [get]
  | cons p t ih =>
    simp only [wfFrom, Bool.and_eq_true, decide_eq_true_eq] at w
    have low : ∀ k, k ≤ p.1 → get d t k = d := fun k hk => get_of_lt w.2 (by omega)
    unfold set
    split
    · next h1 =>
      split
      · next h2 =>
        by_cases hm : m = n
        · subst hm; rw [if_pos rfl, get, if_neg (show m ≠ p.1 by omega), if_pos h1, h2]
        · rw [if_neg hm]
      · next h2 =>
        by_cases hm : m = n
        · subst hm; simp [get]
        · rw [if_neg hm, get, if_neg hm]
          split
          · next h3 => rw [get, if_neg (by omega), if_pos (by omega)]
          · rfl
    · split
      · next h1 h2 =>
        split
        · next h3 =>
          by_cases hm : m = n
          · subst hm; rw [if_pos rfl, low m (by omega), h3]
          · rw [if_neg hm, get, if_neg (by omega)]
            split
            · exact low m (by omega)
            · rfl
        · next h3 =>
          by_cases hm : m = n
          · subst hm; simp [get]
          · rw [if_neg hm, get, if_neg hm, get, if_neg (show m ≠ p.1 by omega), h2]
      · next h1 h2 =>
        rw [get, ih w.2]
        by_cases hm : m = n
        · subst hm; rw [if_neg (by omega), if_neg (by omega), if_pos rfl, if_pos rfl]
        · rw [if_neg hm, if_neg hm, get]
/-- A read after a write (R4, R97): the key written reads as the value, and every other key as before. -/
theorem get_set {d : α} {t : Tab α} (w : wf d t = true) (n m : Nat) (v : α) :
    get d (set d t n v) m = if m = n then v else get d t m := get_set_from w n m v
/-- A read after a write of a value that is not the default, in any table. -/
theorem get_set_ne {d : α} (t : Tab α) (n m : Nat) {v : α} (h : v ≠ d) :
    get d (set d t n v) m = if m = n then v else get d t m := by
  induction t with
  | nil => simp [set, h, get]
  | cons p t ih =>
    unfold set
    split
    · next h1 =>
      rw [get]
      split
      · rfl
      · split
        · rw [get, if_neg (by omega), if_pos (by omega)]
        · rfl
    · split
      · next h1 h2 => rw [get, get]; subst h2; split <;> rfl
      · rw [get, ih, get]
        by_cases hm : m = n
        · subst hm; rw [if_neg (by omega), if_neg (by omega), if_pos rfl, if_pos rfl]
        · rw [if_neg hm, if_neg hm]
/-- A read after writing consecutive keys. -/
theorem get_setMany {d : α} {t : Tab α} (w : wf d t = true) (n m : Nat) (vs : List α) :
    get d (setMany d t n vs) m = if n ≤ m ∧ m < n + vs.length then vs.getD (m - n) d else get d t m := by
  induction vs generalizing t n with
  | nil => simp only [setMany_nil, List.length_nil]; rw [if_neg (by omega)]
  | cons v vs ih =>
    rw [setMany_cons, ih (wf_set w n v), get_set w]
    simp only [List.length_cons]
    by_cases h1 : n + 1 ≤ m ∧ m < n + 1 + vs.length
    · rw [if_pos h1, if_pos (by omega), show m - n = (m - (n + 1)) + 1 by omega, List.getD_cons_succ]
    · rw [if_neg h1]
      by_cases h2 : m = n
      · subst h2; simp
      · rw [if_neg h2, if_neg (by omega)]
/-- Outside the keys written, consecutive writes change nothing. -/
theorem get_setMany_of_not {d : α} {t : Tab α} (w : wf d t = true) {n m : Nat} {vs : List α}
    (h : m < n ∨ n + vs.length ≤ m) : get d (setMany d t n vs) m = get d t m := by
  rw [get_setMany w, if_neg (by omega)]

end Tab

/-! ## Lanes and masks -/

@[simp] theorem Lanes.at_of {α : Type} [Inhabited α] (f : Nat → α) (l : Nat) (h : l < 128) : Lanes.at (Lanes.of f) l = f l := by
  simp [Lanes.at, Lanes.of, h]
theorem getD_mapFrom {α : Type} (f : Nat → α → α) (d : α) (k l : Nat) (xs : List α) (h : l < xs.length) :
    (mapFrom f k xs).getD l d = f (k + l) (xs.getD l d) := by
  induction xs generalizing k l with
  | nil => simp at h
  | cons x xs ih =>
    cases l with
    | zero => simp [mapFrom]
    | succ l => simp only [mapFrom, List.getD_cons_succ]; rw [ih (k + 1) l (by simpa using h)]; congr 1; omega
@[simp] theorem Lanes.at_mapIdx {α : Type} [Inhabited α] (r : Lanes α) (f : Nat → α → α) (l : Nat) (h : l < 128) :
    Lanes.at (Lanes.mapIdx r f) l = f l (Lanes.at r l) := by
  have h1 : l < r.toList.length := by simp [h]
  simpa [Lanes.at, Lanes.mapIdx] using getD_mapFrom f default 0 l r.toList h1
/-- Two rows with the same lanes are one row. -/
theorem Lanes.ext {α : Type} [Inhabited α] {a b : Lanes α} (h : ∀ l, l < 128 → Lanes.at a l = Lanes.at b l) : a = b := by
  apply Vector.ext
  intro i hi
  have := h i hi
  simpa [Lanes.at, List.getD_eq_getElem?_getD, hi] using this

theorem testBit_bitsOf (f : Nat → Bool) (n i : Nat) : (bitsOf f n).testBit i = (decide (i < n) && f i) := by
  have lt : ∀ n, bitsOf f n < 2 ^ n := by
    intro n
    induction n with
    | zero => simp [bitsOf]
    | succ n ih => rw [bitsOf, Nat.pow_succ]; split <;> omega
  induction n with
  | zero => simp [bitsOf]
  | succ n ih =>
    rw [bitsOf]
    have hl := lt n
    by_cases hf : f n
    · rw [if_pos hf]
      rcases Nat.lt_trichotomy i n with h | h | h
      · rw [Nat.add_comm, Nat.testBit_two_pow_add_gt h, ih]; simp [h, Nat.lt_succ_of_lt h]
      · subst h; rw [Nat.add_comm, Nat.testBit_two_pow_add_eq, Nat.testBit_lt_two_pow hl]; simp [hf]
      · rw [Nat.testBit_lt_two_pow]
        · simp [show ¬ i < n + 1 by omega]
        · exact Nat.lt_of_lt_of_le (show _ < 2 ^ (n + 1) by rw [Nat.pow_succ]; omega) (Nat.pow_le_pow_right (by omega) h)
    · rw [if_neg hf, Nat.add_zero, ih]
      rcases Nat.lt_trichotomy i n with h | h | h
      · simp [h, Nat.lt_succ_of_lt h]
      · subst h; simp [hf]
      · simp [show ¬ i < n by omega, show ¬ i < n + 1 by omega]
@[simp] theorem Mask.has_maskOf (f : Nat → Bool) (l : Nat) (h : l < 128) : Mask.has (maskOf f) l = f l := by
  simp only [Mask.has, maskOf, BitVec.getLsbD_ofNat, testBit_bitsOf]; simp [h]
theorem testBit_bitsOfList {α : Type} (p : α → Bool) (xs : List α) (i : Nat) :
    (bitsOfList p xs).testBit i = (xs[i]?.map p).getD false := by
  induction xs generalizing i with
  | nil => simp [bitsOfList]
  | cons x xs ih =>
    cases i with
    | zero => simp only [bitsOfList, Nat.testBit_zero]; cases hp : p x <;> simp [hp] <;> omega
    | succ i =>
      rw [bitsOfList, Nat.testBit_succ, show (2 * bitsOfList p xs + if p x = true then 1 else 0) / 2 = bitsOfList p xs by split <;> omega, ih]
      simp
@[simp] theorem Mask.has_mask {α : Type} [Inhabited α] (r : Lanes α) (p : α → Bool) (l : Nat) (h : l < 128) :
    Mask.has (Lanes.mask r p) l = p (Lanes.at r l) := by
  simp only [Mask.has, Lanes.mask, BitVec.getLsbD_ofNat, testBit_bitsOfList]; simp [h, Lanes.at]
/-- Two masks with the same lanes are one mask. -/
theorem Mask.ext {a b : Mask} (h : ∀ l, l < 128 → Mask.has a l = Mask.has b l) : a = b := BitVec.eq_of_getLsbD_eq h
theorem Mask.mem_lanes {m : Mask} {l : Nat} : l ∈ Mask.lanes m ↔ l < 128 ∧ Mask.has m l = true := by simp [Mask.lanes]

end Sys2Proof
end

