-- ==== Sys2Proof/Laws/Parts.lean ====
section
/-! SUPPORT. A part of a state read after a change of it or of another: contexts, nodes, queues, groups, blocks, cores, dies, ports. -/
namespace Sys2Proof.Machine

/-! ## Lists whose entries have names -/

/-- A search by name after the entries of a name were changed. -/
theorem find?_named {α κ : Type} [DecidableEq κ] (key : α → κ) (xs : List α) (k j : κ) (f : α → α) (hf : ∀ x, key (f x) = key x) :
    (xs.map fun x => if key x = k then f x else x).find? (fun x => decide (key x = j)) =
      if j = k then (xs.find? fun x => decide (key x = j)).map f else xs.find? fun x => decide (key x = j) := by
  induction xs with
  | nil => simp
  | cons x xs ih =>
    rw [List.map_cons, List.find?_cons, List.find?_cons]
    by_cases hk : key x = k
    · rw [if_pos hk, hf]
      by_cases hj : key x = j
      · simp only [hj, decide_true]; rw [if_pos (hj.symm.trans hk)]; rfl
      · simp only [hj, decide_false]; exact ih
    · rw [if_neg hk]
      by_cases hj : key x = j
      · simp only [hj, decide_true]; rw [if_neg (fun h => hk (hj.trans h))]
      · simp only [hj, decide_false]; exact ih
/-- What a search by name finds has the name. -/
theorem find?_name {α κ : Type} [DecidableEq κ] {key : α → κ} {xs : List α} {j : κ} {x : α}
    (h : xs.find? (fun x => decide (key x = j)) = some x) : key x = j := by simpa using List.find?_some h
/-- Reading a list after one entry was changed. -/
theorem getD_setAt {α : Type} (xs : List α) (i j : Nat) (f : α → α) (d : α) :
    (setAt xs i f).getD j d = if j = i ∧ i < xs.length then f (xs.getD j d) else xs.getD j d := by
  rw [setAt, List.getD, List.getD, List.getElem?_modify]
  by_cases h : i = j
  · subst h
    by_cases hl : i < xs.length
    · simp [hl]
    · simp [hl]
  · rw [if_neg (fun c => h c.1.symm)]
    cases xs[j]? <;> simp [h]

/-! ## Contexts and what they hold -/

theorem State.ctx?_id {s : State} {id : Nat} {c : Ctx} (h : s.ctx? id = some c) : c.id = id := find?_name h
theorem State.ctx?_modCtx (s : State) (id j : Nat) (f : Ctx → Ctx) (hf : ∀ c, (f c).id = c.id) :
    (s.modCtx id f).ctx? j = if j = id then (s.ctx? j).map f else s.ctx? j := find?_named Ctx.id s.ctxs id j f hf
theorem State.ctx?_modNode (s : State) (ctx key j : Nat) (f : Node → Node) :
    (s.modNode ctx key f).ctx? j =
      if j = ctx then (s.ctx? j).map fun c => { c with nodes := c.nodes.map fun n => if n.key = key then f n else n } else s.ctx? j :=
  s.ctx?_modCtx ctx j _ fun _ => rfl
theorem State.node?_modNode (s : State) (ctx key i k : Nat) (f : Node → Node) (hf : ∀ n, (f n).key = n.key) :
    (s.modNode ctx key f).node? i k = if i = ctx ∧ k = key then (s.node? i k).map f else s.node? i k := by
  rw [State.node?, State.node?, State.ctx?_modNode]
  by_cases hi : i = ctx
  · rw [if_pos hi]
    cases s.ctx? i with
    | none => simp
    | some c =>
      simp only [Option.map_some, Option.bind_some, hi, true_and]
      exact find?_named Node.key c.nodes key k f hf
  · rw [if_neg hi, if_neg (fun h => hi h.1)]
theorem State.node?_key {s : State} {ctx key : Nat} {n : Node} (h : s.node? ctx key = some n) : n.key = key := by
  rw [State.node?] at h
  cases hc : s.ctx? ctx with
  | none => rw [hc] at h; cases h
  | some c => rw [hc] at h; exact find?_name h
/-- A queue of a context after a change of one. -/
theorem State.queue_modQueue (s : State) (ctx q i k : Nat) (f : LaunchQ → LaunchQ) (hf : ∀ x, (f x).id = x.id) :
    (((s.modQueue ctx q f).ctx? i).bind fun c => c.queue? k) =
      if i = ctx ∧ k = q then ((s.ctx? i).bind fun c => c.queue? k).map f else (s.ctx? i).bind fun c => c.queue? k := by
  rw [State.modQueue, State.ctx?_modCtx]
  case hf => exact fun _ => rfl
  by_cases hi : i = ctx
  · rw [if_pos hi]
    cases s.ctx? i with
    | none => simp
    | some c =>
      simp only [Option.map_some, Option.bind_some, hi, true_and]
      exact find?_named LaunchQ.id c.queues q k f hf
  · rw [if_neg hi, if_neg (fun h => hi h.1)]
/-- A group of a context after a change of one. -/
theorem State.group_modGroup (s : State) (ctx g i k : Nat) (f : Group → Group) (hf : ∀ x, (f x).index = x.index) :
    (((s.modGroup ctx g f).ctx? i).bind fun c => c.group? k) =
      if i = ctx ∧ k = g then ((s.ctx? i).bind fun c => c.group? k).map f else (s.ctx? i).bind fun c => c.group? k := by
  rw [State.modGroup, State.ctx?_modCtx]
  case hf => exact fun _ => rfl
  by_cases hi : i = ctx
  · rw [if_pos hi]
    cases s.ctx? i with
    | none => simp
    | some c =>
      simp only [Option.map_some, Option.bind_some, hi, true_and]
      exact find?_named Group.index c.groups g k f hf
  · rw [if_neg hi, if_neg (fun h => hi h.1)]
theorem State.mgmtQueue_name {s : State} {q : MgmtQ} {m : MgmtQueue} (h : s.mgmtQueue q = some m) : m.q = q := find?_name h
theorem State.mgmtQueue_modMgmt (s : State) (q j : MgmtQ) (f : MgmtQueue → MgmtQueue) (hf : ∀ x, (f x).q = x.q) :
    (s.modMgmt q f).mgmtQueue j = if j = q then (s.mgmtQueue j).map f else s.mgmtQueue j := find?_named MgmtQueue.q s.mgmt q j f hf

/-! ## Blocks -/

theorem State.block?_id {s : State} {id : Nat} {b : Block} (h : s.block? id = some b) : b.id = id := find?_name h
/-- A block that is not issuing is found among the blocks as they are kept. -/
theorem State.block?_eq (s : State) {id : Nat} (h : s.blk.id ≠ id) : s.block? id = s.blocks.find? fun b => b.id = id := by
  rw [State.block?, State.blocksNow]
  induction s.blocks with
  | nil => rfl
  | cons b bs ih =>
    rw [List.map_cons, List.find?_cons, List.find?_cons, ih]
    by_cases hb : b.id = s.blk.id
    · have h2 : b.id ≠ id := fun e => h (hb.symm.trans e)
      have h3 : s.blkNow.id ≠ id := h
      simp [hb, h3, h]
    · simp only [hb, if_false]
/-- A block after a change of a block, neither of them the issuing one. -/
theorem State.block?_modBlk (s : State) (id j : Nat) (f : Block → Block) (hf : ∀ b, (f b).id = b.id) (hi : s.blk.id ≠ id)
    (hj : s.blk.id ≠ j) : (s.modBlk id f).block? j = if j = id then (s.block? j).map f else s.block? j := by
  have hm : s.modBlk id f = { s with blocks := s.blocks.map fun b => if b.id = id then f b else b } := by
    rw [State.modBlk, if_neg (fun e => hi e.symm)]
  have e : (s.modBlk id f).blk = s.blk := by rw [hm]
  rw [State.block?_eq _ (by rw [e]; exact hj), State.block?_eq _ hj, hm]
  exact find?_named Block.id s.blocks id j f hf

/-! ## Cores, dies and ports -/

theorem State.core_modCore (s : State) (k j : Nat) (f : Core → Core) :
    (s.modCore k f).core j = if j = k ∧ k < s.cores.length then f (s.core j) else s.core j := getD_setAt s.cores k j f _
theorem State.core_modCore_same (s : State) {k : Nat} (f : Core → Core) (h : k < s.cores.length) : (s.modCore k f).core k = f (s.core k) := by
  rw [State.core_modCore, if_pos ⟨rfl, h⟩]
theorem State.core_modCore_ne (s : State) {k j : Nat} (f : Core → Core) (h : j ≠ k) : (s.modCore k f).core j = s.core j := by
  rw [State.core_modCore, if_neg (fun c => h c.1)]
theorem State.port_modPort (s : State) (k j : Nat) (f : Port → Port) :
    (s.modPort k f).port j = if j = k ∧ k < s.ports.length then f (s.port j) else s.port j := getD_setAt s.ports k j f _
theorem State.port_modPort_same (s : State) {k : Nat} (f : Port → Port) (h : k < s.ports.length) : (s.modPort k f).port k = f (s.port k) := by
  rw [State.port_modPort, if_pos ⟨rfl, h⟩]
theorem State.port_modPort_ne (s : State) {k j : Nat} (f : Port → Port) (h : j ≠ k) : (s.modPort k f).port j = s.port j := by
  rw [State.port_modPort, if_neg (fun c => h c.1)]
@[simp] theorem State.push_ctx? (s : State) (i : Instr) (id : Nat) : (s.push i).ctx? id = s.ctx? id := rfl
@[simp] theorem State.push_node? (s : State) (i : Instr) (c k : Nat) : (s.push i).node? c k = s.node? c k := rfl
@[simp] theorem State.push_block? (s : State) (i : Instr) (id : Nat) : (s.push i).block? id = s.block? id := rfl
@[simp] theorem State.push_core (s : State) (i : Instr) (k : Nat) : (s.push i).core k = s.core k := rfl
@[simp] theorem State.push_port (s : State) (i : Instr) (k : Nat) : (s.push i).port k = s.port k := rfl

end Sys2Proof.Machine
end

