-- ==== Sys2Proof/Laws/PerInstr.lean ====
section
/-! SUPPORT. The round trip of every instruction: a well-formed instruction's encoding (R69, R71, R72) decodes to it, whatever
stands above its length. Events have no encoding. -/
namespace Sys2Proof.Laws.RoundTrip

/-- Any word that agrees with the encoding of a well-formed instruction on its length decodes to that instruction. -/
def Statement (i : Instr) : Prop :=
  i.wellFormed = true → ∀ w n v, encode i = some (w, n) → v.toNat % 2 ^ (8 * n) = w.toNat → decodeWord v = .ok i n

theorem ofIsa {i : Instr} {op : Nat} {f : Fields} (h1 : i.wellFormed = decide (illegalSub op f = none))
    (h2 : encode i = some (encodeF op f)) (ho : op < 256) (h3 : Instr.ofOp op f = some i) : Statement i := by
  intro hw w n v he hv
  rw [h1, decide_eq_true_iff] at hw
  rw [h2] at he
  have he : encodeF op f = (w, n) := Option.some.inj he
  have := decodeWord_place (w := v) ho h3 hw (by rw [he]; exact hv)
  rwa [he] at this
theorem ofEvent {i : Instr} (h : encode i = none) : Statement i := by
  intro _ w n v he; rw [h] at he; cases he

theorem nop (f : Fields) : Statement (.nop f) := ofIsa rfl rfl (by decide) rfl
theorem bra (f : Fields) : Statement (.bra f) := ofIsa rfl rfl (by decide) rfl
theorem brx (f : Fields) : Statement (.brx f) := ofIsa rfl rfl (by decide) rfl
theorem call (f : Fields) : Statement (.call f) := ofIsa rfl rfl (by decide) rfl
theorem callx (f : Fields) : Statement (.callx f) := ofIsa rfl rfl (by decide) rfl
theorem ret (f : Fields) : Statement (.ret f) := ofIsa rfl rfl (by decide) rfl
theorem exit (f : Fields) : Statement (.exit f) := ofIsa rfl rfl (by decide) rfl
theorem rcvarm (f : Fields) : Statement (.rcvarm f) := ofIsa rfl rfl (by decide) rfl
theorem rcvwait (f : Fields) : Statement (.rcvwait f) := ofIsa rfl rfl (by decide) rfl
theorem rcvdrop (f : Fields) : Statement (.rcvdrop f) := ofIsa rfl rfl (by decide) rfl
theorem yield (f : Fields) : Statement (.yield f) := ofIsa rfl rfl (by decide) rfl
theorem launch (f : Fields) : Statement (.launch f) := ofIsa rfl rfl (by decide) rfl
theorem shq (f : Fields) : Statement (.shq f) := ofIsa rfl rfl (by decide) rfl
theorem shassert (f : Fields) : Statement (.shassert f) := ofIsa rfl rfl (by decide) rfl
theorem shforce (f : Fields) : Statement (.shforce f) := ofIsa rfl rfl (by decide) rfl
theorem shnarrow (f : Fields) : Statement (.shnarrow f) := ofIsa rfl rfl (by decide) rfl
theorem plop (f : Fields) : Statement (.plop f) := ofIsa rfl rfl (by decide) rfl
theorem p2v (f : Fields) : Statement (.p2v f) := ofIsa rfl rfl (by decide) rfl
theorem v2p (f : Fields) : Statement (.v2p f) := ofIsa rfl rfl (by decide) rfl
theorem iadd (f : Fields) : Statement (.iadd f) := ofIsa rfl rfl (by decide) rfl
theorem isub (f : Fields) : Statement (.isub f) := ofIsa rfl rfl (by decide) rfl
theorem imul (f : Fields) : Statement (.imul f) := ofIsa rfl rfl (by decide) rfl
theorem imulh (f : Fields) : Statement (.imulh f) := ofIsa rfl rfl (by decide) rfl
theorem imad (f : Fields) : Statement (.imad f) := ofIsa rfl rfl (by decide) rfl
theorem imad64 (f : Fields) : Statement (.imad64 f) := ofIsa rfl rfl (by decide) rfl
theorem imin (f : Fields) : Statement (.imin f) := ofIsa rfl rfl (by decide) rfl
theorem imax (f : Fields) : Statement (.imax f) := ofIsa rfl rfl (by decide) rfl
theorem iabs (f : Fields) : Statement (.iabs f) := ofIsa rfl rfl (by decide) rfl
theorem iaddc (f : Fields) : Statement (.iaddc f) := ofIsa rfl rfl (by decide) rfl
theorem andL (f : Fields) : Statement (.andL f) := ofIsa rfl rfl (by decide) rfl
theorem orL (f : Fields) : Statement (.orL f) := ofIsa rfl rfl (by decide) rfl
theorem xorL (f : Fields) : Statement (.xorL f) := ofIsa rfl rfl (by decide) rfl
theorem andn (f : Fields) : Statement (.andn f) := ofIsa rfl rfl (by decide) rfl
theorem shl (f : Fields) : Statement (.shl f) := ofIsa rfl rfl (by decide) rfl
theorem shr (f : Fields) : Statement (.shr f) := ofIsa rfl rfl (by decide) rfl
theorem sar (f : Fields) : Statement (.sar f) := ofIsa rfl rfl (by decide) rfl
theorem rotl (f : Fields) : Statement (.rotl f) := ofIsa rfl rfl (by decide) rfl
theorem popc (f : Fields) : Statement (.popc f) := ofIsa rfl rfl (by decide) rfl
theorem clz (f : Fields) : Statement (.clz f) := ofIsa rfl rfl (by decide) rfl
theorem brev (f : Fields) : Statement (.brev f) := ofIsa rfl rfl (by decide) rfl
theorem bfe (f : Fields) : Statement (.bfe f) := ofIsa rfl rfl (by decide) rfl
theorem bfi (f : Fields) : Statement (.bfi f) := ofIsa rfl rfl (by decide) rfl
theorem sel (f : Fields) : Statement (.sel f) := ofIsa rfl rfl (by decide) rfl
theorem icmp (f : Fields) : Statement (.icmp f) := ofIsa rfl rfl (by decide) rfl
theorem iadd64 (f : Fields) : Statement (.iadd64 f) := ofIsa rfl rfl (by decide) rfl
theorem isub64 (f : Fields) : Statement (.isub64 f) := ofIsa rfl rfl (by decide) rfl
theorem shf (f : Fields) : Statement (.shf f) := ofIsa rfl rfl (by decide) rfl
theorem lea (f : Fields) : Statement (.lea f) := ofIsa rfl rfl (by decide) rfl
theorem mov (f : Fields) : Statement (.mov f) := ofIsa rfl rfl (by decide) rfl
theorem idot4 (f : Fields) : Statement (.idot4 f) := ofIsa rfl rfl (by decide) rfl
theorem lop3 (f : Fields) : Statement (.lop3 f) := ofIsa rfl rfl (by decide) rfl
theorem prmt (f : Fields) : Statement (.prmt f) := ofIsa rfl rfl (by decide) rfl
theorem sread (f : Fields) : Statement (.sread f) := ofIsa rfl rfl (by decide) rfl
theorem fadd (f : Fields) : Statement (.fadd f) := ofIsa rfl rfl (by decide) rfl
theorem fsub (f : Fields) : Statement (.fsub f) := ofIsa rfl rfl (by decide) rfl
theorem fmul (f : Fields) : Statement (.fmul f) := ofIsa rfl rfl (by decide) rfl
theorem ffma (f : Fields) : Statement (.ffma f) := ofIsa rfl rfl (by decide) rfl
theorem fmin (f : Fields) : Statement (.fmin f) := ofIsa rfl rfl (by decide) rfl
theorem fmax (f : Fields) : Statement (.fmax f) := ofIsa rfl rfl (by decide) rfl
theorem fcmp (f : Fields) : Statement (.fcmp f) := ofIsa rfl rfl (by decide) rfl
theorem frcp (f : Fields) : Statement (.frcp f) := ofIsa rfl rfl (by decide) rfl
theorem frsq (f : Fields) : Statement (.frsq f) := ofIsa rfl rfl (by decide) rfl
theorem fsqrt (f : Fields) : Statement (.fsqrt f) := ofIsa rfl rfl (by decide) rfl
theorem fexp2 (f : Fields) : Statement (.fexp2 f) := ofIsa rfl rfl (by decide) rfl
theorem flog2 (f : Fields) : Statement (.flog2 f) := ofIsa rfl rfl (by decide) rfl
theorem fsin (f : Fields) : Statement (.fsin f) := ofIsa rfl rfl (by decide) rfl
theorem fcos (f : Fields) : Statement (.fcos f) := ofIsa rfl rfl (by decide) rfl
theorem ftanh (f : Fields) : Statement (.ftanh f) := ofIsa rfl rfl (by decide) rfl
theorem frnd (f : Fields) : Statement (.frnd f) := ofIsa rfl rfl (by decide) rfl
theorem fclass (f : Fields) : Statement (.fclass f) := ofIsa rfl rfl (by decide) rfl
theorem padd2 (f : Fields) : Statement (.padd2 f) := ofIsa rfl rfl (by decide) rfl
theorem pmul2 (f : Fields) : Statement (.pmul2 f) := ofIsa rfl rfl (by decide) rfl
theorem pfma2 (f : Fields) : Statement (.pfma2 f) := ofIsa rfl rfl (by decide) rfl
theorem pmin2 (f : Fields) : Statement (.pmin2 f) := ofIsa rfl rfl (by decide) rfl
theorem pmax2 (f : Fields) : Statement (.pmax2 f) := ofIsa rfl rfl (by decide) rfl
theorem cvt (f : Fields) : Statement (.cvt f) := ofIsa rfl rfl (by decide) rfl
theorem cvtp (f : Fields) : Statement (.cvtp f) := ofIsa rfl rfl (by decide) rfl
theorem cvtu (f : Fields) : Statement (.cvtu f) := ofIsa rfl rfl (by decide) rfl
theorem scale (f : Fields) : Statement (.scale f) := ofIsa rfl rfl (by decide) rfl
theorem fdot2 (f : Fields) : Statement (.fdot2 f) := ofIsa rfl rfl (by decide) rfl
theorem qdec (f : Fields) : Statement (.qdec f) := ofIsa rfl rfl (by decide) rfl
theorem shfl (f : Fields) : Statement (.shfl f) := ofIsa rfl rfl (by decide) rfl
theorem vote (f : Fields) : Statement (.vote f) := ofIsa rfl rfl (by decide) rfl
theorem redux (f : Fields) : Statement (.redux f) := ofIsa rfl rfl (by decide) rfl
theorem matchL (f : Fields) : Statement (.matchL f) := ofIsa rfl rfl (by decide) rfl
theorem scan (f : Fields) : Statement (.scan f) := ofIsa rfl rfl (by decide) rfl
theorem elect (f : Fields) : Statement (.elect f) := ofIsa rfl rfl (by decide) rfl
theorem ld (f : Fields) : Statement (.ld f) := ofIsa rfl rfl (by decide) rfl
theorem st (f : Fields) : Statement (.st f) := ofIsa rfl rfl (by decide) rfl
theorem lds (f : Fields) : Statement (.lds f) := ofIsa rfl rfl (by decide) rfl
theorem sts (f : Fields) : Statement (.sts f) := ofIsa rfl rfl (by decide) rfl
theorem ldx (f : Fields) : Statement (.ldx f) := ofIsa rfl rfl (by decide) rfl
theorem stx (f : Fields) : Statement (.stx f) := ofIsa rfl rfl (by decide) rfl
theorem atom (f : Fields) : Statement (.atom f) := ofIsa rfl rfl (by decide) rfl
theorem atomcas (f : Fields) : Statement (.atomcas f) := ofIsa rfl rfl (by decide) rfl
theorem red (f : Fields) : Statement (.red f) := ofIsa rfl rfl (by decide) rfl
theorem pref (f : Fields) : Statement (.pref f) := ofIsa rfl rfl (by decide) rfl
theorem fence (f : Fields) : Statement (.fence f) := ofIsa rfl rfl (by decide) rfl
theorem sealR (f : Fields) : Statement (.sealR f) := ofIsa rfl rfl (by decide) rfl
theorem unsealR (f : Fields) : Statement (.unsealR f) := ofIsa rfl rfl (by decide) rfl
theorem pin (f : Fields) : Statement (.pin f) := ofIsa rfl rfl (by decide) rfl
theorem unpin (f : Fields) : Statement (.unpin f) := ofIsa rfl rfl (by decide) rfl
theorem ldc (f : Fields) : Statement (.ldc f) := ofIsa rfl rfl (by decide) rfl
theorem cctl (f : Fields) : Statement (.cctl f) := ofIsa rfl rfl (by decide) rfl
theorem pbinit (f : Fields) : Statement (.pbinit f) := ofIsa rfl rfl (by decide) rfl
theorem pbarrive (f : Fields) : Statement (.pbarrive f) := ofIsa rfl rfl (by decide) rfl
theorem pbwait (f : Fields) : Statement (.pbwait f) := ofIsa rfl rfl (by decide) rfl
theorem pbtest (f : Fields) : Statement (.pbtest f) := ofIsa rfl rfl (by decide) rfl
theorem bsync (f : Fields) : Statement (.bsync f) := ofIsa rfl rfl (by decide) rfl
theorem sbar (f : Fields) : Statement (.sbar f) := ofIsa rfl rfl (by decide) rfl
theorem evwait (f : Fields) : Statement (.evwait f) := ofIsa rfl rfl (by decide) rfl
theorem cpy (f : Fields) : Statement (.cpy f) := ofIsa rfl rfl (by decide) rfl
theorem cpyq (f : Fields) : Statement (.cpyq f) := ofIsa rfl rfl (by decide) rfl
theorem cpywait (f : Fields) : Statement (.cpywait f) := ofIsa rfl rfl (by decide) rfl
theorem coll (f : Fields) : Statement (.coll f) := ofIsa rfl rfl (by decide) rfl
theorem collq (f : Fields) : Statement (.collq f) := ofIsa rfl rfl (by decide) rfl
theorem osclaim (f : Fields) : Statement (.osclaim f) := ofIsa rfl rfl (by decide) rfl
theorem osrel (f : Fields) : Statement (.osrel f) := ofIsa rfl rfl (by decide) rfl
theorem osload (f : Fields) : Statement (.osload f) := ofIsa rfl rfl (by decide) rfl
theorem osq (f : Fields) : Statement (.osq f) := ofIsa rfl rfl (by decide) rfl
theorem accgrow (f : Fields) : Statement (.accgrow f) := ofIsa rfl rfl (by decide) rfl
theorem accfree (f : Fields) : Statement (.accfree f) := ofIsa rfl rfl (by decide) rfl
theorem acczero (f : Fields) : Statement (.acczero f) := ofIsa rfl rfl (by decide) rfl
theorem accld (f : Fields) : Statement (.accld f) := ofIsa rfl rfl (by decide) rfl
theorem accst (f : Fields) : Statement (.accst f) := ofIsa rfl rfl (by decide) rfl
theorem accmv (f : Fields) : Statement (.accmv f) := ofIsa rfl rfl (by decide) rfl
theorem mma (f : Fields) : Statement (.mma f) := ofIsa rfl rfl (by decide) rfl
theorem mmag (f : Fields) : Statement (.mmag f) := ofIsa rfl rfl (by decide) rfl
theorem mrfence (f : Fields) : Statement (.mrfence f) := ofIsa rfl rfl (by decide) rfl
theorem mwait (f : Fields) : Statement (.mwait f) := ofIsa rfl rfl (by decide) rfl
theorem bdset (f : Fields) : Statement (.bdset f) := ofIsa rfl rfl (by decide) rfl
theorem bdget (f : Fields) : Statement (.bdget f) := ofIsa rfl rfl (by decide) rfl
theorem ttc (f : Fields) : Statement (.ttc f) := ofIsa rfl rfl (by decide) rfl
theorem ttrun (f : Fields) : Statement (.ttrun f) := ofIsa rfl rfl (by decide) rfl
theorem ttq (f : Fields) : Statement (.ttq f) := ofIsa rfl rfl (by decide) rfl
theorem dload (f : Fields) : Statement (.dload f) := ofIsa rfl rfl (by decide) rfl
theorem dswitch (f : Fields) : Statement (.dswitch f) := ofIsa rfl rfl (by decide) rfl
theorem dsync (f : Fields) : Statement (.dsync f) := ofIsa rfl rfl (by decide) rfl
theorem dread (f : Fields) : Statement (.dread f) := ofIsa rfl rfl (by decide) rfl
theorem dpatch (f : Fields) : Statement (.dpatch f) := ofIsa rfl rfl (by decide) rfl
theorem trap (f : Fields) : Statement (.trap f) := ofIsa rfl rfl (by decide) rfl
theorem tret (f : Fields) : Statement (.tret f) := ofIsa rfl rfl (by decide) rfl
theorem csrr (f : Fields) : Statement (.csrr f) := ofIsa rfl rfl (by decide) rfl
theorem csrw (f : Fields) : Statement (.csrw f) := ofIsa rfl rfl (by decide) rfl
theorem sysq (f : Fields) : Statement (.sysq f) := ofIsa rfl rfl (by decide) rfl
theorem region (f : Fields) : Statement (.region f) := ofIsa rfl rfl (by decide) rfl
theorem brk (f : Fields) : Statement (.brk f) := ofIsa rfl rfl (by decide) rfl
theorem pcmp (f : Fields) : Statement (.pcmp f) := ofIsa rfl rfl (by decide) rfl
theorem dx (h : BitVec 22) (e : BitVec 8) : Statement (.dx h e) := by
  intro hw w n v he hv
  have h1 : !(h = 0 && e = 0) := hw
  have h2 := h.isLt
  have h3 := e.isLt
  obtain ⟨rfl, rfl⟩ : (BitVec.ofNat 128 (2 ^ 2 * e.toNat + 2 ^ 10 * h.toNat)) = w ∧ 4 = n :=
    Prod.mk.inj (Option.some.inj he)
  replace hv : v.toNat % 2 ^ 32 = 2 ^ 2 * e.toNat + 2 ^ 10 * h.toNat := by
    rw [hv, BitVec.toNat_ofNat]; omega
  have hl : lengthOf v = 4 := by rw [lengthOf]; omega
  have hz : wbits v 0 32 ≠ 0 := by
    intro hz
    have := congrArg BitVec.toNat hz
    rw [toNat_wbits] at this
    have e1 : e = 0 := BitVec.eq_of_toNat_eq (by simp at this ⊢; omega)
    have e2 : h = 0 := BitVec.eq_of_toNat_eq (by simp at this ⊢; omega)
    simp [e1, e2] at h1
  rw [decodeWord]
  simp only [hl, if_true, hz, if_false]
  rw [wbits_eq (x := h) (by omega), wbits_eq (x := e) (by omega)]
theorem fillWord : Statement .fillWord := by
  intro hw w n v he hv
  obtain ⟨rfl, rfl⟩ : (0 : BitVec 128) = w ∧ 4 = n := Prod.mk.inj (Option.some.inj he)
  replace hv : v.toNat % 2 ^ 32 = 0 := hv
  have hl : lengthOf v = 4 := by rw [lengthOf]; omega
  have hz : wbits v 0 32 = 0 := wbits_eq (by change _ = 0; omega)
  rw [decodeWord]
  simp only [hl, if_true, hz]
theorem tailReread (q : _) : Statement (.tailReread q) := ofEvent rfl
theorem recordTake (ctx : _) (q : _) : Statement (.recordTake ctx q) := ofEvent rfl
theorem delayedDelivery (ctx : _) : Statement (.delayedDelivery ctx) := ofEvent rfl
theorem priorityAging (ctx : _) (node : _) : Statement (.priorityAging ctx node) := ofEvent rfl
theorem placementDecision : Statement (.placementDecision) := ofEvent rfl
theorem blockStarved (ctx : _) (node : _) : Statement (.blockStarved ctx node) := ofEvent rfl
theorem prologueFill (blk : _) : Statement (.prologueFill blk) := ofEvent rfl
theorem blockStart (blk : _) : Statement (.blockStart blk) := ofEvent rfl
theorem blockEnd (blk : _) : Statement (.blockEnd blk) := ofEvent rfl
theorem holdTimeout (core : _) (pipe : _) (pos : _) : Statement (.holdTimeout core pipe pos) := ofEvent rfl
theorem activeSetExchange (core : _) (pipe : _) (pos : _) : Statement (.activeSetExchange core pipe pos) := ofEvent rfl
theorem longLatencyWriteback (blk : _) (warp : _) : Statement (.longLatencyWriteback blk warp) := ofEvent rfl
theorem pageWalk (core : _) (ctx : _) (va : _) : Statement (.pageWalk core ctx va) := ofEvent rfl
theorem pageMigrateRequest (r : _) : Statement (.pageMigrateRequest r) := ofEvent rfl
theorem migrationComplete (ctx : _) (va : _) : Statement (.migrationComplete ctx va) := ofEvent rfl
theorem shootdownAck (id : _) (core : _) : Statement (.shootdownAck id core) := ofEvent rfl
theorem shootdownTimeout (id : _) (core : _) : Statement (.shootdownTimeout id core) := ofEvent rfl
theorem enginePerform (core : _) : Statement (.enginePerform core) := ofEvent rfl
theorem mmaHalf (core : _) : Statement (.mmaHalf core) := ofEvent rfl
theorem mmagMemberPart (blk : _) : Statement (.mmagMemberPart blk) := ofEvent rfl
theorem ttrunStep (core : _) : Statement (.ttrunStep core) := ofEvent rfl
theorem copyBurst (c : _) : Statement (.copyBurst c) := ofEvent rfl
theorem evwaitReread (blk : _) (warp : _) : Statement (.evwaitReread blk warp) := ofEvent rfl
theorem evwaitTimeout (blk : _) (warp : _) : Statement (.evwaitTimeout blk warp) := ofEvent rfl
theorem watchdogExpiry (ctx : _) (node : _) : Statement (.watchdogExpiry ctx node) := ofEvent rfl
theorem watchdogGraceExpiry (ctx : _) (node : _) : Statement (.watchdogGraceExpiry ctx node) := ofEvent rfl
theorem preemption (blk : _) : Statement (.preemption blk) := ofEvent rfl
theorem errorDetected (e : _) : Statement (.errorDetected e) := ofEvent rfl
theorem vigilBegin (die : _) : Statement (.vigilBegin die) := ofEvent rfl
theorem vigilDrainTimeout (core : _) : Statement (.vigilDrainTimeout core) := ofEvent rfl
theorem vigilScanComplete (core : _) (pass : _) (pattern : _) : Statement (.vigilScanComplete core pass pattern) := ofEvent rfl
theorem flitReceive (port : _) (flit : _) : Statement (.flitReceive port flit) := ofEvent rfl
theorem linkRetrain (port : _) (failing : _) : Statement (.linkRetrain port failing) := ofEvent rfl
theorem idleFlit (port : _) : Statement (.idleFlit port) := ofEvent rfl
theorem linkTimeout (port : _) : Statement (.linkTimeout port) := ofEvent rfl
theorem switchTimeout (node : _) : Statement (.switchTimeout node) := ofEvent rfl
theorem nodeLost (blk : _) (warp : _) (addr : _) : Statement (.nodeLost blk warp addr) := ofEvent rfl
theorem fabricRequest (r : _) : Statement (.fabricRequest r) := ofEvent rfl
theorem collHeartbeat (ctx : _) (group : _) : Statement (.collHeartbeat ctx group) := ofEvent rfl
theorem collContribution (c : _) : Statement (.collContribution c) := ofEvent rfl
theorem collResult (r : _) : Statement (.collResult r) := ofEvent rfl
theorem groupTimeout (ctx : _) (group : _) (member : _) : Statement (.groupTimeout ctx group member) := ofEvent rfl
theorem spareAdmission (ctx : _) (group : _) (member : _) (node : _) : Statement (.spareAdmission ctx group member node) := ofEvent rfl
theorem ctxCreate (c : _) : Statement (.ctxCreate c) := ofEvent rfl
theorem ctxDestroy (c : _) : Statement (.ctxDestroy c) := ofEvent rfl
theorem loadObject (c : _) : Statement (.loadObject c) := ofEvent rfl
theorem updateObject (c : _) : Statement (.updateObject c) := ofEvent rfl
theorem queueCreate (c : _) : Statement (.queueCreate c) := ofEvent rfl
theorem queueReset (c : _) : Statement (.queueReset c) := ofEvent rfl
theorem cancel (c : _) : Statement (.cancel c) := ofEvent rfl
theorem resume (c : _) : Statement (.resume c) := ofEvent rfl
theorem fail (c : _) : Statement (.fail c) := ofEvent rfl
theorem ctxRead (c : _) : Statement (.ctxRead c) := ofEvent rfl
theorem switchOut (c : _) : Statement (.switchOut c) := ofEvent rfl
theorem restore (c : _) : Statement (.restore c) := ofEvent rfl
theorem migrate (c : _) : Statement (.migrate c) := ofEvent rfl
theorem setXlate (c : _) : Statement (.setXlate c) := ofEvent rfl
theorem setWindow (c : _) : Statement (.setWindow c) := ofEvent rfl
theorem faultAnswer (c : _) : Statement (.faultAnswer c) := ofEvent rfl
theorem groupCreate (c : _) : Statement (.groupCreate c) := ofEvent rfl
theorem groupJoin (c : _) : Statement (.groupJoin c) := ofEvent rfl
theorem fenceCore (c : _) : Statement (.fenceCore c) := ofEvent rfl
theorem release (c : _) : Statement (.release c) := ofEvent rfl
theorem bankRead (c : _) : Statement (.bankRead c) := ofEvent rfl
theorem keyBind (c : _) : Statement (.keyBind c) := ofEvent rfl
theorem keyClear (c : _) : Statement (.keyClear c) := ofEvent rfl
theorem errinjSlotUe (ctx : _) (count : _) (index : _) (partner : _) : Statement (.errinjSlotUe ctx count index partner) := ofEvent rfl
theorem errinjMemUe (ctx : _) (count : _) : Statement (.errinjMemUe ctx count) := ofEvent rfl
theorem errinjPairFlip (ctx : _) (count : _) : Statement (.errinjPairFlip ctx count) := ofEvent rfl
theorem errinjRowSoft (ctx : _) (count : _) (index : _) : Statement (.errinjRowSoft ctx count index) := ofEvent rfl
theorem errinjCeLog (ctx : _) (count : _) : Statement (.errinjCeLog ctx count) := ofEvent rfl
theorem deviceReset (b : _) : Statement (.deviceReset b) := ofEvent rfl
theorem thermalTrip (die : _) : Statement (.thermalTrip die) := ofEvent rfl
theorem thermalStepRise (die : _) : Statement (.thermalStepRise die) := ofEvent rfl
theorem thermalStepFall (die : _) : Statement (.thermalStepFall die) := ofEvent rfl
theorem powerStepRise : Statement (.powerStepRise) := ofEvent rfl
theorem powerStepFall : Statement (.powerStepFall) := ofEvent rfl
theorem badCommandRecord (q : _) (index : _) : Statement (.badCommandRecord q index) := ofEvent rfl
theorem unmap (ctx : _) (va : _) (len : _) : Statement (.unmap ctx va len) := ofEvent rfl
theorem portKeyRotation (port : _) : Statement (.portKeyRotation port) := ofEvent rfl
theorem powerGating (core : _) (on : _) : Statement (.powerGating core on) := ofEvent rfl

end Sys2Proof.Laws.RoundTrip
end

