-- ==== Sys2Proof/Laws/State.lean ====
section
/-! SUPPORT. What the updates of State leave alone: one lemma for each field of each update. -/
namespace Sys2Proof.Machine

/-! ## advance -/

@[simp] theorem State.advance_mem (s : State) : (s.advance).mem = s.mem := rfl
@[simp] theorem State.advance_units (s : State) : (s.advance).units = s.units := rfl
@[simp] theorem State.advance_written (s : State) : (s.advance).written = s.written := rfl
@[simp] theorem State.advance_late (s : State) : (s.advance).late = s.late := rfl
@[simp] theorem State.advance_settled (s : State) : (s.advance).settled = s.settled := rfl
@[simp] theorem State.advance_poison (s : State) : (s.advance).poison = s.poison := rfl
@[simp] theorem State.advance_tags (s : State) : (s.advance).tags = s.tags := rfl
@[simp] theorem State.advance_pageGen (s : State) : (s.advance).pageGen = s.pageGen := rfl
@[simp] theorem State.advance_caches (s : State) : (s.advance).caches = s.caches := rfl
@[simp] theorem State.advance_pins (s : State) : (s.advance).pins = s.pins := rfl
@[simp] theorem State.advance_keys (s : State) : (s.advance).keys = s.keys := rfl
@[simp] theorem State.advance_windows (s : State) : (s.advance).windows = s.windows := rfl
@[simp] theorem State.advance_shootdowns (s : State) : (s.advance).shootdowns = s.shootdowns := rfl
@[simp] theorem State.advance_nextShoot (s : State) : (s.advance).nextShoot = s.nextShoot := rfl
@[simp] theorem State.advance_unfenced (s : State) : (s.advance).unfenced = s.unfenced := rfl
@[simp] theorem State.advance_migrations (s : State) : (s.advance).migrations = s.migrations := rfl
@[simp] theorem State.advance_pageReplies (s : State) : (s.advance).pageReplies = s.pageReplies := rfl
@[simp] theorem State.advance_dies (s : State) : (s.advance).dies = s.dies := rfl
@[simp] theorem State.advance_cores (s : State) : (s.advance).cores = s.cores := rfl
@[simp] theorem State.advance_spareMap (s : State) : (s.advance).spareMap = s.spareMap := rfl
@[simp] theorem State.advance_fusedChannels (s : State) : (s.advance).fusedChannels = s.fusedChannels := rfl
@[simp] theorem State.advance_firmwareKey (s : State) : (s.advance).firmwareKey = s.firmwareKey := rfl
@[simp] theorem State.advance_stepping (s : State) : (s.advance).stepping = s.stepping := rfl
@[simp] theorem State.advance_node (s : State) : (s.advance).node = s.node := rfl
@[simp] theorem State.advance_boot (s : State) : (s.advance).boot = s.boot := rfl
@[simp] theorem State.advance_vigilcfg (s : State) : (s.advance).vigilcfg = s.vigilcfg := rfl
@[simp] theorem State.advance_health (s : State) : (s.advance).health = s.health := rfl
@[simp] theorem State.advance_badChannels (s : State) : (s.advance).badChannels = s.badChannels := rfl
@[simp] theorem State.advance_badWays (s : State) : (s.advance).badWays = s.badWays := rfl
@[simp] theorem State.advance_banks (s : State) : (s.advance).banks = s.banks := rfl
@[simp] theorem State.advance_ports (s : State) : (s.advance).ports = s.ports := rfl
@[simp] theorem State.advance_lostNodes (s : State) : (s.advance).lostNodes = s.lostNodes := rfl
@[simp] theorem State.advance_mgmt (s : State) : (s.advance).mgmt = s.mgmt := rfl
@[simp] theorem State.advance_frozenNodes (s : State) : (s.advance).frozenNodes = s.frozenNodes := rfl
@[simp] theorem State.advance_frozenCtxs (s : State) : (s.advance).frozenCtxs = s.frozenCtxs := rfl
@[simp] theorem State.advance_ctxs (s : State) : (s.advance).ctxs = s.ctxs := rfl
@[simp] theorem State.advance_departed (s : State) : (s.advance).departed = s.departed := rfl
@[simp] theorem State.advance_sbarInsts (s : State) : (s.advance).sbarInsts = s.sbarInsts := rfl
@[simp] theorem State.advance_blocks (s : State) : (s.advance).blocks = s.blocks := rfl
@[simp] theorem State.advance_nextBlock (s : State) : (s.advance).nextBlock = s.nextBlock := rfl
@[simp] theorem State.advance_nextOrder (s : State) : (s.advance).nextOrder = s.nextOrder := rfl
@[simp] theorem State.advance_lastPlaced (s : State) : (s.advance).lastPlaced = s.lastPlaced := rfl
@[simp] theorem State.advance_lastNode (s : State) : (s.advance).lastNode = s.lastNode := rfl
@[simp] theorem State.advance_writes (s : State) : (s.advance).writes = s.writes := rfl
@[simp] theorem State.advance_blk (s : State) : (s.advance).blk = s.blk := rfl
@[simp] theorem State.advance_iss (s : State) : (s.advance).iss = s.iss := rfl
@[simp] theorem State.advance_agenda (s : State) : (s.advance).agenda = s.agenda := rfl
@[simp] theorem State.advance_sched (s : State) : (s.advance).sched = s.sched := rfl
@[simp] theorem State.advance_turn (s : State) : (s.advance).turn = s.turn := rfl
@[simp] theorem State.advance_free (s : State) : (s.advance).free = s.free := rfl

/-! ## advanceLanes -/

@[simp] theorem State.advanceLanes_mem (s : State) (m : Mask) : (s.advanceLanes m).mem = s.mem := rfl
@[simp] theorem State.advanceLanes_units (s : State) (m : Mask) : (s.advanceLanes m).units = s.units := rfl
@[simp] theorem State.advanceLanes_written (s : State) (m : Mask) : (s.advanceLanes m).written = s.written := rfl
@[simp] theorem State.advanceLanes_late (s : State) (m : Mask) : (s.advanceLanes m).late = s.late := rfl
@[simp] theorem State.advanceLanes_settled (s : State) (m : Mask) : (s.advanceLanes m).settled = s.settled := rfl
@[simp] theorem State.advanceLanes_poison (s : State) (m : Mask) : (s.advanceLanes m).poison = s.poison := rfl
@[simp] theorem State.advanceLanes_tags (s : State) (m : Mask) : (s.advanceLanes m).tags = s.tags := rfl
@[simp] theorem State.advanceLanes_pageGen (s : State) (m : Mask) : (s.advanceLanes m).pageGen = s.pageGen := rfl
@[simp] theorem State.advanceLanes_caches (s : State) (m : Mask) : (s.advanceLanes m).caches = s.caches := rfl
@[simp] theorem State.advanceLanes_pins (s : State) (m : Mask) : (s.advanceLanes m).pins = s.pins := rfl
@[simp] theorem State.advanceLanes_keys (s : State) (m : Mask) : (s.advanceLanes m).keys = s.keys := rfl
@[simp] theorem State.advanceLanes_windows (s : State) (m : Mask) : (s.advanceLanes m).windows = s.windows := rfl
@[simp] theorem State.advanceLanes_shootdowns (s : State) (m : Mask) : (s.advanceLanes m).shootdowns = s.shootdowns := rfl
@[simp] theorem State.advanceLanes_nextShoot (s : State) (m : Mask) : (s.advanceLanes m).nextShoot = s.nextShoot := rfl
@[simp] theorem State.advanceLanes_unfenced (s : State) (m : Mask) : (s.advanceLanes m).unfenced = s.unfenced := rfl
@[simp] theorem State.advanceLanes_migrations (s : State) (m : Mask) : (s.advanceLanes m).migrations = s.migrations := rfl
@[simp] theorem State.advanceLanes_pageReplies (s : State) (m : Mask) : (s.advanceLanes m).pageReplies = s.pageReplies := rfl
@[simp] theorem State.advanceLanes_dies (s : State) (m : Mask) : (s.advanceLanes m).dies = s.dies := rfl
@[simp] theorem State.advanceLanes_cores (s : State) (m : Mask) : (s.advanceLanes m).cores = s.cores := rfl
@[simp] theorem State.advanceLanes_spareMap (s : State) (m : Mask) : (s.advanceLanes m).spareMap = s.spareMap := rfl
@[simp] theorem State.advanceLanes_fusedChannels (s : State) (m : Mask) : (s.advanceLanes m).fusedChannels = s.fusedChannels := rfl
@[simp] theorem State.advanceLanes_firmwareKey (s : State) (m : Mask) : (s.advanceLanes m).firmwareKey = s.firmwareKey := rfl
@[simp] theorem State.advanceLanes_stepping (s : State) (m : Mask) : (s.advanceLanes m).stepping = s.stepping := rfl
@[simp] theorem State.advanceLanes_node (s : State) (m : Mask) : (s.advanceLanes m).node = s.node := rfl
@[simp] theorem State.advanceLanes_boot (s : State) (m : Mask) : (s.advanceLanes m).boot = s.boot := rfl
@[simp] theorem State.advanceLanes_vigilcfg (s : State) (m : Mask) : (s.advanceLanes m).vigilcfg = s.vigilcfg := rfl
@[simp] theorem State.advanceLanes_health (s : State) (m : Mask) : (s.advanceLanes m).health = s.health := rfl
@[simp] theorem State.advanceLanes_badChannels (s : State) (m : Mask) : (s.advanceLanes m).badChannels = s.badChannels := rfl
@[simp] theorem State.advanceLanes_badWays (s : State) (m : Mask) : (s.advanceLanes m).badWays = s.badWays := rfl
@[simp] theorem State.advanceLanes_banks (s : State) (m : Mask) : (s.advanceLanes m).banks = s.banks := rfl
@[simp] theorem State.advanceLanes_ports (s : State) (m : Mask) : (s.advanceLanes m).ports = s.ports := rfl
@[simp] theorem State.advanceLanes_lostNodes (s : State) (m : Mask) : (s.advanceLanes m).lostNodes = s.lostNodes := rfl
@[simp] theorem State.advanceLanes_mgmt (s : State) (m : Mask) : (s.advanceLanes m).mgmt = s.mgmt := rfl
@[simp] theorem State.advanceLanes_frozenNodes (s : State) (m : Mask) : (s.advanceLanes m).frozenNodes = s.frozenNodes := rfl
@[simp] theorem State.advanceLanes_frozenCtxs (s : State) (m : Mask) : (s.advanceLanes m).frozenCtxs = s.frozenCtxs := rfl
@[simp] theorem State.advanceLanes_ctxs (s : State) (m : Mask) : (s.advanceLanes m).ctxs = s.ctxs := rfl
@[simp] theorem State.advanceLanes_departed (s : State) (m : Mask) : (s.advanceLanes m).departed = s.departed := rfl
@[simp] theorem State.advanceLanes_sbarInsts (s : State) (m : Mask) : (s.advanceLanes m).sbarInsts = s.sbarInsts := rfl
@[simp] theorem State.advanceLanes_blocks (s : State) (m : Mask) : (s.advanceLanes m).blocks = s.blocks := rfl
@[simp] theorem State.advanceLanes_nextBlock (s : State) (m : Mask) : (s.advanceLanes m).nextBlock = s.nextBlock := rfl
@[simp] theorem State.advanceLanes_nextOrder (s : State) (m : Mask) : (s.advanceLanes m).nextOrder = s.nextOrder := rfl
@[simp] theorem State.advanceLanes_lastPlaced (s : State) (m : Mask) : (s.advanceLanes m).lastPlaced = s.lastPlaced := rfl
@[simp] theorem State.advanceLanes_lastNode (s : State) (m : Mask) : (s.advanceLanes m).lastNode = s.lastNode := rfl
@[simp] theorem State.advanceLanes_writes (s : State) (m : Mask) : (s.advanceLanes m).writes = s.writes := rfl
@[simp] theorem State.advanceLanes_blk (s : State) (m : Mask) : (s.advanceLanes m).blk = s.blk := rfl
@[simp] theorem State.advanceLanes_iss (s : State) (m : Mask) : (s.advanceLanes m).iss = s.iss := rfl
@[simp] theorem State.advanceLanes_agenda (s : State) (m : Mask) : (s.advanceLanes m).agenda = s.agenda := rfl
@[simp] theorem State.advanceLanes_sched (s : State) (m : Mask) : (s.advanceLanes m).sched = s.sched := rfl
@[simp] theorem State.advanceLanes_turn (s : State) (m : Mask) : (s.advanceLanes m).turn = s.turn := rfl
@[simp] theorem State.advanceLanes_free (s : State) (m : Mask) : (s.advanceLanes m).free = s.free := rfl

/-! ## setStatus -/

@[simp] theorem State.setStatus_mem (s : State) (m : Mask) (x : Status) : (s.setStatus m x).mem = s.mem := rfl
@[simp] theorem State.setStatus_units (s : State) (m : Mask) (x : Status) : (s.setStatus m x).units = s.units := rfl
@[simp] theorem State.setStatus_written (s : State) (m : Mask) (x : Status) : (s.setStatus m x).written = s.written := rfl
@[simp] theorem State.setStatus_late (s : State) (m : Mask) (x : Status) : (s.setStatus m x).late = s.late := rfl
@[simp] theorem State.setStatus_settled (s : State) (m : Mask) (x : Status) : (s.setStatus m x).settled = s.settled := rfl
@[simp] theorem State.setStatus_poison (s : State) (m : Mask) (x : Status) : (s.setStatus m x).poison = s.poison := rfl
@[simp] theorem State.setStatus_tags (s : State) (m : Mask) (x : Status) : (s.setStatus m x).tags = s.tags := rfl
@[simp] theorem State.setStatus_pageGen (s : State) (m : Mask) (x : Status) : (s.setStatus m x).pageGen = s.pageGen := rfl
@[simp] theorem State.setStatus_caches (s : State) (m : Mask) (x : Status) : (s.setStatus m x).caches = s.caches := rfl
@[simp] theorem State.setStatus_pins (s : State) (m : Mask) (x : Status) : (s.setStatus m x).pins = s.pins := rfl
@[simp] theorem State.setStatus_keys (s : State) (m : Mask) (x : Status) : (s.setStatus m x).keys = s.keys := rfl
@[simp] theorem State.setStatus_windows (s : State) (m : Mask) (x : Status) : (s.setStatus m x).windows = s.windows := rfl
@[simp] theorem State.setStatus_shootdowns (s : State) (m : Mask) (x : Status) : (s.setStatus m x).shootdowns = s.shootdowns := rfl
@[simp] theorem State.setStatus_nextShoot (s : State) (m : Mask) (x : Status) : (s.setStatus m x).nextShoot = s.nextShoot := rfl
@[simp] theorem State.setStatus_unfenced (s : State) (m : Mask) (x : Status) : (s.setStatus m x).unfenced = s.unfenced := rfl
@[simp] theorem State.setStatus_migrations (s : State) (m : Mask) (x : Status) : (s.setStatus m x).migrations = s.migrations := rfl
@[simp] theorem State.setStatus_pageReplies (s : State) (m : Mask) (x : Status) : (s.setStatus m x).pageReplies = s.pageReplies := rfl
@[simp] theorem State.setStatus_dies (s : State) (m : Mask) (x : Status) : (s.setStatus m x).dies = s.dies := rfl
@[simp] theorem State.setStatus_cores (s : State) (m : Mask) (x : Status) : (s.setStatus m x).cores = s.cores := rfl
@[simp] theorem State.setStatus_spareMap (s : State) (m : Mask) (x : Status) : (s.setStatus m x).spareMap = s.spareMap := rfl
@[simp] theorem State.setStatus_fusedChannels (s : State) (m : Mask) (x : Status) : (s.setStatus m x).fusedChannels = s.fusedChannels := rfl
@[simp] theorem State.setStatus_firmwareKey (s : State) (m : Mask) (x : Status) : (s.setStatus m x).firmwareKey = s.firmwareKey := rfl
@[simp] theorem State.setStatus_stepping (s : State) (m : Mask) (x : Status) : (s.setStatus m x).stepping = s.stepping := rfl
@[simp] theorem State.setStatus_node (s : State) (m : Mask) (x : Status) : (s.setStatus m x).node = s.node := rfl
@[simp] theorem State.setStatus_boot (s : State) (m : Mask) (x : Status) : (s.setStatus m x).boot = s.boot := rfl
@[simp] theorem State.setStatus_vigilcfg (s : State) (m : Mask) (x : Status) : (s.setStatus m x).vigilcfg = s.vigilcfg := rfl
@[simp] theorem State.setStatus_health (s : State) (m : Mask) (x : Status) : (s.setStatus m x).health = s.health := rfl
@[simp] theorem State.setStatus_badChannels (s : State) (m : Mask) (x : Status) : (s.setStatus m x).badChannels = s.badChannels := rfl
@[simp] theorem State.setStatus_badWays (s : State) (m : Mask) (x : Status) : (s.setStatus m x).badWays = s.badWays := rfl
@[simp] theorem State.setStatus_banks (s : State) (m : Mask) (x : Status) : (s.setStatus m x).banks = s.banks := rfl
@[simp] theorem State.setStatus_ports (s : State) (m : Mask) (x : Status) : (s.setStatus m x).ports = s.ports := rfl
@[simp] theorem State.setStatus_lostNodes (s : State) (m : Mask) (x : Status) : (s.setStatus m x).lostNodes = s.lostNodes := rfl
@[simp] theorem State.setStatus_mgmt (s : State) (m : Mask) (x : Status) : (s.setStatus m x).mgmt = s.mgmt := rfl
@[simp] theorem State.setStatus_frozenNodes (s : State) (m : Mask) (x : Status) : (s.setStatus m x).frozenNodes = s.frozenNodes := rfl
@[simp] theorem State.setStatus_frozenCtxs (s : State) (m : Mask) (x : Status) : (s.setStatus m x).frozenCtxs = s.frozenCtxs := rfl
@[simp] theorem State.setStatus_ctxs (s : State) (m : Mask) (x : Status) : (s.setStatus m x).ctxs = s.ctxs := rfl
@[simp] theorem State.setStatus_departed (s : State) (m : Mask) (x : Status) : (s.setStatus m x).departed = s.departed := rfl
@[simp] theorem State.setStatus_sbarInsts (s : State) (m : Mask) (x : Status) : (s.setStatus m x).sbarInsts = s.sbarInsts := rfl
@[simp] theorem State.setStatus_blocks (s : State) (m : Mask) (x : Status) : (s.setStatus m x).blocks = s.blocks := rfl
@[simp] theorem State.setStatus_nextBlock (s : State) (m : Mask) (x : Status) : (s.setStatus m x).nextBlock = s.nextBlock := rfl
@[simp] theorem State.setStatus_nextOrder (s : State) (m : Mask) (x : Status) : (s.setStatus m x).nextOrder = s.nextOrder := rfl
@[simp] theorem State.setStatus_lastPlaced (s : State) (m : Mask) (x : Status) : (s.setStatus m x).lastPlaced = s.lastPlaced := rfl
@[simp] theorem State.setStatus_lastNode (s : State) (m : Mask) (x : Status) : (s.setStatus m x).lastNode = s.lastNode := rfl
@[simp] theorem State.setStatus_writes (s : State) (m : Mask) (x : Status) : (s.setStatus m x).writes = s.writes := rfl
@[simp] theorem State.setStatus_blk (s : State) (m : Mask) (x : Status) : (s.setStatus m x).blk = s.blk := rfl
@[simp] theorem State.setStatus_iss (s : State) (m : Mask) (x : Status) : (s.setStatus m x).iss = s.iss := rfl
@[simp] theorem State.setStatus_agenda (s : State) (m : Mask) (x : Status) : (s.setStatus m x).agenda = s.agenda := rfl
@[simp] theorem State.setStatus_sched (s : State) (m : Mask) (x : Status) : (s.setStatus m x).sched = s.sched := rfl
@[simp] theorem State.setStatus_turn (s : State) (m : Mask) (x : Status) : (s.setStatus m x).turn = s.turn := rfl
@[simp] theorem State.setStatus_free (s : State) (m : Mask) (x : Status) : (s.setStatus m x).free = s.free := rfl

/-! ## raise -/

@[simp] theorem State.raise_mem (s : State) (fl : BitVec 7) : (s.raise fl).mem = s.mem := rfl
@[simp] theorem State.raise_units (s : State) (fl : BitVec 7) : (s.raise fl).units = s.units := rfl
@[simp] theorem State.raise_written (s : State) (fl : BitVec 7) : (s.raise fl).written = s.written := rfl
@[simp] theorem State.raise_late (s : State) (fl : BitVec 7) : (s.raise fl).late = s.late := rfl
@[simp] theorem State.raise_settled (s : State) (fl : BitVec 7) : (s.raise fl).settled = s.settled := rfl
@[simp] theorem State.raise_poison (s : State) (fl : BitVec 7) : (s.raise fl).poison = s.poison := rfl
@[simp] theorem State.raise_tags (s : State) (fl : BitVec 7) : (s.raise fl).tags = s.tags := rfl
@[simp] theorem State.raise_pageGen (s : State) (fl : BitVec 7) : (s.raise fl).pageGen = s.pageGen := rfl
@[simp] theorem State.raise_caches (s : State) (fl : BitVec 7) : (s.raise fl).caches = s.caches := rfl
@[simp] theorem State.raise_pins (s : State) (fl : BitVec 7) : (s.raise fl).pins = s.pins := rfl
@[simp] theorem State.raise_keys (s : State) (fl : BitVec 7) : (s.raise fl).keys = s.keys := rfl
@[simp] theorem State.raise_windows (s : State) (fl : BitVec 7) : (s.raise fl).windows = s.windows := rfl
@[simp] theorem State.raise_shootdowns (s : State) (fl : BitVec 7) : (s.raise fl).shootdowns = s.shootdowns := rfl
@[simp] theorem State.raise_nextShoot (s : State) (fl : BitVec 7) : (s.raise fl).nextShoot = s.nextShoot := rfl
@[simp] theorem State.raise_unfenced (s : State) (fl : BitVec 7) : (s.raise fl).unfenced = s.unfenced := rfl
@[simp] theorem State.raise_migrations (s : State) (fl : BitVec 7) : (s.raise fl).migrations = s.migrations := rfl
@[simp] theorem State.raise_pageReplies (s : State) (fl : BitVec 7) : (s.raise fl).pageReplies = s.pageReplies := rfl
@[simp] theorem State.raise_dies (s : State) (fl : BitVec 7) : (s.raise fl).dies = s.dies := rfl
@[simp] theorem State.raise_cores (s : State) (fl : BitVec 7) : (s.raise fl).cores = s.cores := rfl
@[simp] theorem State.raise_spareMap (s : State) (fl : BitVec 7) : (s.raise fl).spareMap = s.spareMap := rfl
@[simp] theorem State.raise_fusedChannels (s : State) (fl : BitVec 7) : (s.raise fl).fusedChannels = s.fusedChannels := rfl
@[simp] theorem State.raise_firmwareKey (s : State) (fl : BitVec 7) : (s.raise fl).firmwareKey = s.firmwareKey := rfl
@[simp] theorem State.raise_stepping (s : State) (fl : BitVec 7) : (s.raise fl).stepping = s.stepping := rfl
@[simp] theorem State.raise_node (s : State) (fl : BitVec 7) : (s.raise fl).node = s.node := rfl
@[simp] theorem State.raise_boot (s : State) (fl : BitVec 7) : (s.raise fl).boot = s.boot := rfl
@[simp] theorem State.raise_vigilcfg (s : State) (fl : BitVec 7) : (s.raise fl).vigilcfg = s.vigilcfg := rfl
@[simp] theorem State.raise_health (s : State) (fl : BitVec 7) : (s.raise fl).health = s.health := rfl
@[simp] theorem State.raise_badChannels (s : State) (fl : BitVec 7) : (s.raise fl).badChannels = s.badChannels := rfl
@[simp] theorem State.raise_badWays (s : State) (fl : BitVec 7) : (s.raise fl).badWays = s.badWays := rfl
@[simp] theorem State.raise_banks (s : State) (fl : BitVec 7) : (s.raise fl).banks = s.banks := rfl
@[simp] theorem State.raise_ports (s : State) (fl : BitVec 7) : (s.raise fl).ports = s.ports := rfl
@[simp] theorem State.raise_lostNodes (s : State) (fl : BitVec 7) : (s.raise fl).lostNodes = s.lostNodes := rfl
@[simp] theorem State.raise_mgmt (s : State) (fl : BitVec 7) : (s.raise fl).mgmt = s.mgmt := rfl
@[simp] theorem State.raise_frozenNodes (s : State) (fl : BitVec 7) : (s.raise fl).frozenNodes = s.frozenNodes := rfl
@[simp] theorem State.raise_frozenCtxs (s : State) (fl : BitVec 7) : (s.raise fl).frozenCtxs = s.frozenCtxs := rfl
@[simp] theorem State.raise_ctxs (s : State) (fl : BitVec 7) : (s.raise fl).ctxs = s.ctxs := rfl
@[simp] theorem State.raise_departed (s : State) (fl : BitVec 7) : (s.raise fl).departed = s.departed := rfl
@[simp] theorem State.raise_sbarInsts (s : State) (fl : BitVec 7) : (s.raise fl).sbarInsts = s.sbarInsts := rfl
@[simp] theorem State.raise_blocks (s : State) (fl : BitVec 7) : (s.raise fl).blocks = s.blocks := rfl
@[simp] theorem State.raise_nextBlock (s : State) (fl : BitVec 7) : (s.raise fl).nextBlock = s.nextBlock := rfl
@[simp] theorem State.raise_nextOrder (s : State) (fl : BitVec 7) : (s.raise fl).nextOrder = s.nextOrder := rfl
@[simp] theorem State.raise_lastPlaced (s : State) (fl : BitVec 7) : (s.raise fl).lastPlaced = s.lastPlaced := rfl
@[simp] theorem State.raise_lastNode (s : State) (fl : BitVec 7) : (s.raise fl).lastNode = s.lastNode := rfl
@[simp] theorem State.raise_writes (s : State) (fl : BitVec 7) : (s.raise fl).writes = s.writes := rfl
@[simp] theorem State.raise_blk (s : State) (fl : BitVec 7) : (s.raise fl).blk = s.blk := rfl
@[simp] theorem State.raise_iss (s : State) (fl : BitVec 7) : (s.raise fl).iss = s.iss := rfl
@[simp] theorem State.raise_agenda (s : State) (fl : BitVec 7) : (s.raise fl).agenda = s.agenda := rfl
@[simp] theorem State.raise_sched (s : State) (fl : BitVec 7) : (s.raise fl).sched = s.sched := rfl
@[simp] theorem State.raise_turn (s : State) (fl : BitVec 7) : (s.raise fl).turn = s.turn := rfl
@[simp] theorem State.raise_free (s : State) (fl : BitVec 7) : (s.raise fl).free = s.free := rfl

/-! ## spoilRegion -/

@[simp] theorem State.spoilRegion_mem (s : State) : (s.spoilRegion).mem = s.mem := rfl
@[simp] theorem State.spoilRegion_units (s : State) : (s.spoilRegion).units = s.units := rfl
@[simp] theorem State.spoilRegion_written (s : State) : (s.spoilRegion).written = s.written := rfl
@[simp] theorem State.spoilRegion_late (s : State) : (s.spoilRegion).late = s.late := rfl
@[simp] theorem State.spoilRegion_settled (s : State) : (s.spoilRegion).settled = s.settled := rfl
@[simp] theorem State.spoilRegion_poison (s : State) : (s.spoilRegion).poison = s.poison := rfl
@[simp] theorem State.spoilRegion_tags (s : State) : (s.spoilRegion).tags = s.tags := rfl
@[simp] theorem State.spoilRegion_pageGen (s : State) : (s.spoilRegion).pageGen = s.pageGen := rfl
@[simp] theorem State.spoilRegion_caches (s : State) : (s.spoilRegion).caches = s.caches := rfl
@[simp] theorem State.spoilRegion_pins (s : State) : (s.spoilRegion).pins = s.pins := rfl
@[simp] theorem State.spoilRegion_keys (s : State) : (s.spoilRegion).keys = s.keys := rfl
@[simp] theorem State.spoilRegion_windows (s : State) : (s.spoilRegion).windows = s.windows := rfl
@[simp] theorem State.spoilRegion_shootdowns (s : State) : (s.spoilRegion).shootdowns = s.shootdowns := rfl
@[simp] theorem State.spoilRegion_nextShoot (s : State) : (s.spoilRegion).nextShoot = s.nextShoot := rfl
@[simp] theorem State.spoilRegion_unfenced (s : State) : (s.spoilRegion).unfenced = s.unfenced := rfl
@[simp] theorem State.spoilRegion_migrations (s : State) : (s.spoilRegion).migrations = s.migrations := rfl
@[simp] theorem State.spoilRegion_pageReplies (s : State) : (s.spoilRegion).pageReplies = s.pageReplies := rfl
@[simp] theorem State.spoilRegion_dies (s : State) : (s.spoilRegion).dies = s.dies := rfl
@[simp] theorem State.spoilRegion_cores (s : State) : (s.spoilRegion).cores = s.cores := rfl
@[simp] theorem State.spoilRegion_spareMap (s : State) : (s.spoilRegion).spareMap = s.spareMap := rfl
@[simp] theorem State.spoilRegion_fusedChannels (s : State) : (s.spoilRegion).fusedChannels = s.fusedChannels := rfl
@[simp] theorem State.spoilRegion_firmwareKey (s : State) : (s.spoilRegion).firmwareKey = s.firmwareKey := rfl
@[simp] theorem State.spoilRegion_stepping (s : State) : (s.spoilRegion).stepping = s.stepping := rfl
@[simp] theorem State.spoilRegion_node (s : State) : (s.spoilRegion).node = s.node := rfl
@[simp] theorem State.spoilRegion_boot (s : State) : (s.spoilRegion).boot = s.boot := rfl
@[simp] theorem State.spoilRegion_vigilcfg (s : State) : (s.spoilRegion).vigilcfg = s.vigilcfg := rfl
@[simp] theorem State.spoilRegion_health (s : State) : (s.spoilRegion).health = s.health := rfl
@[simp] theorem State.spoilRegion_badChannels (s : State) : (s.spoilRegion).badChannels = s.badChannels := rfl
@[simp] theorem State.spoilRegion_badWays (s : State) : (s.spoilRegion).badWays = s.badWays := rfl
@[simp] theorem State.spoilRegion_banks (s : State) : (s.spoilRegion).banks = s.banks := rfl
@[simp] theorem State.spoilRegion_ports (s : State) : (s.spoilRegion).ports = s.ports := rfl
@[simp] theorem State.spoilRegion_lostNodes (s : State) : (s.spoilRegion).lostNodes = s.lostNodes := rfl
@[simp] theorem State.spoilRegion_mgmt (s : State) : (s.spoilRegion).mgmt = s.mgmt := rfl
@[simp] theorem State.spoilRegion_frozenNodes (s : State) : (s.spoilRegion).frozenNodes = s.frozenNodes := rfl
@[simp] theorem State.spoilRegion_frozenCtxs (s : State) : (s.spoilRegion).frozenCtxs = s.frozenCtxs := rfl
@[simp] theorem State.spoilRegion_ctxs (s : State) : (s.spoilRegion).ctxs = s.ctxs := rfl
@[simp] theorem State.spoilRegion_departed (s : State) : (s.spoilRegion).departed = s.departed := rfl
@[simp] theorem State.spoilRegion_sbarInsts (s : State) : (s.spoilRegion).sbarInsts = s.sbarInsts := rfl
@[simp] theorem State.spoilRegion_blocks (s : State) : (s.spoilRegion).blocks = s.blocks := rfl
@[simp] theorem State.spoilRegion_nextBlock (s : State) : (s.spoilRegion).nextBlock = s.nextBlock := rfl
@[simp] theorem State.spoilRegion_nextOrder (s : State) : (s.spoilRegion).nextOrder = s.nextOrder := rfl
@[simp] theorem State.spoilRegion_lastPlaced (s : State) : (s.spoilRegion).lastPlaced = s.lastPlaced := rfl
@[simp] theorem State.spoilRegion_lastNode (s : State) : (s.spoilRegion).lastNode = s.lastNode := rfl
@[simp] theorem State.spoilRegion_writes (s : State) : (s.spoilRegion).writes = s.writes := rfl
@[simp] theorem State.spoilRegion_blk (s : State) : (s.spoilRegion).blk = s.blk := rfl
@[simp] theorem State.spoilRegion_iss (s : State) : (s.spoilRegion).iss = s.iss := rfl
@[simp] theorem State.spoilRegion_agenda (s : State) : (s.spoilRegion).agenda = s.agenda := rfl
@[simp] theorem State.spoilRegion_sched (s : State) : (s.spoilRegion).sched = s.sched := rfl
@[simp] theorem State.spoilRegion_turn (s : State) : (s.spoilRegion).turn = s.turn := rfl
@[simp] theorem State.spoilRegion_free (s : State) : (s.spoilRegion).free = s.free := rfl

/-! ## push -/

@[simp] theorem State.push_mem (s : State) (i : Instr) : (s.push i).mem = s.mem := rfl
@[simp] theorem State.push_units (s : State) (i : Instr) : (s.push i).units = s.units := rfl
@[simp] theorem State.push_written (s : State) (i : Instr) : (s.push i).written = s.written := rfl
@[simp] theorem State.push_late (s : State) (i : Instr) : (s.push i).late = s.late := rfl
@[simp] theorem State.push_settled (s : State) (i : Instr) : (s.push i).settled = s.settled := rfl
@[simp] theorem State.push_poison (s : State) (i : Instr) : (s.push i).poison = s.poison := rfl
@[simp] theorem State.push_tags (s : State) (i : Instr) : (s.push i).tags = s.tags := rfl
@[simp] theorem State.push_pageGen (s : State) (i : Instr) : (s.push i).pageGen = s.pageGen := rfl
@[simp] theorem State.push_caches (s : State) (i : Instr) : (s.push i).caches = s.caches := rfl
@[simp] theorem State.push_pins (s : State) (i : Instr) : (s.push i).pins = s.pins := rfl
@[simp] theorem State.push_keys (s : State) (i : Instr) : (s.push i).keys = s.keys := rfl
@[simp] theorem State.push_windows (s : State) (i : Instr) : (s.push i).windows = s.windows := rfl
@[simp] theorem State.push_shootdowns (s : State) (i : Instr) : (s.push i).shootdowns = s.shootdowns := rfl
@[simp] theorem State.push_nextShoot (s : State) (i : Instr) : (s.push i).nextShoot = s.nextShoot := rfl
@[simp] theorem State.push_unfenced (s : State) (i : Instr) : (s.push i).unfenced = s.unfenced := rfl
@[simp] theorem State.push_migrations (s : State) (i : Instr) : (s.push i).migrations = s.migrations := rfl
@[simp] theorem State.push_pageReplies (s : State) (i : Instr) : (s.push i).pageReplies = s.pageReplies := rfl
@[simp] theorem State.push_dies (s : State) (i : Instr) : (s.push i).dies = s.dies := rfl
@[simp] theorem State.push_cores (s : State) (i : Instr) : (s.push i).cores = s.cores := rfl
@[simp] theorem State.push_spareMap (s : State) (i : Instr) : (s.push i).spareMap = s.spareMap := rfl
@[simp] theorem State.push_fusedChannels (s : State) (i : Instr) : (s.push i).fusedChannels = s.fusedChannels := rfl
@[simp] theorem State.push_firmwareKey (s : State) (i : Instr) : (s.push i).firmwareKey = s.firmwareKey := rfl
@[simp] theorem State.push_stepping (s : State) (i : Instr) : (s.push i).stepping = s.stepping := rfl
@[simp] theorem State.push_node (s : State) (i : Instr) : (s.push i).node = s.node := rfl
@[simp] theorem State.push_boot (s : State) (i : Instr) : (s.push i).boot = s.boot := rfl
@[simp] theorem State.push_vigilcfg (s : State) (i : Instr) : (s.push i).vigilcfg = s.vigilcfg := rfl
@[simp] theorem State.push_health (s : State) (i : Instr) : (s.push i).health = s.health := rfl
@[simp] theorem State.push_badChannels (s : State) (i : Instr) : (s.push i).badChannels = s.badChannels := rfl
@[simp] theorem State.push_badWays (s : State) (i : Instr) : (s.push i).badWays = s.badWays := rfl
@[simp] theorem State.push_banks (s : State) (i : Instr) : (s.push i).banks = s.banks := rfl
@[simp] theorem State.push_ports (s : State) (i : Instr) : (s.push i).ports = s.ports := rfl
@[simp] theorem State.push_lostNodes (s : State) (i : Instr) : (s.push i).lostNodes = s.lostNodes := rfl
@[simp] theorem State.push_mgmt (s : State) (i : Instr) : (s.push i).mgmt = s.mgmt := rfl
@[simp] theorem State.push_frozenNodes (s : State) (i : Instr) : (s.push i).frozenNodes = s.frozenNodes := rfl
@[simp] theorem State.push_frozenCtxs (s : State) (i : Instr) : (s.push i).frozenCtxs = s.frozenCtxs := rfl
@[simp] theorem State.push_ctxs (s : State) (i : Instr) : (s.push i).ctxs = s.ctxs := rfl
@[simp] theorem State.push_departed (s : State) (i : Instr) : (s.push i).departed = s.departed := rfl
@[simp] theorem State.push_sbarInsts (s : State) (i : Instr) : (s.push i).sbarInsts = s.sbarInsts := rfl
@[simp] theorem State.push_blocks (s : State) (i : Instr) : (s.push i).blocks = s.blocks := rfl
@[simp] theorem State.push_nextBlock (s : State) (i : Instr) : (s.push i).nextBlock = s.nextBlock := rfl
@[simp] theorem State.push_nextOrder (s : State) (i : Instr) : (s.push i).nextOrder = s.nextOrder := rfl
@[simp] theorem State.push_lastPlaced (s : State) (i : Instr) : (s.push i).lastPlaced = s.lastPlaced := rfl
@[simp] theorem State.push_lastNode (s : State) (i : Instr) : (s.push i).lastNode = s.lastNode := rfl
@[simp] theorem State.push_writes (s : State) (i : Instr) : (s.push i).writes = s.writes := rfl
@[simp] theorem State.push_blk (s : State) (i : Instr) : (s.push i).blk = s.blk := rfl
@[simp] theorem State.push_wp (s : State) (i : Instr) : (s.push i).wp = s.wp := rfl
@[simp] theorem State.push_iss (s : State) (i : Instr) : (s.push i).iss = s.iss := rfl
@[simp] theorem State.push_sched (s : State) (i : Instr) : (s.push i).sched = s.sched := rfl
@[simp] theorem State.push_turn (s : State) (i : Instr) : (s.push i).turn = s.turn := rfl
@[simp] theorem State.push_free (s : State) (i : Instr) : (s.push i).free = s.free := rfl

/-! ## modCtx -/

@[simp] theorem State.modCtx_mem (s : State) (i : Nat) (g : Ctx → Ctx) : (s.modCtx i g).mem = s.mem := rfl
@[simp] theorem State.modCtx_units (s : State) (i : Nat) (g : Ctx → Ctx) : (s.modCtx i g).units = s.units := rfl
@[simp] theorem State.modCtx_written (s : State) (i : Nat) (g : Ctx → Ctx) : (s.modCtx i g).written = s.written := rfl
@[simp] theorem State.modCtx_late (s : State) (i : Nat) (g : Ctx → Ctx) : (s.modCtx i g).late = s.late := rfl
@[simp] theorem State.modCtx_settled (s : State) (i : Nat) (g : Ctx → Ctx) : (s.modCtx i g).settled = s.settled := rfl
@[simp] theorem State.modCtx_poison (s : State) (i : Nat) (g : Ctx → Ctx) : (s.modCtx i g).poison = s.poison := rfl
@[simp] theorem State.modCtx_tags (s : State) (i : Nat) (g : Ctx → Ctx) : (s.modCtx i g).tags = s.tags := rfl
@[simp] theorem State.modCtx_pageGen (s : State) (i : Nat) (g : Ctx → Ctx) : (s.modCtx i g).pageGen = s.pageGen := rfl
@[simp] theorem State.modCtx_caches (s : State) (i : Nat) (g : Ctx → Ctx) : (s.modCtx i g).caches = s.caches := rfl
@[simp] theorem State.modCtx_pins (s : State) (i : Nat) (g : Ctx → Ctx) : (s.modCtx i g).pins = s.pins := rfl
@[simp] theorem State.modCtx_keys (s : State) (i : Nat) (g : Ctx → Ctx) : (s.modCtx i g).keys = s.keys := rfl
@[simp] theorem State.modCtx_windows (s : State) (i : Nat) (g : Ctx → Ctx) : (s.modCtx i g).windows = s.windows := rfl
@[simp] theorem State.modCtx_shootdowns (s : State) (i : Nat) (g : Ctx → Ctx) : (s.modCtx i g).shootdowns = s.shootdowns := rfl
@[simp] theorem State.modCtx_nextShoot (s : State) (i : Nat) (g : Ctx → Ctx) : (s.modCtx i g).nextShoot = s.nextShoot := rfl
@[simp] theorem State.modCtx_unfenced (s : State) (i : Nat) (g : Ctx → Ctx) : (s.modCtx i g).unfenced = s.unfenced := rfl
@[simp] theorem State.modCtx_migrations (s : State) (i : Nat) (g : Ctx → Ctx) : (s.modCtx i g).migrations = s.migrations := rfl
@[simp] theorem State.modCtx_pageReplies (s : State) (i : Nat) (g : Ctx → Ctx) : (s.modCtx i g).pageReplies = s.pageReplies := rfl
@[simp] theorem State.modCtx_dies (s : State) (i : Nat) (g : Ctx → Ctx) : (s.modCtx i g).dies = s.dies := rfl
@[simp] theorem State.modCtx_cores (s : State) (i : Nat) (g : Ctx → Ctx) : (s.modCtx i g).cores = s.cores := rfl
@[simp] theorem State.modCtx_spareMap (s : State) (i : Nat) (g : Ctx → Ctx) : (s.modCtx i g).spareMap = s.spareMap := rfl
@[simp] theorem State.modCtx_fusedChannels (s : State) (i : Nat) (g : Ctx → Ctx) : (s.modCtx i g).fusedChannels = s.fusedChannels := rfl
@[simp] theorem State.modCtx_firmwareKey (s : State) (i : Nat) (g : Ctx → Ctx) : (s.modCtx i g).firmwareKey = s.firmwareKey := rfl
@[simp] theorem State.modCtx_stepping (s : State) (i : Nat) (g : Ctx → Ctx) : (s.modCtx i g).stepping = s.stepping := rfl
@[simp] theorem State.modCtx_node (s : State) (i : Nat) (g : Ctx → Ctx) : (s.modCtx i g).node = s.node := rfl
@[simp] theorem State.modCtx_boot (s : State) (i : Nat) (g : Ctx → Ctx) : (s.modCtx i g).boot = s.boot := rfl
@[simp] theorem State.modCtx_vigilcfg (s : State) (i : Nat) (g : Ctx → Ctx) : (s.modCtx i g).vigilcfg = s.vigilcfg := rfl
@[simp] theorem State.modCtx_health (s : State) (i : Nat) (g : Ctx → Ctx) : (s.modCtx i g).health = s.health := rfl
@[simp] theorem State.modCtx_badChannels (s : State) (i : Nat) (g : Ctx → Ctx) : (s.modCtx i g).badChannels = s.badChannels := rfl
@[simp] theorem State.modCtx_badWays (s : State) (i : Nat) (g : Ctx → Ctx) : (s.modCtx i g).badWays = s.badWays := rfl
@[simp] theorem State.modCtx_banks (s : State) (i : Nat) (g : Ctx → Ctx) : (s.modCtx i g).banks = s.banks := rfl
@[simp] theorem State.modCtx_ports (s : State) (i : Nat) (g : Ctx → Ctx) : (s.modCtx i g).ports = s.ports := rfl
@[simp] theorem State.modCtx_lostNodes (s : State) (i : Nat) (g : Ctx → Ctx) : (s.modCtx i g).lostNodes = s.lostNodes := rfl
@[simp] theorem State.modCtx_mgmt (s : State) (i : Nat) (g : Ctx → Ctx) : (s.modCtx i g).mgmt = s.mgmt := rfl
@[simp] theorem State.modCtx_frozenNodes (s : State) (i : Nat) (g : Ctx → Ctx) : (s.modCtx i g).frozenNodes = s.frozenNodes := rfl
@[simp] theorem State.modCtx_frozenCtxs (s : State) (i : Nat) (g : Ctx → Ctx) : (s.modCtx i g).frozenCtxs = s.frozenCtxs := rfl
@[simp] theorem State.modCtx_departed (s : State) (i : Nat) (g : Ctx → Ctx) : (s.modCtx i g).departed = s.departed := rfl
@[simp] theorem State.modCtx_sbarInsts (s : State) (i : Nat) (g : Ctx → Ctx) : (s.modCtx i g).sbarInsts = s.sbarInsts := rfl
@[simp] theorem State.modCtx_blocks (s : State) (i : Nat) (g : Ctx → Ctx) : (s.modCtx i g).blocks = s.blocks := rfl
@[simp] theorem State.modCtx_nextBlock (s : State) (i : Nat) (g : Ctx → Ctx) : (s.modCtx i g).nextBlock = s.nextBlock := rfl
@[simp] theorem State.modCtx_nextOrder (s : State) (i : Nat) (g : Ctx → Ctx) : (s.modCtx i g).nextOrder = s.nextOrder := rfl
@[simp] theorem State.modCtx_lastPlaced (s : State) (i : Nat) (g : Ctx → Ctx) : (s.modCtx i g).lastPlaced = s.lastPlaced := rfl
@[simp] theorem State.modCtx_lastNode (s : State) (i : Nat) (g : Ctx → Ctx) : (s.modCtx i g).lastNode = s.lastNode := rfl
@[simp] theorem State.modCtx_writes (s : State) (i : Nat) (g : Ctx → Ctx) : (s.modCtx i g).writes = s.writes := rfl
@[simp] theorem State.modCtx_blk (s : State) (i : Nat) (g : Ctx → Ctx) : (s.modCtx i g).blk = s.blk := rfl
@[simp] theorem State.modCtx_wp (s : State) (i : Nat) (g : Ctx → Ctx) : (s.modCtx i g).wp = s.wp := rfl
@[simp] theorem State.modCtx_iss (s : State) (i : Nat) (g : Ctx → Ctx) : (s.modCtx i g).iss = s.iss := rfl
@[simp] theorem State.modCtx_agenda (s : State) (i : Nat) (g : Ctx → Ctx) : (s.modCtx i g).agenda = s.agenda := rfl
@[simp] theorem State.modCtx_sched (s : State) (i : Nat) (g : Ctx → Ctx) : (s.modCtx i g).sched = s.sched := rfl
@[simp] theorem State.modCtx_turn (s : State) (i : Nat) (g : Ctx → Ctx) : (s.modCtx i g).turn = s.turn := rfl
@[simp] theorem State.modCtx_free (s : State) (i : Nat) (g : Ctx → Ctx) : (s.modCtx i g).free = s.free := rfl

/-! ## modNode -/

@[simp] theorem State.modNode_mem (s : State) (i k : Nat) (g : Node → Node) : (s.modNode i k g).mem = s.mem := rfl
@[simp] theorem State.modNode_units (s : State) (i k : Nat) (g : Node → Node) : (s.modNode i k g).units = s.units := rfl
@[simp] theorem State.modNode_written (s : State) (i k : Nat) (g : Node → Node) : (s.modNode i k g).written = s.written := rfl
@[simp] theorem State.modNode_late (s : State) (i k : Nat) (g : Node → Node) : (s.modNode i k g).late = s.late := rfl
@[simp] theorem State.modNode_settled (s : State) (i k : Nat) (g : Node → Node) : (s.modNode i k g).settled = s.settled := rfl
@[simp] theorem State.modNode_poison (s : State) (i k : Nat) (g : Node → Node) : (s.modNode i k g).poison = s.poison := rfl
@[simp] theorem State.modNode_tags (s : State) (i k : Nat) (g : Node → Node) : (s.modNode i k g).tags = s.tags := rfl
@[simp] theorem State.modNode_pageGen (s : State) (i k : Nat) (g : Node → Node) : (s.modNode i k g).pageGen = s.pageGen := rfl
@[simp] theorem State.modNode_caches (s : State) (i k : Nat) (g : Node → Node) : (s.modNode i k g).caches = s.caches := rfl
@[simp] theorem State.modNode_pins (s : State) (i k : Nat) (g : Node → Node) : (s.modNode i k g).pins = s.pins := rfl
@[simp] theorem State.modNode_keys (s : State) (i k : Nat) (g : Node → Node) : (s.modNode i k g).keys = s.keys := rfl
@[simp] theorem State.modNode_windows (s : State) (i k : Nat) (g : Node → Node) : (s.modNode i k g).windows = s.windows := rfl
@[simp] theorem State.modNode_shootdowns (s : State) (i k : Nat) (g : Node → Node) : (s.modNode i k g).shootdowns = s.shootdowns := rfl
@[simp] theorem State.modNode_nextShoot (s : State) (i k : Nat) (g : Node → Node) : (s.modNode i k g).nextShoot = s.nextShoot := rfl
@[simp] theorem State.modNode_unfenced (s : State) (i k : Nat) (g : Node → Node) : (s.modNode i k g).unfenced = s.unfenced := rfl
@[simp] theorem State.modNode_migrations (s : State) (i k : Nat) (g : Node → Node) : (s.modNode i k g).migrations = s.migrations := rfl
@[simp] theorem State.modNode_pageReplies (s : State) (i k : Nat) (g : Node → Node) : (s.modNode i k g).pageReplies = s.pageReplies := rfl
@[simp] theorem State.modNode_dies (s : State) (i k : Nat) (g : Node → Node) : (s.modNode i k g).dies = s.dies := rfl
@[simp] theorem State.modNode_cores (s : State) (i k : Nat) (g : Node → Node) : (s.modNode i k g).cores = s.cores := rfl
@[simp] theorem State.modNode_spareMap (s : State) (i k : Nat) (g : Node → Node) : (s.modNode i k g).spareMap = s.spareMap := rfl
@[simp] theorem State.modNode_fusedChannels (s : State) (i k : Nat) (g : Node → Node) : (s.modNode i k g).fusedChannels = s.fusedChannels := rfl
@[simp] theorem State.modNode_firmwareKey (s : State) (i k : Nat) (g : Node → Node) : (s.modNode i k g).firmwareKey = s.firmwareKey := rfl
@[simp] theorem State.modNode_stepping (s : State) (i k : Nat) (g : Node → Node) : (s.modNode i k g).stepping = s.stepping := rfl
@[simp] theorem State.modNode_node (s : State) (i k : Nat) (g : Node → Node) : (s.modNode i k g).node = s.node := rfl
@[simp] theorem State.modNode_boot (s : State) (i k : Nat) (g : Node → Node) : (s.modNode i k g).boot = s.boot := rfl
@[simp] theorem State.modNode_vigilcfg (s : State) (i k : Nat) (g : Node → Node) : (s.modNode i k g).vigilcfg = s.vigilcfg := rfl
@[simp] theorem State.modNode_health (s : State) (i k : Nat) (g : Node → Node) : (s.modNode i k g).health = s.health := rfl
@[simp] theorem State.modNode_badChannels (s : State) (i k : Nat) (g : Node → Node) : (s.modNode i k g).badChannels = s.badChannels := rfl
@[simp] theorem State.modNode_badWays (s : State) (i k : Nat) (g : Node → Node) : (s.modNode i k g).badWays = s.badWays := rfl
@[simp] theorem State.modNode_banks (s : State) (i k : Nat) (g : Node → Node) : (s.modNode i k g).banks = s.banks := rfl
@[simp] theorem State.modNode_ports (s : State) (i k : Nat) (g : Node → Node) : (s.modNode i k g).ports = s.ports := rfl
@[simp] theorem State.modNode_lostNodes (s : State) (i k : Nat) (g : Node → Node) : (s.modNode i k g).lostNodes = s.lostNodes := rfl
@[simp] theorem State.modNode_mgmt (s : State) (i k : Nat) (g : Node → Node) : (s.modNode i k g).mgmt = s.mgmt := rfl
@[simp] theorem State.modNode_frozenNodes (s : State) (i k : Nat) (g : Node → Node) : (s.modNode i k g).frozenNodes = s.frozenNodes := rfl
@[simp] theorem State.modNode_frozenCtxs (s : State) (i k : Nat) (g : Node → Node) : (s.modNode i k g).frozenCtxs = s.frozenCtxs := rfl
@[simp] theorem State.modNode_departed (s : State) (i k : Nat) (g : Node → Node) : (s.modNode i k g).departed = s.departed := rfl
@[simp] theorem State.modNode_sbarInsts (s : State) (i k : Nat) (g : Node → Node) : (s.modNode i k g).sbarInsts = s.sbarInsts := rfl
@[simp] theorem State.modNode_blocks (s : State) (i k : Nat) (g : Node → Node) : (s.modNode i k g).blocks = s.blocks := rfl
@[simp] theorem State.modNode_nextBlock (s : State) (i k : Nat) (g : Node → Node) : (s.modNode i k g).nextBlock = s.nextBlock := rfl
@[simp] theorem State.modNode_nextOrder (s : State) (i k : Nat) (g : Node → Node) : (s.modNode i k g).nextOrder = s.nextOrder := rfl
@[simp] theorem State.modNode_lastPlaced (s : State) (i k : Nat) (g : Node → Node) : (s.modNode i k g).lastPlaced = s.lastPlaced := rfl
@[simp] theorem State.modNode_lastNode (s : State) (i k : Nat) (g : Node → Node) : (s.modNode i k g).lastNode = s.lastNode := rfl
@[simp] theorem State.modNode_writes (s : State) (i k : Nat) (g : Node → Node) : (s.modNode i k g).writes = s.writes := rfl
@[simp] theorem State.modNode_blk (s : State) (i k : Nat) (g : Node → Node) : (s.modNode i k g).blk = s.blk := rfl
@[simp] theorem State.modNode_wp (s : State) (i k : Nat) (g : Node → Node) : (s.modNode i k g).wp = s.wp := rfl
@[simp] theorem State.modNode_iss (s : State) (i k : Nat) (g : Node → Node) : (s.modNode i k g).iss = s.iss := rfl
@[simp] theorem State.modNode_agenda (s : State) (i k : Nat) (g : Node → Node) : (s.modNode i k g).agenda = s.agenda := rfl
@[simp] theorem State.modNode_sched (s : State) (i k : Nat) (g : Node → Node) : (s.modNode i k g).sched = s.sched := rfl
@[simp] theorem State.modNode_turn (s : State) (i k : Nat) (g : Node → Node) : (s.modNode i k g).turn = s.turn := rfl
@[simp] theorem State.modNode_free (s : State) (i k : Nat) (g : Node → Node) : (s.modNode i k g).free = s.free := rfl

/-! ## modCore -/

@[simp] theorem State.modCore_mem (s : State) (i : Nat) (g : Core → Core) : (s.modCore i g).mem = s.mem := rfl
@[simp] theorem State.modCore_units (s : State) (i : Nat) (g : Core → Core) : (s.modCore i g).units = s.units := rfl
@[simp] theorem State.modCore_written (s : State) (i : Nat) (g : Core → Core) : (s.modCore i g).written = s.written := rfl
@[simp] theorem State.modCore_late (s : State) (i : Nat) (g : Core → Core) : (s.modCore i g).late = s.late := rfl
@[simp] theorem State.modCore_settled (s : State) (i : Nat) (g : Core → Core) : (s.modCore i g).settled = s.settled := rfl
@[simp] theorem State.modCore_poison (s : State) (i : Nat) (g : Core → Core) : (s.modCore i g).poison = s.poison := rfl
@[simp] theorem State.modCore_tags (s : State) (i : Nat) (g : Core → Core) : (s.modCore i g).tags = s.tags := rfl
@[simp] theorem State.modCore_pageGen (s : State) (i : Nat) (g : Core → Core) : (s.modCore i g).pageGen = s.pageGen := rfl
@[simp] theorem State.modCore_caches (s : State) (i : Nat) (g : Core → Core) : (s.modCore i g).caches = s.caches := rfl
@[simp] theorem State.modCore_pins (s : State) (i : Nat) (g : Core → Core) : (s.modCore i g).pins = s.pins := rfl
@[simp] theorem State.modCore_keys (s : State) (i : Nat) (g : Core → Core) : (s.modCore i g).keys = s.keys := rfl
@[simp] theorem State.modCore_windows (s : State) (i : Nat) (g : Core → Core) : (s.modCore i g).windows = s.windows := rfl
@[simp] theorem State.modCore_shootdowns (s : State) (i : Nat) (g : Core → Core) : (s.modCore i g).shootdowns = s.shootdowns := rfl
@[simp] theorem State.modCore_nextShoot (s : State) (i : Nat) (g : Core → Core) : (s.modCore i g).nextShoot = s.nextShoot := rfl
@[simp] theorem State.modCore_unfenced (s : State) (i : Nat) (g : Core → Core) : (s.modCore i g).unfenced = s.unfenced := rfl
@[simp] theorem State.modCore_migrations (s : State) (i : Nat) (g : Core → Core) : (s.modCore i g).migrations = s.migrations := rfl
@[simp] theorem State.modCore_pageReplies (s : State) (i : Nat) (g : Core → Core) : (s.modCore i g).pageReplies = s.pageReplies := rfl
@[simp] theorem State.modCore_dies (s : State) (i : Nat) (g : Core → Core) : (s.modCore i g).dies = s.dies := rfl
@[simp] theorem State.modCore_spareMap (s : State) (i : Nat) (g : Core → Core) : (s.modCore i g).spareMap = s.spareMap := rfl
@[simp] theorem State.modCore_fusedChannels (s : State) (i : Nat) (g : Core → Core) : (s.modCore i g).fusedChannels = s.fusedChannels := rfl
@[simp] theorem State.modCore_firmwareKey (s : State) (i : Nat) (g : Core → Core) : (s.modCore i g).firmwareKey = s.firmwareKey := rfl
@[simp] theorem State.modCore_stepping (s : State) (i : Nat) (g : Core → Core) : (s.modCore i g).stepping = s.stepping := rfl
@[simp] theorem State.modCore_node (s : State) (i : Nat) (g : Core → Core) : (s.modCore i g).node = s.node := rfl
@[simp] theorem State.modCore_boot (s : State) (i : Nat) (g : Core → Core) : (s.modCore i g).boot = s.boot := rfl
@[simp] theorem State.modCore_vigilcfg (s : State) (i : Nat) (g : Core → Core) : (s.modCore i g).vigilcfg = s.vigilcfg := rfl
@[simp] theorem State.modCore_health (s : State) (i : Nat) (g : Core → Core) : (s.modCore i g).health = s.health := rfl
@[simp] theorem State.modCore_badChannels (s : State) (i : Nat) (g : Core → Core) : (s.modCore i g).badChannels = s.badChannels := rfl
@[simp] theorem State.modCore_badWays (s : State) (i : Nat) (g : Core → Core) : (s.modCore i g).badWays = s.badWays := rfl
@[simp] theorem State.modCore_banks (s : State) (i : Nat) (g : Core → Core) : (s.modCore i g).banks = s.banks := rfl
@[simp] theorem State.modCore_ports (s : State) (i : Nat) (g : Core → Core) : (s.modCore i g).ports = s.ports := rfl
@[simp] theorem State.modCore_lostNodes (s : State) (i : Nat) (g : Core → Core) : (s.modCore i g).lostNodes = s.lostNodes := rfl
@[simp] theorem State.modCore_mgmt (s : State) (i : Nat) (g : Core → Core) : (s.modCore i g).mgmt = s.mgmt := rfl
@[simp] theorem State.modCore_frozenNodes (s : State) (i : Nat) (g : Core → Core) : (s.modCore i g).frozenNodes = s.frozenNodes := rfl
@[simp] theorem State.modCore_frozenCtxs (s : State) (i : Nat) (g : Core → Core) : (s.modCore i g).frozenCtxs = s.frozenCtxs := rfl
@[simp] theorem State.modCore_ctxs (s : State) (i : Nat) (g : Core → Core) : (s.modCore i g).ctxs = s.ctxs := rfl
@[simp] theorem State.modCore_departed (s : State) (i : Nat) (g : Core → Core) : (s.modCore i g).departed = s.departed := rfl
@[simp] theorem State.modCore_sbarInsts (s : State) (i : Nat) (g : Core → Core) : (s.modCore i g).sbarInsts = s.sbarInsts := rfl
@[simp] theorem State.modCore_blocks (s : State) (i : Nat) (g : Core → Core) : (s.modCore i g).blocks = s.blocks := rfl
@[simp] theorem State.modCore_nextBlock (s : State) (i : Nat) (g : Core → Core) : (s.modCore i g).nextBlock = s.nextBlock := rfl
@[simp] theorem State.modCore_nextOrder (s : State) (i : Nat) (g : Core → Core) : (s.modCore i g).nextOrder = s.nextOrder := rfl
@[simp] theorem State.modCore_lastPlaced (s : State) (i : Nat) (g : Core → Core) : (s.modCore i g).lastPlaced = s.lastPlaced := rfl
@[simp] theorem State.modCore_lastNode (s : State) (i : Nat) (g : Core → Core) : (s.modCore i g).lastNode = s.lastNode := rfl
@[simp] theorem State.modCore_writes (s : State) (i : Nat) (g : Core → Core) : (s.modCore i g).writes = s.writes := rfl
@[simp] theorem State.modCore_blk (s : State) (i : Nat) (g : Core → Core) : (s.modCore i g).blk = s.blk := rfl
@[simp] theorem State.modCore_wp (s : State) (i : Nat) (g : Core → Core) : (s.modCore i g).wp = s.wp := rfl
@[simp] theorem State.modCore_iss (s : State) (i : Nat) (g : Core → Core) : (s.modCore i g).iss = s.iss := rfl
@[simp] theorem State.modCore_agenda (s : State) (i : Nat) (g : Core → Core) : (s.modCore i g).agenda = s.agenda := rfl
@[simp] theorem State.modCore_sched (s : State) (i : Nat) (g : Core → Core) : (s.modCore i g).sched = s.sched := rfl
@[simp] theorem State.modCore_turn (s : State) (i : Nat) (g : Core → Core) : (s.modCore i g).turn = s.turn := rfl
@[simp] theorem State.modCore_free (s : State) (i : Nat) (g : Core → Core) : (s.modCore i g).free = s.free := rfl

/-! ## putCompact -/

@[simp] theorem State.putCompact_mem (s : State) (d : Nat) (x : RegVal) : (s.putCompact d x).mem = s.mem := rfl
@[simp] theorem State.putCompact_units (s : State) (d : Nat) (x : RegVal) : (s.putCompact d x).units = s.units := rfl
@[simp] theorem State.putCompact_written (s : State) (d : Nat) (x : RegVal) : (s.putCompact d x).written = s.written := rfl
@[simp] theorem State.putCompact_late (s : State) (d : Nat) (x : RegVal) : (s.putCompact d x).late = s.late := rfl
@[simp] theorem State.putCompact_settled (s : State) (d : Nat) (x : RegVal) : (s.putCompact d x).settled = s.settled := rfl
@[simp] theorem State.putCompact_poison (s : State) (d : Nat) (x : RegVal) : (s.putCompact d x).poison = s.poison := rfl
@[simp] theorem State.putCompact_tags (s : State) (d : Nat) (x : RegVal) : (s.putCompact d x).tags = s.tags := rfl
@[simp] theorem State.putCompact_pageGen (s : State) (d : Nat) (x : RegVal) : (s.putCompact d x).pageGen = s.pageGen := rfl
@[simp] theorem State.putCompact_caches (s : State) (d : Nat) (x : RegVal) : (s.putCompact d x).caches = s.caches := rfl
@[simp] theorem State.putCompact_pins (s : State) (d : Nat) (x : RegVal) : (s.putCompact d x).pins = s.pins := rfl
@[simp] theorem State.putCompact_keys (s : State) (d : Nat) (x : RegVal) : (s.putCompact d x).keys = s.keys := rfl
@[simp] theorem State.putCompact_windows (s : State) (d : Nat) (x : RegVal) : (s.putCompact d x).windows = s.windows := rfl
@[simp] theorem State.putCompact_shootdowns (s : State) (d : Nat) (x : RegVal) : (s.putCompact d x).shootdowns = s.shootdowns := rfl
@[simp] theorem State.putCompact_nextShoot (s : State) (d : Nat) (x : RegVal) : (s.putCompact d x).nextShoot = s.nextShoot := rfl
@[simp] theorem State.putCompact_unfenced (s : State) (d : Nat) (x : RegVal) : (s.putCompact d x).unfenced = s.unfenced := rfl
@[simp] theorem State.putCompact_migrations (s : State) (d : Nat) (x : RegVal) : (s.putCompact d x).migrations = s.migrations := rfl
@[simp] theorem State.putCompact_pageReplies (s : State) (d : Nat) (x : RegVal) : (s.putCompact d x).pageReplies = s.pageReplies := rfl
@[simp] theorem State.putCompact_dies (s : State) (d : Nat) (x : RegVal) : (s.putCompact d x).dies = s.dies := rfl
@[simp] theorem State.putCompact_cores (s : State) (d : Nat) (x : RegVal) : (s.putCompact d x).cores = s.cores := rfl
@[simp] theorem State.putCompact_spareMap (s : State) (d : Nat) (x : RegVal) : (s.putCompact d x).spareMap = s.spareMap := rfl
@[simp] theorem State.putCompact_fusedChannels (s : State) (d : Nat) (x : RegVal) : (s.putCompact d x).fusedChannels = s.fusedChannels := rfl
@[simp] theorem State.putCompact_firmwareKey (s : State) (d : Nat) (x : RegVal) : (s.putCompact d x).firmwareKey = s.firmwareKey := rfl
@[simp] theorem State.putCompact_stepping (s : State) (d : Nat) (x : RegVal) : (s.putCompact d x).stepping = s.stepping := rfl
@[simp] theorem State.putCompact_node (s : State) (d : Nat) (x : RegVal) : (s.putCompact d x).node = s.node := rfl
@[simp] theorem State.putCompact_boot (s : State) (d : Nat) (x : RegVal) : (s.putCompact d x).boot = s.boot := rfl
@[simp] theorem State.putCompact_vigilcfg (s : State) (d : Nat) (x : RegVal) : (s.putCompact d x).vigilcfg = s.vigilcfg := rfl
@[simp] theorem State.putCompact_health (s : State) (d : Nat) (x : RegVal) : (s.putCompact d x).health = s.health := rfl
@[simp] theorem State.putCompact_badChannels (s : State) (d : Nat) (x : RegVal) : (s.putCompact d x).badChannels = s.badChannels := rfl
@[simp] theorem State.putCompact_badWays (s : State) (d : Nat) (x : RegVal) : (s.putCompact d x).badWays = s.badWays := rfl
@[simp] theorem State.putCompact_banks (s : State) (d : Nat) (x : RegVal) : (s.putCompact d x).banks = s.banks := rfl
@[simp] theorem State.putCompact_ports (s : State) (d : Nat) (x : RegVal) : (s.putCompact d x).ports = s.ports := rfl
@[simp] theorem State.putCompact_lostNodes (s : State) (d : Nat) (x : RegVal) : (s.putCompact d x).lostNodes = s.lostNodes := rfl
@[simp] theorem State.putCompact_mgmt (s : State) (d : Nat) (x : RegVal) : (s.putCompact d x).mgmt = s.mgmt := rfl
@[simp] theorem State.putCompact_frozenNodes (s : State) (d : Nat) (x : RegVal) : (s.putCompact d x).frozenNodes = s.frozenNodes := rfl
@[simp] theorem State.putCompact_frozenCtxs (s : State) (d : Nat) (x : RegVal) : (s.putCompact d x).frozenCtxs = s.frozenCtxs := rfl
@[simp] theorem State.putCompact_ctxs (s : State) (d : Nat) (x : RegVal) : (s.putCompact d x).ctxs = s.ctxs := rfl
@[simp] theorem State.putCompact_departed (s : State) (d : Nat) (x : RegVal) : (s.putCompact d x).departed = s.departed := rfl
@[simp] theorem State.putCompact_sbarInsts (s : State) (d : Nat) (x : RegVal) : (s.putCompact d x).sbarInsts = s.sbarInsts := rfl
@[simp] theorem State.putCompact_blocks (s : State) (d : Nat) (x : RegVal) : (s.putCompact d x).blocks = s.blocks := rfl
@[simp] theorem State.putCompact_nextBlock (s : State) (d : Nat) (x : RegVal) : (s.putCompact d x).nextBlock = s.nextBlock := rfl
@[simp] theorem State.putCompact_nextOrder (s : State) (d : Nat) (x : RegVal) : (s.putCompact d x).nextOrder = s.nextOrder := rfl
@[simp] theorem State.putCompact_lastPlaced (s : State) (d : Nat) (x : RegVal) : (s.putCompact d x).lastPlaced = s.lastPlaced := rfl
@[simp] theorem State.putCompact_lastNode (s : State) (d : Nat) (x : RegVal) : (s.putCompact d x).lastNode = s.lastNode := rfl
@[simp] theorem State.putCompact_blk (s : State) (d : Nat) (x : RegVal) : (s.putCompact d x).blk = s.blk := rfl
@[simp] theorem State.putCompact_iss (s : State) (d : Nat) (x : RegVal) : (s.putCompact d x).iss = s.iss := rfl
@[simp] theorem State.putCompact_agenda (s : State) (d : Nat) (x : RegVal) : (s.putCompact d x).agenda = s.agenda := rfl
@[simp] theorem State.putCompact_sched (s : State) (d : Nat) (x : RegVal) : (s.putCompact d x).sched = s.sched := rfl
@[simp] theorem State.putCompact_turn (s : State) (d : Nat) (x : RegVal) : (s.putCompact d x).turn = s.turn := rfl
@[simp] theorem State.putCompact_free (s : State) (d : Nat) (x : RegVal) : (s.putCompact d x).free = s.free := rfl

/-! ## checkin -/

@[simp] theorem State.checkin_mem (s : State) : (s.checkin).mem = s.mem := rfl
@[simp] theorem State.checkin_units (s : State) : (s.checkin).units = s.units := rfl
@[simp] theorem State.checkin_written (s : State) : (s.checkin).written = s.written := rfl
@[simp] theorem State.checkin_late (s : State) : (s.checkin).late = s.late := rfl
@[simp] theorem State.checkin_settled (s : State) : (s.checkin).settled = s.settled := rfl
@[simp] theorem State.checkin_poison (s : State) : (s.checkin).poison = s.poison := rfl
@[simp] theorem State.checkin_tags (s : State) : (s.checkin).tags = s.tags := rfl
@[simp] theorem State.checkin_pageGen (s : State) : (s.checkin).pageGen = s.pageGen := rfl
@[simp] theorem State.checkin_caches (s : State) : (s.checkin).caches = s.caches := rfl
@[simp] theorem State.checkin_pins (s : State) : (s.checkin).pins = s.pins := rfl
@[simp] theorem State.checkin_keys (s : State) : (s.checkin).keys = s.keys := rfl
@[simp] theorem State.checkin_windows (s : State) : (s.checkin).windows = s.windows := rfl
@[simp] theorem State.checkin_shootdowns (s : State) : (s.checkin).shootdowns = s.shootdowns := rfl
@[simp] theorem State.checkin_nextShoot (s : State) : (s.checkin).nextShoot = s.nextShoot := rfl
@[simp] theorem State.checkin_unfenced (s : State) : (s.checkin).unfenced = s.unfenced := rfl
@[simp] theorem State.checkin_migrations (s : State) : (s.checkin).migrations = s.migrations := rfl
@[simp] theorem State.checkin_pageReplies (s : State) : (s.checkin).pageReplies = s.pageReplies := rfl
@[simp] theorem State.checkin_dies (s : State) : (s.checkin).dies = s.dies := rfl
@[simp] theorem State.checkin_cores (s : State) : (s.checkin).cores = s.cores := rfl
@[simp] theorem State.checkin_spareMap (s : State) : (s.checkin).spareMap = s.spareMap := rfl
@[simp] theorem State.checkin_fusedChannels (s : State) : (s.checkin).fusedChannels = s.fusedChannels := rfl
@[simp] theorem State.checkin_firmwareKey (s : State) : (s.checkin).firmwareKey = s.firmwareKey := rfl
@[simp] theorem State.checkin_stepping (s : State) : (s.checkin).stepping = s.stepping := rfl
@[simp] theorem State.checkin_node (s : State) : (s.checkin).node = s.node := rfl
@[simp] theorem State.checkin_boot (s : State) : (s.checkin).boot = s.boot := rfl
@[simp] theorem State.checkin_vigilcfg (s : State) : (s.checkin).vigilcfg = s.vigilcfg := rfl
@[simp] theorem State.checkin_health (s : State) : (s.checkin).health = s.health := rfl
@[simp] theorem State.checkin_badChannels (s : State) : (s.checkin).badChannels = s.badChannels := rfl
@[simp] theorem State.checkin_badWays (s : State) : (s.checkin).badWays = s.badWays := rfl
@[simp] theorem State.checkin_banks (s : State) : (s.checkin).banks = s.banks := rfl
@[simp] theorem State.checkin_ports (s : State) : (s.checkin).ports = s.ports := rfl
@[simp] theorem State.checkin_lostNodes (s : State) : (s.checkin).lostNodes = s.lostNodes := rfl
@[simp] theorem State.checkin_mgmt (s : State) : (s.checkin).mgmt = s.mgmt := rfl
@[simp] theorem State.checkin_frozenNodes (s : State) : (s.checkin).frozenNodes = s.frozenNodes := rfl
@[simp] theorem State.checkin_frozenCtxs (s : State) : (s.checkin).frozenCtxs = s.frozenCtxs := rfl
@[simp] theorem State.checkin_ctxs (s : State) : (s.checkin).ctxs = s.ctxs := rfl
@[simp] theorem State.checkin_departed (s : State) : (s.checkin).departed = s.departed := rfl
@[simp] theorem State.checkin_sbarInsts (s : State) : (s.checkin).sbarInsts = s.sbarInsts := rfl
@[simp] theorem State.checkin_nextBlock (s : State) : (s.checkin).nextBlock = s.nextBlock := rfl
@[simp] theorem State.checkin_nextOrder (s : State) : (s.checkin).nextOrder = s.nextOrder := rfl
@[simp] theorem State.checkin_lastPlaced (s : State) : (s.checkin).lastPlaced = s.lastPlaced := rfl
@[simp] theorem State.checkin_lastNode (s : State) : (s.checkin).lastNode = s.lastNode := rfl
@[simp] theorem State.checkin_writes (s : State) : (s.checkin).writes = s.writes := rfl
@[simp] theorem State.checkin_agenda (s : State) : (s.checkin).agenda = s.agenda := rfl
@[simp] theorem State.checkin_sched (s : State) : (s.checkin).sched = s.sched := rfl
@[simp] theorem State.checkin_turn (s : State) : (s.checkin).turn = s.turn := rfl
@[simp] theorem State.checkin_free (s : State) : (s.checkin).free = s.free := rfl

/-! ## recordTrap -/

@[simp] theorem State.recordTrap_mem (s : State) (r : TrapRec) : (s.recordTrap r).mem = s.mem := rfl
@[simp] theorem State.recordTrap_units (s : State) (r : TrapRec) : (s.recordTrap r).units = s.units := rfl
@[simp] theorem State.recordTrap_written (s : State) (r : TrapRec) : (s.recordTrap r).written = s.written := rfl
@[simp] theorem State.recordTrap_late (s : State) (r : TrapRec) : (s.recordTrap r).late = s.late := rfl
@[simp] theorem State.recordTrap_settled (s : State) (r : TrapRec) : (s.recordTrap r).settled = s.settled := rfl
@[simp] theorem State.recordTrap_poison (s : State) (r : TrapRec) : (s.recordTrap r).poison = s.poison := rfl
@[simp] theorem State.recordTrap_tags (s : State) (r : TrapRec) : (s.recordTrap r).tags = s.tags := rfl
@[simp] theorem State.recordTrap_pageGen (s : State) (r : TrapRec) : (s.recordTrap r).pageGen = s.pageGen := rfl
@[simp] theorem State.recordTrap_caches (s : State) (r : TrapRec) : (s.recordTrap r).caches = s.caches := rfl
@[simp] theorem State.recordTrap_pins (s : State) (r : TrapRec) : (s.recordTrap r).pins = s.pins := rfl
@[simp] theorem State.recordTrap_keys (s : State) (r : TrapRec) : (s.recordTrap r).keys = s.keys := rfl
@[simp] theorem State.recordTrap_windows (s : State) (r : TrapRec) : (s.recordTrap r).windows = s.windows := rfl
@[simp] theorem State.recordTrap_shootdowns (s : State) (r : TrapRec) : (s.recordTrap r).shootdowns = s.shootdowns := rfl
@[simp] theorem State.recordTrap_nextShoot (s : State) (r : TrapRec) : (s.recordTrap r).nextShoot = s.nextShoot := rfl
@[simp] theorem State.recordTrap_unfenced (s : State) (r : TrapRec) : (s.recordTrap r).unfenced = s.unfenced := rfl
@[simp] theorem State.recordTrap_migrations (s : State) (r : TrapRec) : (s.recordTrap r).migrations = s.migrations := rfl
@[simp] theorem State.recordTrap_pageReplies (s : State) (r : TrapRec) : (s.recordTrap r).pageReplies = s.pageReplies := rfl
@[simp] theorem State.recordTrap_dies (s : State) (r : TrapRec) : (s.recordTrap r).dies = s.dies := rfl
@[simp] theorem State.recordTrap_cores (s : State) (r : TrapRec) : (s.recordTrap r).cores = s.cores := rfl
@[simp] theorem State.recordTrap_spareMap (s : State) (r : TrapRec) : (s.recordTrap r).spareMap = s.spareMap := rfl
@[simp] theorem State.recordTrap_fusedChannels (s : State) (r : TrapRec) : (s.recordTrap r).fusedChannels = s.fusedChannels := rfl
@[simp] theorem State.recordTrap_firmwareKey (s : State) (r : TrapRec) : (s.recordTrap r).firmwareKey = s.firmwareKey := rfl
@[simp] theorem State.recordTrap_stepping (s : State) (r : TrapRec) : (s.recordTrap r).stepping = s.stepping := rfl
@[simp] theorem State.recordTrap_node (s : State) (r : TrapRec) : (s.recordTrap r).node = s.node := rfl
@[simp] theorem State.recordTrap_boot (s : State) (r : TrapRec) : (s.recordTrap r).boot = s.boot := rfl
@[simp] theorem State.recordTrap_vigilcfg (s : State) (r : TrapRec) : (s.recordTrap r).vigilcfg = s.vigilcfg := rfl
@[simp] theorem State.recordTrap_health (s : State) (r : TrapRec) : (s.recordTrap r).health = s.health := rfl
@[simp] theorem State.recordTrap_badChannels (s : State) (r : TrapRec) : (s.recordTrap r).badChannels = s.badChannels := rfl
@[simp] theorem State.recordTrap_badWays (s : State) (r : TrapRec) : (s.recordTrap r).badWays = s.badWays := rfl
@[simp] theorem State.recordTrap_banks (s : State) (r : TrapRec) : (s.recordTrap r).banks = s.banks := rfl
@[simp] theorem State.recordTrap_ports (s : State) (r : TrapRec) : (s.recordTrap r).ports = s.ports := rfl
@[simp] theorem State.recordTrap_lostNodes (s : State) (r : TrapRec) : (s.recordTrap r).lostNodes = s.lostNodes := rfl
@[simp] theorem State.recordTrap_mgmt (s : State) (r : TrapRec) : (s.recordTrap r).mgmt = s.mgmt := rfl
@[simp] theorem State.recordTrap_frozenNodes (s : State) (r : TrapRec) : (s.recordTrap r).frozenNodes = s.frozenNodes := rfl
@[simp] theorem State.recordTrap_frozenCtxs (s : State) (r : TrapRec) : (s.recordTrap r).frozenCtxs = s.frozenCtxs := rfl
@[simp] theorem State.recordTrap_ctxs (s : State) (r : TrapRec) : (s.recordTrap r).ctxs = s.ctxs := rfl
@[simp] theorem State.recordTrap_departed (s : State) (r : TrapRec) : (s.recordTrap r).departed = s.departed := rfl
@[simp] theorem State.recordTrap_sbarInsts (s : State) (r : TrapRec) : (s.recordTrap r).sbarInsts = s.sbarInsts := rfl
@[simp] theorem State.recordTrap_blocks (s : State) (r : TrapRec) : (s.recordTrap r).blocks = s.blocks := rfl
@[simp] theorem State.recordTrap_nextBlock (s : State) (r : TrapRec) : (s.recordTrap r).nextBlock = s.nextBlock := rfl
@[simp] theorem State.recordTrap_nextOrder (s : State) (r : TrapRec) : (s.recordTrap r).nextOrder = s.nextOrder := rfl
@[simp] theorem State.recordTrap_lastPlaced (s : State) (r : TrapRec) : (s.recordTrap r).lastPlaced = s.lastPlaced := rfl
@[simp] theorem State.recordTrap_lastNode (s : State) (r : TrapRec) : (s.recordTrap r).lastNode = s.lastNode := rfl
@[simp] theorem State.recordTrap_writes (s : State) (r : TrapRec) : (s.recordTrap r).writes = s.writes := rfl
@[simp] theorem State.recordTrap_blk (s : State) (r : TrapRec) : (s.recordTrap r).blk = s.blk := rfl
@[simp] theorem State.recordTrap_iss (s : State) (r : TrapRec) : (s.recordTrap r).iss = s.iss := rfl
@[simp] theorem State.recordTrap_agenda (s : State) (r : TrapRec) : (s.recordTrap r).agenda = s.agenda := rfl
@[simp] theorem State.recordTrap_sched (s : State) (r : TrapRec) : (s.recordTrap r).sched = s.sched := rfl
@[simp] theorem State.recordTrap_turn (s : State) (r : TrapRec) : (s.recordTrap r).turn = s.turn := rfl
@[simp] theorem State.recordTrap_free (s : State) (r : TrapRec) : (s.recordTrap r).free = s.free := rfl

/-! ## mapThreads -/

@[simp] theorem Warp.mapThreads_idx (w : Warp) (m : Mask) (g : Nat → Thread → Thread) : (w.mapThreads m g).idx = w.idx := rfl
@[simp] theorem Warp.mapThreads_role (w : Warp) (m : Mask) (g : Nat → Thread → Thread) : (w.mapThreads m g).role = w.role := rfl
@[simp] theorem Warp.mapThreads_vmax (w : Warp) (m : Mask) (g : Nat → Thread → Thread) : (w.mapThreads m g).vmax = w.vmax := rfl
@[simp] theorem Warp.mapThreads_pipe (w : Warp) (m : Mask) (g : Nat → Thread → Thread) : (w.mapThreads m g).pipe = w.pipe := rfl
@[simp] theorem Warp.mapThreads_slot (w : Warp) (m : Mask) (g : Nat → Thread → Thread) : (w.mapThreads m g).slot = w.slot := rfl
@[simp] theorem Warp.mapThreads_regs (w : Warp) (m : Mask) (g : Nat → Thread → Thread) : (w.mapThreads m g).regs = w.regs := rfl
@[simp] theorem Warp.mapThreads_rcv (w : Warp) (m : Mask) (g : Nat → Thread → Thread) : (w.mapThreads m g).rcv = w.rcv := rfl
@[simp] theorem Warp.mapThreads_pending (w : Warp) (m : Mask) (g : Nat → Thread → Thread) : (w.mapThreads m g).pending = w.pending := rfl
@[simp] theorem Warp.mapThreads_meets (w : Warp) (m : Mask) (g : Nat → Thread → Thread) : (w.mapThreads m g).meets = w.meets := rfl
@[simp] theorem Warp.mapThreads_fpstat (w : Warp) (m : Mask) (g : Nat → Thread → Thread) : (w.mapThreads m g).fpstat = w.fpstat := rfl
@[simp] theorem Warp.mapThreads_trap (w : Warp) (m : Mask) (g : Nat → Thread → Thread) : (w.mapThreads m g).trap = w.trap := rfl
@[simp] theorem Warp.mapThreads_trapBase (w : Warp) (m : Mask) (g : Nat → Thread → Thread) : (w.mapThreads m g).trapBase = w.trapBase := rfl
@[simp] theorem Warp.mapThreads_entryMask (w : Warp) (m : Mask) (g : Nat → Thread → Thread) : (w.mapThreads m g).entryMask = w.entryMask := rfl
@[simp] theorem Warp.mapThreads_trapQueue (w : Warp) (m : Mask) (g : Nat → Thread → Thread) : (w.mapThreads m g).trapQueue = w.trapQueue := rfl
@[simp] theorem Warp.mapThreads_progIdx (w : Warp) (m : Mask) (g : Nat → Thread → Thread) : (w.mapThreads m g).progIdx = w.progIdx := rfl
@[simp] theorem Warp.mapThreads_regionPc (w : Warp) (m : Mask) (g : Nat → Thread → Thread) : (w.mapThreads m g).regionPc = w.regionPc := rfl
@[simp] theorem Warp.mapThreads_regionCnt (w : Warp) (m : Mask) (g : Nat → Thread → Thread) : (w.mapThreads m g).regionCnt = w.regionCnt := rfl
@[simp] theorem Warp.mapThreads_rvalid (w : Warp) (m : Mask) (g : Nat → Thread → Thread) : (w.mapThreads m g).rvalid = w.rvalid := rfl
@[simp] theorem Warp.mapThreads_restarted (w : Warp) (m : Mask) (g : Nat → Thread → Thread) : (w.mapThreads m g).restarted = w.restarted := rfl
@[simp] theorem Warp.mapThreads_snapshot (w : Warp) (m : Mask) (g : Nat → Thread → Thread) : (w.mapThreads m g).snapshot = w.snapshot := rfl
@[simp] theorem Warp.mapThreads_trace (w : Warp) (m : Mask) (g : Nat → Thread → Thread) : (w.mapThreads m g).trace = w.trace := rfl
@[simp] theorem Warp.mapThreads_synced (w : Warp) (m : Mask) (g : Nat → Thread → Thread) : (w.mapThreads m g).synced = w.synced := rfl
@[simp] theorem Warp.mapThreads_readAt (w : Warp) (m : Mask) (g : Nat → Thread → Thread) : (w.mapThreads m g).readAt = w.readAt := rfl
@[simp] theorem Warp.mapThreads_podAt (w : Warp) (m : Mask) (g : Nat → Thread → Thread) : (w.mapThreads m g).podAt = w.podAt := rfl
/-! ## setSpilled -/

@[simp] theorem Warp.setSpilled_idx (w : Warp) (i : Nat) (x : Bool) : (w.setSpilled i x).idx = w.idx := rfl
@[simp] theorem Warp.setSpilled_role (w : Warp) (i : Nat) (x : Bool) : (w.setSpilled i x).role = w.role := rfl
@[simp] theorem Warp.setSpilled_vmax (w : Warp) (i : Nat) (x : Bool) : (w.setSpilled i x).vmax = w.vmax := rfl
@[simp] theorem Warp.setSpilled_pipe (w : Warp) (i : Nat) (x : Bool) : (w.setSpilled i x).pipe = w.pipe := rfl
@[simp] theorem Warp.setSpilled_slot (w : Warp) (i : Nat) (x : Bool) : (w.setSpilled i x).slot = w.slot := rfl
@[simp] theorem Warp.setSpilled_threads (w : Warp) (i : Nat) (x : Bool) : (w.setSpilled i x).threads = w.threads := rfl
@[simp] theorem Warp.setSpilled_rcv (w : Warp) (i : Nat) (x : Bool) : (w.setSpilled i x).rcv = w.rcv := rfl
@[simp] theorem Warp.setSpilled_pending (w : Warp) (i : Nat) (x : Bool) : (w.setSpilled i x).pending = w.pending := rfl
@[simp] theorem Warp.setSpilled_meets (w : Warp) (i : Nat) (x : Bool) : (w.setSpilled i x).meets = w.meets := rfl
@[simp] theorem Warp.setSpilled_fpstat (w : Warp) (i : Nat) (x : Bool) : (w.setSpilled i x).fpstat = w.fpstat := rfl
@[simp] theorem Warp.setSpilled_trap (w : Warp) (i : Nat) (x : Bool) : (w.setSpilled i x).trap = w.trap := rfl
@[simp] theorem Warp.setSpilled_trapBase (w : Warp) (i : Nat) (x : Bool) : (w.setSpilled i x).trapBase = w.trapBase := rfl
@[simp] theorem Warp.setSpilled_entryMask (w : Warp) (i : Nat) (x : Bool) : (w.setSpilled i x).entryMask = w.entryMask := rfl
@[simp] theorem Warp.setSpilled_trapQueue (w : Warp) (i : Nat) (x : Bool) : (w.setSpilled i x).trapQueue = w.trapQueue := rfl
@[simp] theorem Warp.setSpilled_progIdx (w : Warp) (i : Nat) (x : Bool) : (w.setSpilled i x).progIdx = w.progIdx := rfl
@[simp] theorem Warp.setSpilled_regionPc (w : Warp) (i : Nat) (x : Bool) : (w.setSpilled i x).regionPc = w.regionPc := rfl
@[simp] theorem Warp.setSpilled_regionCnt (w : Warp) (i : Nat) (x : Bool) : (w.setSpilled i x).regionCnt = w.regionCnt := rfl
@[simp] theorem Warp.setSpilled_rvalid (w : Warp) (i : Nat) (x : Bool) : (w.setSpilled i x).rvalid = w.rvalid := rfl
@[simp] theorem Warp.setSpilled_restarted (w : Warp) (i : Nat) (x : Bool) : (w.setSpilled i x).restarted = w.restarted := rfl
@[simp] theorem Warp.setSpilled_snapshot (w : Warp) (i : Nat) (x : Bool) : (w.setSpilled i x).snapshot = w.snapshot := rfl
@[simp] theorem Warp.setSpilled_trace (w : Warp) (i : Nat) (x : Bool) : (w.setSpilled i x).trace = w.trace := rfl
@[simp] theorem Warp.setSpilled_synced (w : Warp) (i : Nat) (x : Bool) : (w.setSpilled i x).synced = w.synced := rfl
@[simp] theorem Warp.setSpilled_readAt (w : Warp) (i : Nat) (x : Bool) : (w.setSpilled i x).readAt = w.readAt := rfl
@[simp] theorem Warp.setSpilled_podAt (w : Warp) (i : Nat) (x : Bool) : (w.setSpilled i x).podAt = w.podAt := rfl

end Sys2Proof.Machine
end

