-- ==== Sys2Proof/Laws/Rows.lean ====
section
/-! SUPPORT. What writing memory, spilling, taking a row and writing a register can do (R105-R113). -/
namespace Sys2Proof.Machine

/-! ## Memory -/

theorem pushAll_eq (s : State) (is : List Instr) : ∃ a, is.foldl State.push s = { s with agenda := a } := by
  induction is generalizing s with
  | nil => exact ⟨s.agenda, rfl⟩
  | cons i is ih => obtain ⟨a, h⟩ := ih (s.push i); exact ⟨a, h⟩
/-- Noting the key of units changes only what is known of units and of the bytes written in them. -/
theorem State.rekey_eq (s : State) (key pa n : Nat) : ∃ u w, s.rekey key pa n = { s with units := u, written := w } := by
  unfold State.rekey
  split
  · exact ⟨s.units, s.written, rfl⟩
  · exact ⟨_, _, rfl⟩
/-- A physical write changes memory by the bytes written, what is known of them, and what waits to be performed. -/
theorem State.writeKey_eq (s : State) (x : Writer) (key pa : Nat) (bs : List Byte) : ∃ u w l n p g a, s.writeKey x key pa bs =
    { s with mem := Tab.setMany 0 s.mem pa bs, units := u, written := w, late := l, settled := n, poison := p, tags := g, agenda := a } := by
  obtain ⟨u, w, h⟩ := s.rekey_eq key pa bs.length
  unfold State.writeKey
  dsimp only
  rw [h]
  obtain ⟨a, h'⟩ := pushAll_eq { s with
    mem := Tab.setMany 0 s.mem pa bs, units := u, written := w
    late := (lateAfter s.turn x pa (s.readPas pa bs.length) s.late s.settled).1
    settled := (lateAfter s.turn x pa (s.readPas pa bs.length) s.late s.settled).2
    tags := s.tags.filter fun t => !(t.1 * 256 < pa + bs.length && pa < t.1 * 256 + 256)
    poison := s.poison.filter fun g => !(pa ≤ g * 64 && g * 64 + 64 ≤ pa + bs.length) } (State.written_ _ pa bs.length)
  exact ⟨_, _, _, _, _, _, _, h'⟩
/-- What stores can do: memory and what is known of it change, and what waits to be performed. -/
def Writes (s t : State) : Prop := t = s.withMemory t
theorem Writes.refl (s : State) : Writes s s := rfl
theorem Writes.trans {s t u : State} (a : Writes s t) (b : Writes t u) : Writes s u := by
  unfold Writes at *; rw [b, a]; rfl
theorem State.writeKey_writes (s : State) (x : Writer) (key pa : Nat) (bs : List Byte) : Writes s (s.writeKey x key pa bs) := by
  obtain ⟨u, w, l, n, p, g, a, h⟩ := s.writeKey_eq x key pa bs
  rw [h]; rfl
theorem State.writeLeaves_writes (s : State) (x : Writer) (ps : List (Leaf × Nat)) (bs : List Byte) :
    Writes s (s.writeLeaves x ps bs) := by
  induction ps generalizing s bs with
  | nil => exact .refl s
  | cons q ps ih => exact (s.writeKey_writes _ _ _ _).trans (ih _ _)
theorem State.storeVa_writes (s : State) (c : Ctx) (va : Nat) (bs : List Byte) : Writes s (s.storeVa c va bs) :=
  s.writeLeaves_writes _ _ _
/-- A physical write keeps memory canonical. -/
theorem State.writeKey_wf {s : State} (h : s.MemInv) (x : Writer) (key pa : Nat) (bs : List Byte) : (s.writeKey x key pa bs).MemInv := by
  obtain ⟨u, w, l, n, p, g, a, e⟩ := s.writeKey_eq x key pa bs
  rw [e]; exact Tab.wf_setMany h pa bs
theorem State.writePa_wf {s : State} (h : s.MemInv) (pa : Nat) (bs : List Byte) : (s.writePa pa bs).MemInv :=
  State.writeKey_wf h .device 0 pa bs
theorem State.writeLeaf_wf {s : State} (h : s.MemInv) (x : Writer) (l : Leaf) (bs : List Byte) : (s.writeLeaf x l bs).MemInv :=
  State.writeKey_wf h _ _ _ _
/-- A store keeps memory canonical. -/
theorem State.writeLeaves_wf {s : State} (h : s.MemInv) (x : Writer) (ps : List (Leaf × Nat)) (bs : List Byte) :
    (s.writeLeaves x ps bs).MemInv := by
  induction ps generalizing s bs with
  | nil => exact h
  | cons q ps ih => exact ih (State.writeLeaf_wf h x q.1 (bs.take q.2)) (bs.drop q.2)
theorem State.storeBy_wf {s : State} (h : s.MemInv) (x : Writer) (c : Ctx) (va : Nat) (bs : List Byte) : (s.storeBy x c va bs).MemInv :=
  State.writeLeaves_wf h _ _ _
theorem State.storeVa_wf {s : State} (h : s.MemInv) (c : Ctx) (va : Nat) (bs : List Byte) : (s.storeVa c va bs).MemInv :=
  State.storeBy_wf h _ _ _ _
theorem State.storeNum_wf {s : State} (h : s.MemInv) (c : Ctx) (va x n : Nat) : (s.storeNum c va x n).MemInv :=
  State.storeVa_wf h _ _ _
/-- Noting in the caches what a store wrote leaves memory alone. -/
theorem State.soil_mem (s : State) (ctx core key pa n : Nat) : (s.soil ctx core key pa n).mem = s.mem := rfl
theorem State.soilHome_mem (s : State) (ctx key pa n : Nat) : (s.soilHome ctx key pa n).mem = s.mem := by
  unfold State.soilHome; dsimp only; split <;> rfl
theorem foldl_mem {α : Type} (f : State → α → State) (h : ∀ s x, (f s x).mem = s.mem) (xs : List α) (s : State) :
    (xs.foldl f s).mem = s.mem := by
  induction xs generalizing s with
  | nil => rfl
  | cons x xs ih => exact (ih (f s x)).trans (h s x)
/-- A store of a warp, of its engine or of an atomic keeps memory canonical. -/
theorem State.storeAs_wf {s : State} (h : s.MemInv) (c : Ctx) (engine home : Bool) (blk warp va : Nat) (bs : List Byte) :
    (s.storeAs c engine home blk warp va bs).MemInv := by
  unfold State.storeAs
  split
  · exact h
  · dsimp only
    split
    · rw [State.MemInv, foldl_mem]
      · exact State.storeBy_wf h ..
      · intro s x; split
        · exact s.soilHome_mem ..
        · exact s.soil_mem ..
    · exact State.storeBy_wf h ..
theorem State.storeFor_wf {s : State} (h : s.MemInv) (c : Ctx) (blk warp va : Nat) (bs : List Byte) :
    (s.storeFor c blk warp va bs).MemInv := State.storeAs_wf h c false false blk warp va bs
/-- What a physical write leaves to read (R4): the bytes written, and every other byte as before. -/
theorem State.readPa_writeKey {s : State} (h : s.MemInv) (x : Writer) (key pa a : Nat) (bs : List Byte) :
    (s.writeKey x key pa bs).readPa a = if pa ≤ a ∧ a < pa + bs.length then bs.getD (a - pa) 0 else s.readPa a := by
  obtain ⟨u, w, l, n, p, g, a', e⟩ := s.writeKey_eq x key pa bs
  rw [e]; exact Tab.get_setMany h pa a bs
theorem State.readPa_writePa {s : State} (h : s.MemInv) (pa a : Nat) (bs : List Byte) :
    (s.writePa pa bs).readPa a = if pa ≤ a ∧ a < pa + bs.length then bs.getD (a - pa) 0 else s.readPa a :=
  State.readPa_writeKey h .device 0 pa a bs
/-- A write at a leaf leaves every byte outside it as it was. -/
theorem State.readPa_writeLeaf {s : State} (h : s.MemInv) (x : Writer) (l : Leaf) (bs : List Byte) (a : Nat)
    (out : a < l.pa ∨ l.pa + bs.length ≤ a) : (s.writeLeaf x l bs).readPa a = s.readPa a := by
  rw [State.writeLeaf, State.readPa_writeKey h, if_neg]
  split
  · simp only [State.freeBytes, List.length_map, List.length_range]; omega
  · omega
/-- A byte outside the parts of a store reads as before. -/
theorem State.readPa_writeLeaves {s : State} (h : s.MemInv) (x : Writer) (ps : List (Leaf × Nat)) (bs : List Byte) (a : Nat)
    (out : ∀ p ∈ ps, a < p.1.pa ∨ p.1.pa + p.2 ≤ a) : (s.writeLeaves x ps bs).readPa a = s.readPa a := by
  induction ps generalizing s bs with
  | nil => rfl
  | cons q ps ih =>
    rw [State.writeLeaves, ih (State.writeLeaf_wf h _ _ _) _ fun p hp => out p (List.mem_cons_of_mem _ hp)]
    refine State.readPa_writeLeaf h _ _ _ _ ?_
    have := out q List.mem_cons_self
    simp only [List.length_take]; omega

/-! ## Spilling and taking rows -/

/-- The update leaves the warps' values alone: the issuing warp but for spilled marks, and what is no block or memory. -/
structure Spills (s t : State) : Prop where
  values : ∀ r, t.wp.rv r = s.wp.rv r
  warp : t.wp = { s.wp with regs := t.wp.regs }
  rest : t = { s.withMemory t with wp := t.wp, blk := t.blk, blocks := t.blocks }
theorem Spills.refl (s : State) : Spills s s := ⟨fun _ => rfl, rfl, rfl⟩
theorem Spills.trans {s t u : State} (a : Spills s t) (b : Spills t u) : Spills s u where
  values r := (b.values r).trans (a.values r)
  warp := by rw [b.warp, a.warp]
  rest := by rw [b.rest, a.rest]; rfl
theorem Spills.live {s t : State} (a : Spills s t) : t.wp.live = s.wp.live := by rw [a.warp]; rfl
theorem Spills.val {s t : State} (a : Spills s t) (r l : Nat) : t.wp.val r l = s.wp.val r l := by
  simp only [Warp.val, a.values]

theorem State.useCellar_spills (s : State) (b : Block) (w : Warp) (i : Nat) (read : Bool) : Spills s (s.useCellar b w i read) := by
  unfold State.useCellar
  split
  · exact .refl s
  · dsimp only
    split
    · unfold State.modBlk; split <;> exact ⟨fun _ => rfl, rfl, rfl⟩
    · split
      · exact .refl s
      · split
        · have h := s.storeVa_writes
          generalize hx : s.storeVa _ _ _ = x
          have hw : Writes s x := hx ▸ h _ _ _
          unfold Writes at hw
          rw [hw]; exact ⟨fun _ => rfl, rfl, rfl⟩
        · exact .refl s
theorem Warp.rv_setSpilled (w : Warp) (i r : Nat) : (w.setSpilled i true).rv r = w.rv r := by
  simp only [Warp.rv, Warp.reg, Warp.setSpilled]
  rw [Tab.get_set_ne]
  · split
    · next h => subst h; rfl
    · rfl
  · intro h; simp [Reg.zero] at h
theorem State.modWarp_spills (s : State) (b w i : Nat) : Spills s (s.modWarp b w fun x => x.setSpilled i true) := by
  unfold State.modWarp
  split
  · split
    · exact ⟨Warp.rv_setSpilled s.wp i, rfl, rfl⟩
    · exact ⟨fun _ => rfl, rfl, rfl⟩
  · exact ⟨fun _ => rfl, rfl, rfl⟩
/-- A spill changes no register's value (R109). -/
theorem State.spill_spills (s : State) (b w i : Nat) : Spills s (s.spill b w i) := by
  unfold State.spill
  dsimp only
  split
  · exact (s.modWarp_spills b w i).trans (State.useCellar_spills _ _ _ _ _)
  · exact s.modWarp_spills b w i
theorem State.takeRow_spills (s : State) (refill : Bool) : Spills s (s.takeRow refill).1 := by
  unfold State.takeRow
  dsimp only
  repeat' split
  all_goals first | exact .refl s | exact s.spill_spills _ _ _
/-- With a row free, taking one spills nothing. -/
theorem State.takeRow_free {s : State} (h : s.rowFree) (refill : Bool) : s.takeRow refill = (s, true) := by
  unfold State.rowFree at h
  unfold State.takeRow
  dsimp only
  split at h
  · next h1 => rw [if_pos h1, if_pos h]
  · next h1 => rw [if_neg h1, if_pos h]

/-! ## Writing a register -/

/-- The state with a row in register `d`, spilled or not. -/
def State.setRow (s : State) (d : Nat) (row : Row) (spilled : Bool) : State :=
  { s with wp := { s.wp with regs := Tab.set Reg.zero s.wp.regs d ⟨.v row, spilled, s.writes + 1⟩ }, writes := s.writes + 1 }
theorem Warp.rv_set (w : Warp) (d r n : Nat) (x : RegVal) (sp : Bool) :
    Warp.rv { w with regs := Tab.set Reg.zero w.regs d ⟨x, sp, n + 1⟩ } r = if r = d then x else w.rv r := by
  simp only [Warp.rv, Warp.reg]
  rw [Tab.get_set_ne]
  · split <;> rfl
  · intro h; simp [Reg.zero] at h
/-- What putting a row in a register can do. -/
theorem State.putRow_cases (s : State) (d : Nat) (row : Row) :
    ∃ u sp, Spills s u ∧ Spills (u.setRow d row sp) (s.putRow d row) ∧ (s.spareRow d → s.putRow d row = s.setRow d row false) := by
  unfold State.putRow State.spareRow
  dsimp only
  split
  · next hc =>
    rcases ht : s.takeRow false with ⟨s1, won⟩
    have hs := s.takeRow_spills false
    rw [ht] at hs
    have hq (h : (s.wp.reg d).val.compact = false ∨ s.rowFree) : s1 = s ∧ won = true := by
      rw [State.takeRow_free (h.resolve_left (by simp [hc]))] at ht
      cases ht; exact ⟨rfl, rfl⟩
    cases won
    · exact ⟨s1, true, hs, State.useCellar_spills _ _ _ _ _, fun h => by simpa using (hq h.2).2⟩
    · exact ⟨s1, false, hs, .refl _, fun h => by rw [(hq h.2).1]; rfl⟩
  · split
    · next hp =>
      have h0 : Spills s (s.useOwnCellar d true) := State.useCellar_spills _ _ _ _ _
      rcases ht : (s.useOwnCellar d true).takeRow true with ⟨s1, won⟩
      have hs := (s.useOwnCellar d true).takeRow_spills true
      rw [ht] at hs
      have no (h : (s.wp.reg d).spilled = false ∧ ((s.wp.reg d).val.compact = false ∨ s.rowFree)) : False := by simp [hp] at h
      cases won
      · exact ⟨s1, true, h0.trans hs, State.useCellar_spills _ _ _ _ _, fun h => (no h).elim⟩
      · exact ⟨s1, false, h0.trans hs, .refl _, fun h => (no h).elim⟩
    · exact ⟨s, false, .refl s, .refl _, fun _ => rfl⟩

/-- Writing a register (R105-R111). -/
theorem State.writeReg_puts (s : State) (d : Nat) (m : Mask) (x : RegVal) : Puts s (s.writeReg d m x) d m x.at := by
  by_cases h0 : d = 511 ∨ m = 0
  · have e : s.writeReg d m x = s := by unfold State.writeReg; rw [if_pos (by simpa using h0)]
    rw [e]
    refine ⟨fun hd l hl _ => ?_, fun _ => rfl, fun _ _ => rfl, rfl, fun _ => rfl, rfl⟩
    obtain rfl : m = 0 := h0.resolve_left hd
    simp [Mask.has]
  · have hn : ∀ t : State, d = 511 ∨ m = 0 → t = s := fun _ h => absurd h h0
    unfold State.writeReg
    rw [if_neg (by simpa using h0)]
    split
    · next hc =>
      simp only [Bool.and_eq_true, decide_eq_true_eq] at hc
      refine ⟨fun _ l hl hlive => ?_, hn _, fun r hr => ?_, rfl, fun _ => rfl, rfl⟩
      · have : Mask.has m l = true := by
          have h2 : Mask.has (s.wp.live &&& ~~~m) l = false := by rw [hc.1]; simp [Mask.has]
          simp only [Mask.has, BitVec.getLsbD_and, BitVec.getLsbD_not, hl, decide_true, Bool.true_and] at h2 hlive ⊢
          rw [hlive] at h2
          simpa using h2
        rw [this, if_pos rfl, Warp.val]
        rw [show (s.putCompact d x).wp.rv d = x from by rw [State.putCompact, Warp.rv_set, if_pos rfl]]
      · rw [State.putCompact, Warp.rv_set, if_neg hr]
    · obtain ⟨u, sp, h1, h2, h3⟩ := State.putRow_cases { s with free := s.free + 1 } d (s.mergeRow d m x)
      refine ⟨fun _ l hl hlive => ?_, hn _, fun r hr => ?_, ?_, fun hq => ?_, ?_⟩
      · rw [h2.val, Warp.val, State.setRow, Warp.rv_set, if_pos rfl, RegVal.at, State.mergeRow, Lanes.at_of _ _ hl, hlive]
        rfl
      · rw [h2.values, State.setRow, Warp.rv_set, if_neg hr, h1.values]
      · rw [h2.warp, State.setRow, h1.warp]
      · rw [h3 hq]; rfl
      · rw [h2.rest, State.setRow, h1.rest]; rfl

end Sys2Proof.Machine
end

