-- ==== Sys2Proof/Laws/Results.lean ====
section
/-! SUPPORT. The ends of lane-wise instructions: what `advance`, `writePred`, `alu`, `aluPair` and `aluPred` do. -/
namespace Sys2Proof.Machine

@[simp] theorem Warp.thread_mapThreads (w : Warp) (m : Mask) (g : Nat → Thread → Thread) (l : Nat) (h : l < 128) :
    (w.mapThreads m g).thread l = if Mask.has m l then g l (w.thread l) else w.thread l := by
  simp [Warp.thread, Warp.mapThreads, h]
theorem Thread.live_mapThreads (w : Warp) (m : Mask) (g : Nat → Thread → Thread)
    (h : ∀ l t, (g l t).status = t.status) : (w.mapThreads m g).live = w.live := by
  refine Mask.ext fun l hl => ?_
  simp only [Warp.live, Warp.mapThreads]
  rw [Mask.has_mask _ _ _ hl, Mask.has_mask _ _ _ hl, Lanes.at_mapIdx _ _ _ hl]
  split
  · rw [h]
  · rfl

/-- Going on (R68). -/
theorem State.advance_advances (s : State) : Advances s s.advance where
  pcs l hl := by simp only [State.advance, Warp.thread_mapThreads _ _ _ _ hl]; rfl
  frame := rfl

theorem preds_set (x : BitVec 7) (p q : Nat) (b : Bool) (hp : p < 7) :
    (if b then x ||| BitVec.ofNat 7 (2 ^ p) else x &&& ~~~(BitVec.ofNat 7 (2 ^ p))).getLsbD q =
      if q = p then b else x.getLsbD q := by
  have tw : (BitVec.ofNat 7 (2 ^ p)).getLsbD q = decide (q = p) := by
    rw [BitVec.getLsbD_ofNat, Nat.testBit_two_pow]
    by_cases h : q = p
    · subst h; simp [hp]
    · simp [h, Ne.symm h]
  by_cases hq : q < 7
  · cases b
    · simp only [Bool.false_eq_true, if_false, BitVec.getLsbD_and, BitVec.getLsbD_not, tw, hq]
      by_cases h : q = p <;> simp [h]
    · simp only [if_true, BitVec.getLsbD_or, tw]
      by_cases h : q = p <;> simp [h]
  · rw [if_neg (show q ≠ p by omega), BitVec.getLsbD_of_ge _ _ (by omega), BitVec.getLsbD_of_ge _ _ (by omega)]
/-- Writing a predicate (R113). -/
theorem State.writePred_puts (s : State) (p : Nat) (m : Mask) (g : Nat → Bool) : PutsPred s (s.writePred p m g) p m g := by
  by_cases hp : p ≥ 7
  · have e : s.writePred p m g = s := by rw [State.writePred, if_pos hp]
    rw [e]
    exact ⟨fun h => absurd h (by omega), fun _ _ _ _ _ => rfl, fun _ => rfl, fun _ _ => rfl, rfl⟩
  · have e : ∀ l, l < 128 → ((s.writePred p m g).wp.thread l) = if Mask.has m l then
        { s.wp.thread l with preds := if g l then (s.wp.thread l).preds ||| BitVec.ofNat 7 (2 ^ p) else
          (s.wp.thread l).preds &&& ~~~(BitVec.ofNat 7 (2 ^ p)) } else s.wp.thread l := by
      intro l hl
      rw [State.writePred, if_neg hp]
      dsimp only
      rw [Warp.thread_mapThreads _ _ _ _ hl]
    have b : ∀ q l, l < 128 → (s.writePred p m g).wp.pred q l =
        (decide (q = 7) || if q = p then (if Mask.has m l then g l else (s.wp.thread l).preds.getLsbD q) else
          (s.wp.thread l).preds.getLsbD q) := by
      intro q l hl
      rw [Warp.pred, e l hl]
      congr 1
      split
      · dsimp only; rw [preds_set _ _ _ _ (by omega)]
      · split <;> rfl
    refine ⟨fun _ l hl => ?_, fun q hq _ l hl => ?_, fun h => absurd h hp, fun l hl => ?_, ?_⟩
    · rw [b p l hl, if_pos rfl, Warp.pred]
      split
      · rw [show decide (p = 7) = false by simp; omega]; rfl
      · rfl
    · rw [b q l hl, if_neg hq]; rfl
    · rw [e l hl]; split <;> rfl
    · rw [State.writePred, if_neg hp]; rfl

theorem State.alu_results (s : State) (f : Fields) (x : RegVal) : Results s (s.alu f x) f.vd.toNat (s.en f) x.at :=
  ⟨_, s.writeReg_puts _ _ x, State.advance_advances _⟩
theorem State.aluPred_results (s : State) (f : Fields) (g : Nat → Bool) :
    ResultsPred s (s.aluPred f g) f.vd.toNat (s.en f) g := ⟨_, s.writePred_puts _ _ g, State.advance_advances _⟩
/-- A result is a fact about the lanes' values. -/
theorem Puts.congr {s t : State} {d : Nat} {m : Mask} {g h : Nat → Word} (p : Puts s t d m g)
    (e : ∀ l, l < 128 → g l = h l) : Puts s t d m h :=
  { p with value := fun hd l hl hv => by rw [p.value hd l hl hv, e l hl] }
theorem Results.congr {s t : State} {d : Nat} {m : Mask} {g h : Nat → Word} (p : Results s t d m g)
    (e : ∀ l, l < 128 → g l = h l) : Results s t d m h := by obtain ⟨u, a, b⟩ := p; exact ⟨u, a.congr e, b⟩
theorem State.aluPair_results (s : State) (f : Fields) (x : RegVal × RegVal) (g : Nat → DWord)
    (e : ∀ l, l < 128 → x.1.at l = (g l).setWidth 32 ∧ x.2.at l = (g l >>> 32).setWidth 32) :
    Results64 s (s.aluPair f x) f.vd.toNat (s.en f) g := by
  unfold Results64 State.aluPair State.writePair
  by_cases h : f.vd.toNat = 511
  · rw [if_pos h, if_pos h]; exact s.advance_advances
  · rw [if_neg h, if_neg h]
    exact ⟨_, _, (s.writeReg_puts _ _ _).congr fun l hl => (e l hl).1, (State.writeReg_puts _ _ _ _).congr fun l hl => (e l hl).2,
      State.advance_advances _⟩

/-! ## Lane values of shaped results (R101-R104) -/

@[simp] theorem RegVal.at_u (x : Word) (l : Nat) : (RegVal.u x).at l = x := rfl
@[simp] theorem RegVal.at_a (b s : Word) (l : Nat) : (RegVal.a b s).at l = b + BitVec.ofNat 32 l * s := rfl
@[simp] theorem RegVal.at_lanes (f : Nat → Word) (l : Nat) (h : l < 128) : (RegVal.lanes f).at l = f l := by
  simp [RegVal.at, RegVal.lanes, h]
theorem RegVal.at_affine (b s : Word) (l : Nat) : (RegVal.affine b s).at l = b + BitVec.ofNat 32 l * s := by
  unfold RegVal.affine; split
  · next h => subst h; simp [RegVal.at]
  · rfl
theorem at_lift1 (f : Word → Word) (a : RegVal) (l : Nat) (h : l < 128) : (lift1 f a).at l = f (a.at l) := by
  unfold lift1; split
  · rfl
  · simp [h]
theorem at_lift2 (f : Word → Word → Word) (a b : RegVal) (l : Nat) (h : l < 128) : (lift2 f a b).at l = f (a.at l) (b.at l) := by
  unfold lift2; split
  · rfl
  · simp [h]
theorem at_lift3 (f : Word → Word → Word → Word) (a b c : RegVal) (l : Nat) (h : l < 128) :
    (lift3 f a b c).at l = f (a.at l) (b.at l) (c.at l) := by
  unfold lift3; split
  · rfl
  · simp [h]
theorem RegVal.at_add (a b : RegVal) (l : Nat) (h : l < 128) : (a.add b).at l = a.at l + b.at l := by
  unfold RegVal.add
  split <;> simp only [RegVal.at_affine, RegVal.at_lanes _ _ h, RegVal.at_u, RegVal.at_a, BitVec.mul_add] <;> ac_rfl
theorem RegVal.at_sub (a b : RegVal) (l : Nat) (h : l < 128) : (a.sub b).at l = a.at l - b.at l := by
  unfold RegVal.sub
  split <;> simp only [RegVal.at_affine, RegVal.at_lanes _ _ h, RegVal.at_u, RegVal.at_a, BitVec.sub_eq_add_neg, BitVec.mul_add,
    BitVec.neg_add, BitVec.mul_neg] <;> ac_rfl
theorem RegVal.at_mul (a b : RegVal) (l : Nat) (h : l < 128) : (a.mul b).at l = a.at l * b.at l := by
  unfold RegVal.mul
  split <;> simp only [RegVal.at_affine, RegVal.at_lanes _ _ h, RegVal.at_u, RegVal.at_a, BitVec.mul_add, BitVec.add_mul] <;> ac_rfl
theorem RegVal.at_shl (a k : RegVal) (l : Nat) (h : l < 128) : (a.shl k).at l = shlWord (a.at l) (k.at l) := by
  unfold RegVal.shl
  split
  · rfl
  · next b s n =>
    split
    · next hn =>
      simp only [RegVal.at_affine, RegVal.at_u, RegVal.at_a, shlWord, hn, if_true]
      apply BitVec.eq_of_toNat_eq
      simp [BitVec.toNat_shiftLeft, BitVec.toNat_add, BitVec.toNat_mul, Nat.shiftLeft_eq, Nat.mul_assoc]
    · next hn => simp [h, shlWord, hn]
  · simp [h]

end Sys2Proof.Machine
end

