-- ==== Sys2Proof/Tests/Slice0.lean ====
section
/-! SUPPORT. Tests: ill-formed words, decoding, one instruction or event on a small state, and for each statement with hypotheses
a state and operands that meet them. Expected results come from the manual's examples or by hand from its rules. -/
namespace Sys2Proof.Tests
set_option Elab.async false
open Sys2Proof Sys2Proof.Machine

/-! ## Helpers -/

/-- Fields of an F64 word with guard `pt`. -/
def F (vd va vb vc : BitVec 9) (mod : BitVec 8) : Fields := ⟨7, false, 0, mod, vd, va, vb, vc, .none⟩
/-- Fields of an F96 word. -/
def FI (vd va vc : BitVec 9) (mod : BitVec 8) (imm : Word) : Fields := ⟨7, false, 0, mod, vd, va, 0, vc, .imm imm⟩
/-- Words read as the instructions they stand for. -/
def reads (rows : List (Nat × Instr)) : Bool := rows.all fun r => decodeTableWord 64 r.1 == some r.2
/-- Eight cores, of which the last is a spare, so that the tests stay small. -/
def eight : List Core := (List.range 8).map fun c => Core.reset (c == 7)
/-- A state whose one warp issues with all 128 lanes at code offset 0, 2 MiB of memory at address 0 readable and writable. -/
def lab : State :=
  let s := State.reset.withFetchWord 64 0
  { s with boot := 6, mem := placeNum s.mem 0x4000 0x200047 8, cores := eight }.checkout 1 0 { Issue.idle with lanes := Mask.all, len := 8 }
/-- The context of the state above. -/
def labCtx : Ctx := placeCtx 0x0100 0 0
/-- A register of the issuing warp. -/
def reg (r : Nat) (x : RegVal) (s : State) : State :=
  { s with wp := { s.wp with regs := Tab.set Reg.zero s.wp.regs r ⟨x, false, 0⟩ } }
/-- Sources: v10, v20 and v30 uniform. -/
def ops (a b c : Word) : State := reg 10 (.u a) (reg 20 (.u b) (reg 30 (.u c) lab))
/-- Only the first four threads are live, and issue. -/
def four (s : State) : State :=
  { s with wp := s.wp.mapThreads (~~~(15 : Mask)) fun _ t => { t with status := .exited }, iss := { s.iss with lanes := 15 } }
/-- The lane number. -/
def lanes : RegVal := .a 0 1
/-- The predicate bits of every thread. -/
def preds (p : Nat → BitVec 7) (s : State) : State :=
  { s with wp := s.wp.mapThreads Mask.all fun l t => { t with preds := p l } }
/-- The next state. -/
def after (i : Instr) (s : State) : State := match exec i s with | .next t => t | _ => s
/-- A result in lane 0 of v6. -/
def r6 (i : Instr) (s : State) : Word := (after i s).wp.val 6 0
/-- Every register reads 0 in U shape when none is listed. -/
theorem shapes_zero (s : State) (h : s.wp.regs = []) : ∀ r, (s.wp.rv r).shape = 0 := by
  intro r; simp [Warp.rv, Warp.reg, h, Tab.get, Reg.zero, RegVal.shape]

/-! ## Well-formedness -/

/-- A word each check of R75 steps 4 to 9 refuses, with its SUB of R76: a reserved OP, an illegal format, a reserved MOD bit, an unused
field, a register of 384, a pair that is odd, a range past v383, LA on an instruction that is not long-latency, and an illegal
code. -/
theorem test_ill_formed :
    (Instr.iadd (F 6 10 20 0 8)).wellFormed = false ∧ illegalSub 0x18 (F 6 10 20 0 8) = some 2 ∧
    (Instr.nop (F 1 0 0 0 0)).wellFormed = false ∧ illegalSub 0x01 (F 1 0 0 0 0) = some 2 ∧
    (Instr.iadd (F 384 10 20 0 0)).wellFormed = false ∧ illegalSub 0x18 (F 384 10 20 0 0) = some 3 ∧
    (Instr.iadd64 (F 7 10 20 0 0)).wellFormed = false ∧ illegalSub 0x31 (F 7 10 20 0 0) = some 8 ∧
    (Instr.p2v (F 381 2 0 0 0)).wellFormed = false ∧ illegalSub 0x15 (F 381 2 0 0 0) = some 8 ∧
    (Instr.plop (F 8 2 3 0 8)).wellFormed = false ∧ illegalSub 0x14 (F 8 2 3 0 8) = some 3 ∧
    (Instr.iadd { F 6 10 20 0 0 with la := 1 }).wellFormed = false ∧
    (Instr.nop (FI 0 0 0 0 0)).wellFormed = false ∧
    (Instr.iadd { F 6 10 20 0 0 with x := .ext 0 }).wellFormed = false ∧
    (Instr.iadd (FI 6 10 0 0 5)).wellFormed = true ∧ (Instr.iadd { FI 6 10 0 0 5 with vb := 1 }).wellFormed = false ∧
    (Instr.shforce (F 0 10 0 0 3)).wellFormed = false ∧ illegalSub 0x12 (F 0 10 0 0 3) = some 8 ∧
    (Instr.dx 0 0).wellFormed = false ∧ (Instr.pageWalk 288 0 0).wellFormed = false ∧ (Instr.vigilBegin 3).wellFormed = false ∧
    (Instr.idleFlit 18).wellFormed = false ∧ (Instr.holdTimeout 0 4 0).wellFormed = false ∧ (Instr.switchTimeout 1280).wellFormed = false ∧
    (Instr.groupTimeout 0 16 0).wellFormed = false ∧ (Instr.errinjRowSoft 0 0 512).wellFormed = false := by decide +kernel

/-- R74: an OP that is reserved, 0x00 or 0xFF does not decode. -/
theorem test_reserved_op : decodeTableWord 64 0x1C001 = none ∧ decodeTableWord 64 0x1C3FD = none ∧
    decodeTableWord 64 0x1C035 = none := by decide +kernel

/-! ## Decoding -/

/-- R69 and the operand tables: words of the control family. -/
theorem test_decode_control : reads [
  (0x000000000001C005, .nop ⟨7, false, 0, 0x00, 0, 0, 0, 0, .none⟩),
  (0x000001400001C009, .bra ⟨7, false, 0, 0x00, 0, 0, 20, 0, .none⟩),
  (0x000000005001C00D, .brx ⟨7, false, 0, 0x00, 0, 10, 0, 0, .none⟩),
  (0x000001400019C011, .call ⟨7, false, 0, 0x00, 6, 0, 20, 0, .none⟩),
  (0x000000005019C015, .callx ⟨7, false, 0, 0x00, 6, 10, 0, 0, .none⟩),
  (0x000000005001C019, .ret ⟨7, false, 0, 0x00, 0, 10, 0, 0, .none⟩),
  (0x000000000002C01D, .exit ⟨3, true, 0, 0x00, 0, 0, 0, 0, .none⟩),
  (0x094000000001C021, .rcvarm ⟨7, false, 0, 0x25, 0, 0, 0, 0, .none⟩),
  (0x00C000000001C025, .rcvwait ⟨7, false, 0, 0x03, 0, 0, 0, 0, .none⟩),
  (0x07C000000001C029, .rcvdrop ⟨7, false, 0, 0x1F, 0, 0, 0, 0, .none⟩),
  (0x000000000001C02D, .yield ⟨7, false, 0, 0x00, 0, 0, 0, 0, .none⟩),
  (0x0040000057FDC031, .launch ⟨7, false, 0, 0x01, 511, 10, 0, 0, .none⟩)] = true := by decide +kernel
/-- R69 and the operand tables: words of the shape family. -/
theorem test_decode_shape : reads [
  (0x0000000055FDC041, .shq ⟨7, false, 0, 0x00, 383, 10, 0, 0, .none⟩),
  (0x014000005001C045, .shassert ⟨7, false, 0, 0x05, 0, 10, 0, 0, .none⟩),
  (0x008000005001C049, .shforce ⟨7, false, 0, 0x02, 0, 10, 0, 0, .none⟩),
  (0x000000002809C04D, .shnarrow ⟨7, false, 0, 0x00, 2, 5, 0, 0, .none⟩),
  (0x020000301005C051, .plop ⟨7, false, 0, 0x08, 1, 2, 3, 0, .none⟩),
  (0x0000000015F1C055, .p2v ⟨7, false, 0, 0x00, 380, 2, 0, 0, .none⟩),
  (0x00400000501DC059, .v2p ⟨7, false, 0, 0x01, 7, 10, 0, 0, .none⟩)] = true := by decide +kernel
/-- R69 and the operand tables: words of the integer family. -/
theorem test_decode_integer : reads [
  (0x010061405019C061, .iadd ⟨7, false, 0, 0x04, 6, 10, 20, 3, .none⟩),
  (0x008001405019C065, .isub ⟨7, false, 0, 0x02, 6, 10, 20, 0, .none⟩),
  (0x000001405019C069, .imul ⟨7, false, 0, 0x00, 6, 10, 20, 0, .none⟩),
  (0x008001405019C06D, .imulh ⟨7, false, 0, 0x02, 6, 10, 20, 0, .none⟩),
  (0x000141505029C071, .imad ⟨7, false, 0, 0x00, 10, 10, 21, 10, .none⟩),
  (0x0043C1405019C075, .imad64 ⟨7, false, 0, 0x01, 6, 10, 20, 30, .none⟩),
  (0x004001405019C079, .imin ⟨7, false, 0, 0x01, 6, 10, 20, 0, .none⟩),
  (0x000001405019C07D, .imax ⟨7, false, 0, 0x00, 6, 10, 20, 0, .none⟩),
  (0x004000005019C081, .iabs ⟨7, false, 0, 0x01, 6, 10, 0, 0, .none⟩),
  (0x0100E1405019C085, .iaddc ⟨7, false, 0, 0x04, 6, 10, 20, 7, .none⟩),
  (0x000001405019C089, .andL ⟨7, false, 0, 0x00, 6, 10, 20, 0, .none⟩),
  (0x000001405019C08D, .orL ⟨7, false, 0, 0x00, 6, 10, 20, 0, .none⟩),
  (0x000001405019C091, .xorL ⟨7, false, 0, 0x00, 6, 10, 20, 0, .none⟩),
  (0x000001405019C095, .andn ⟨7, false, 0, 0x00, 6, 10, 20, 0, .none⟩),
  (0x004001405019C099, .shl ⟨7, false, 0, 0x01, 6, 10, 20, 0, .none⟩),
  (0x000001405019C09D, .shr ⟨7, false, 0, 0x00, 6, 10, 20, 0, .none⟩),
  (0x000001405019C0A1, .sar ⟨7, false, 0, 0x00, 6, 10, 20, 0, .none⟩),
  (0x000001405019C0A5, .rotl ⟨7, false, 0, 0x00, 6, 10, 20, 0, .none⟩)] = true := by decide +kernel
/-- R69 and the operand tables: words of the integer2 family. -/
theorem test_decode_integer2 : reads [
  (0x000000005019C0A9, .popc ⟨7, false, 0, 0x00, 6, 10, 0, 0, .none⟩),
  (0x000000005019C0AD, .clz ⟨7, false, 0, 0x00, 6, 10, 0, 0, .none⟩),
  (0x000000005019C0B1, .brev ⟨7, false, 0, 0x00, 6, 10, 0, 0, .none⟩),
  (0x004001405019C0B5, .bfe ⟨7, false, 0, 0x01, 6, 10, 20, 0, .none⟩),
  (0x0003E1405019C0B9, .bfi ⟨7, false, 0, 0x00, 6, 10, 20, 31, .none⟩),
  (0x0000A1405019C0BD, .sel ⟨7, false, 0, 0x00, 6, 10, 20, 5, .none⟩),
  (0x0680A140500DC0C1, .icmp ⟨7, false, 0, 0x1A, 3, 10, 20, 5, .none⟩),
  (0x000001405019C0C5, .iadd64 ⟨7, false, 0, 0x00, 6, 10, 20, 0, .none⟩),
  (0x000001405019C0C9, .isub64 ⟨7, false, 0, 0x00, 6, 10, 20, 0, .none⟩),
  (0x00C3E1405019C0CD, .shf ⟨7, false, 0, 0x03, 6, 10, 20, 31, .none⟩),
  (0x188001505019C0D1, .lea ⟨7, false, 0, 0x62, 6, 10, 21, 0, .none⟩),
  (0x000001400019C0D5, .mov ⟨7, false, 0, 0x00, 6, 0, 20, 0, .none⟩),
  (0x01C3E1405019C0D9, .idot4 ⟨7, false, 0, 0x07, 6, 10, 20, 31, .none⟩),
  (0x2B03E1405019C0DD, .lop3 ⟨7, false, 0, 0xAC, 6, 10, 20, 31, .none⟩),
  (0x0003E1405019C0E1, .prmt ⟨7, false, 0, 0x00, 6, 10, 20, 31, .none⟩),
  (0x040000000019C0E5, .sread ⟨7, false, 0, 0x10, 6, 0, 0, 0, .none⟩)] = true := by decide +kernel
/-- R69 and the operand tables: words of the float family. -/
theorem test_decode_float : reads [
  (0x024001405019C101, .fadd ⟨7, false, 0, 0x09, 6, 10, 20, 0, .none⟩),
  (0x000001405019C105, .fsub ⟨7, false, 0, 0x00, 6, 10, 20, 0, .none⟩),
  (0x000001405019C109, .fmul ⟨7, false, 0, 0x00, 6, 10, 20, 0, .none⟩),
  (0x0003E1405019C10D, .ffma ⟨7, false, 0, 0x00, 6, 10, 20, 31, .none⟩),
  (0x060001405019C111, .fmin ⟨7, false, 0, 0x18, 6, 10, 20, 0, .none⟩),
  (0x000001405019C115, .fmax ⟨7, false, 0, 0x00, 6, 10, 20, 0, .none⟩),
  (0x05C061405009C119, .fcmp ⟨7, false, 0, 0x17, 2, 10, 20, 3, .none⟩),
  (0x000000005019FD1D, .frcp ⟨7, false, 15, 0x00, 6, 10, 0, 0, .none⟩),
  (0x000000005019C521, .frsq ⟨7, false, 1, 0x00, 6, 10, 0, 0, .none⟩),
  (0x00C000005019C125, .fsqrt ⟨7, false, 0, 0x03, 6, 10, 0, 0, .none⟩),
  (0x020000005019C129, .fexp2 ⟨7, false, 0, 0x08, 6, 10, 0, 0, .none⟩),
  (0x000000005019C12D, .flog2 ⟨7, false, 0, 0x00, 6, 10, 0, 0, .none⟩),
  (0x000000005019C131, .fsin ⟨7, false, 0, 0x00, 6, 10, 0, 0, .none⟩),
  (0x000000005019C135, .fcos ⟨7, false, 0, 0x00, 6, 10, 0, 0, .none⟩),
  (0x000000005019C139, .ftanh ⟨7, false, 0, 0x00, 6, 10, 0, 0, .none⟩)] = true := by decide +kernel
/-- R69 and the operand tables: words of the float2 family. -/
theorem test_decode_float2 : reads [
  (0x004000005019C13D, .frnd ⟨7, false, 0, 0x01, 6, 10, 0, 0, .none⟩),
  (0x000000005019C141, .fclass ⟨7, false, 0, 0x00, 6, 10, 0, 0, .none⟩),
  (0x040001405019C145, .padd2 ⟨7, false, 0, 0x10, 6, 10, 20, 0, .none⟩),
  (0x000001405019C149, .pmul2 ⟨7, false, 0, 0x00, 6, 10, 20, 0, .none⟩),
  (0x0003E1405019C14D, .pfma2 ⟨7, false, 0, 0x00, 6, 10, 20, 31, .none⟩),
  (0x0A0001405019C151, .pmin2 ⟨7, false, 0, 0x28, 6, 10, 20, 0, .none⟩),
  (0x000001405019C155, .pmax2 ⟨7, false, 0, 0x00, 6, 10, 20, 0, .none⟩),
  (0x0C000000100DC159, .cvt ⟨7, false, 0, 0x30, 3, 2, 0, 0, .none⟩),
  (0x00C000005019C15D, .cvtp ⟨7, false, 0, 0x03, 6, 10, 0, 0, .none⟩),
  (0x014000005019C161, .cvtu ⟨7, false, 0, 0x05, 6, 10, 0, 0, .none⟩),
  (0x00C001405019C165, .scale ⟨7, false, 0, 0x03, 6, 10, 20, 0, .none⟩),
  (0x0403E1405019C169, .fdot2 ⟨7, false, 0, 0x10, 6, 10, 20, 31, .none⟩),
  (0x014000904051C16D, .qdec ⟨7, false, 0, 0x05, 20, 8, 9, 0, .none⟩)] = true := by decide +kernel
/-- R69 and the operand tables: words of the warpWide family. -/
theorem test_decode_warpWide : reads [
  (0x200001405019C1C1, .shfl ⟨7, false, 0, 0x80, 6, 10, 20, 0, .none⟩),
  (0x20C000001819C1C5, .vote ⟨7, false, 0, 0x83, 6, 3, 0, 0, .none⟩),
  (0x20000000100DC1C9, .redux ⟨7, false, 0, 0x80, 3, 2, 0, 0, .none⟩),
  (0x200000005019C1CD, .matchL ⟨7, false, 0, 0x80, 6, 10, 0, 0, .none⟩),
  (0x240000005019C1D1, .scan ⟨7, false, 0, 0x90, 6, 10, 0, 0, .none⟩),
  (0x200000000FFDC1D5, .elect ⟨7, false, 0, 0x80, 511, 1, 0, 0, .none⟩)] = true := by decide +kernel
/-- R69 and the operand tables: words of the memory family. -/
theorem test_decode_memory : reads [
  (0x010000200029C201, .ld ⟨7, false, 0, 0x04, 10, 0, 2, 0, .none⟩),
  (0x010000805001C205, .st ⟨7, false, 0, 0x04, 0, 10, 8, 0, .none⟩),
  (0x018001500021C209, .lds ⟨7, false, 0, 0x06, 8, 0, 21, 0, .none⟩),
  (0x014001505001C20D, .sts ⟨7, false, 0, 0x05, 0, 10, 21, 0, .none⟩),
  (0x0043E15007FDC211, .ldx ⟨7, false, 0, 0x01, 511, 0, 21, 31, .none⟩),
  (0x0083E1505001C215, .stx ⟨7, false, 0, 0x02, 0, 10, 21, 31, .none⟩),
  (0x3F0001405019C219, .atom ⟨7, false, 0, 0xFC, 6, 10, 20, 0, .none⟩),
  (0x0043C1405019C21D, .atomcas ⟨7, false, 0, 0x01, 6, 10, 20, 30, .none⟩),
  (0x180001405001C221, .red ⟨7, false, 0, 0x60, 0, 10, 20, 0, .none⟩),
  (0x00C001400001C225, .pref ⟨7, false, 0, 0x03, 0, 0, 20, 0, .none⟩),
  (0x3C0000000001C229, .fence ⟨7, false, 0, 0xF0, 0, 0, 0, 0, .none⟩),
  (0x000001505001C22D, .sealR ⟨7, false, 0, 0x00, 0, 10, 21, 0, .none⟩),
  (0x010001505001C231, .unsealR ⟨7, false, 0, 0x04, 0, 10, 21, 0, .none⟩),
  (0x000001505019C235, .pin ⟨7, false, 0, 0x00, 6, 10, 21, 0, .none⟩),
  (0x0000015057FDC239, .unpin ⟨7, false, 0, 0x00, 511, 10, 21, 0, .none⟩),
  (0x030001500019CA3D, .ldc ⟨7, false, 2, 0x0C, 6, 0, 21, 0, .none⟩),
  (0x008001400001C241, .cctl ⟨7, false, 0, 0x02, 0, 0, 20, 0, .none⟩)] = true := by decide +kernel
/-- R69 and the operand tables: words of the sync family. -/
theorem test_decode_sync : reads [
  (0x0043E1405001C281, .pbinit ⟨7, false, 0, 0x01, 0, 10, 20, 31, .none⟩),
  (0x03C3E1405019C285, .pbarrive ⟨7, false, 0, 0x0F, 6, 10, 20, 31, .none⟩),
  (0x00C3E1405019C289, .pbwait ⟨7, false, 0, 0x03, 6, 10, 20, 31, .none⟩),
  (0x0083E1405019C28D, .pbtest ⟨7, false, 0, 0x02, 6, 10, 20, 31, .none⟩),
  (0x3D4000000001C291, .bsync ⟨7, false, 0, 0xF5, 0, 0, 0, 0, .none⟩),
  (0x21C001400019C295, .sbar ⟨7, false, 0, 0x87, 6, 0, 20, 0, .none⟩),
  (0x1403E1405019C299, .evwait ⟨7, false, 0, 0x50, 6, 10, 20, 31, .none⟩),
  (0x3003E1405819C2C1, .cpy ⟨7, false, 0, 0xC0, 6, 11, 20, 31, .none⟩),
  (0x000001400019C2C5, .cpyq ⟨7, false, 0, 0x00, 6, 0, 20, 0, .none⟩),
  (0x004001400019C2C9, .cpywait ⟨7, false, 0, 0x01, 6, 0, 20, 0, .none⟩),
  (0x0203C1405019C2CD, .coll ⟨7, false, 0, 0x08, 6, 10, 20, 30, .none⟩),
  (0x000000600029C2D1, .collq ⟨7, false, 0, 0x00, 10, 0, 6, 0, .none⟩)] = true := by decide +kernel
/-- R69 and the operand tables: words of the engine family. -/
theorem test_decode_engine : reads [
  (0x000001400019C301, .osclaim ⟨7, false, 0, 0x00, 6, 0, 20, 0, .none⟩),
  (0x000001400001C305, .osrel ⟨7, false, 0, 0x00, 0, 0, 20, 0, .none⟩),
  (0x07000140587DC309, .osload ⟨7, false, 0, 0x1C, 31, 11, 20, 0, .none⟩),
  (0x000001400019C30D, .osq ⟨7, false, 0, 0x00, 6, 0, 20, 0, .none⟩),
  (0x004001400019C311, .accgrow ⟨7, false, 0, 0x01, 6, 0, 20, 0, .none⟩),
  (0x000001400001C315, .accfree ⟨7, false, 0, 0x00, 0, 0, 20, 0, .none⟩),
  (0x00000000003DC319, .acczero ⟨7, false, 0, 0x00, 15, 0, 0, 0, .none⟩),
  (0x0FC000007819C31D, .accld ⟨7, false, 0, 0x3F, 6, 15, 0, 0, .none⟩),
  (0x020341C04001C321, .accst ⟨7, false, 0, 0x08, 0, 8, 28, 26, .none⟩),
  (0x00000000780DC325, .accmv ⟨7, false, 0, 0x00, 3, 15, 0, 0, .none⟩),
  (0x000000100001C329, .mma ⟨7, false, 0, 0x00, 0, 0, 1, 0, .none⟩),
  (0x0003E1E0F80DC32D, .mmag ⟨7, false, 0, 0x00, 3, 31, 30, 31, .none⟩),
  (0x000000000001C331, .mrfence ⟨7, false, 0, 0x00, 0, 0, 0, 0, .none⟩),
  (0x0FC000000001C335, .mwait ⟨7, false, 0, 0x3F, 0, 0, 0, 0, .none⟩),
  (0x004000002001C381, .bdset ⟨7, false, 0, 0x01, 0, 4, 0, 0, .none⟩),
  (0x040000000019C385, .bdget ⟨7, false, 0, 0x10, 6, 0, 0, 0, .none⟩),
  (0x000000F0F801C389, .ttc ⟨7, false, 0, 0x00, 0, 31, 15, 0, .none⟩),
  (0x000001405001C38D, .ttrun ⟨7, false, 0, 0x00, 0, 10, 20, 0, .none⟩),
  (0x004000F00019C391, .ttq ⟨7, false, 0, 0x01, 6, 0, 15, 0, .none⟩)] = true := by decide +kernel
/-- R69 and the operand tables: words of the dictionary family. -/
theorem test_decode_dictionary : reads [
  (0x00C000005019C3A1, .dload ⟨7, false, 0, 0x03, 6, 10, 0, 0, .none⟩),
  (0x008000000001C3A5, .dswitch ⟨7, false, 0, 0x02, 0, 0, 0, 0, .none⟩),
  (0x000000000001C3A9, .dsync ⟨7, false, 0, 0x00, 0, 0, 0, 0, .none⟩),
  (0x0100000055E9C3AD, .dread ⟨7, false, 0, 0x04, 378, 10, 0, 0, .none⟩),
  (0x004001505019C3B1, .dpatch ⟨7, false, 0, 0x01, 6, 10, 21, 0, .none⟩)] = true := by decide +kernel
/-- R69 and the operand tables: words of the system family. -/
theorem test_decode_system : reads [
  (0x000001400001C3C1, .trap ⟨7, false, 0, 0x00, 0, 0, 20, 0, .none⟩),
  (0x0040000B9001C3C5, .tret ⟨7, false, 0, 0x01, 0, 370, 0, 0, .none⟩),
  (0x000001400019C3C9, .csrr ⟨7, false, 0, 0x00, 6, 0, 20, 0, .none⟩),
  (0x000001405001C3CD, .csrw ⟨7, false, 0, 0x00, 0, 10, 20, 0, .none⟩),
  (0x000001400019C3D1, .sysq ⟨7, false, 0, 0x00, 6, 0, 20, 0, .none⟩),
  (0x000000000001C3D5, .region ⟨7, false, 0, 0x00, 0, 0, 0, 0, .none⟩),
  (0x3FC000000001C3D9, .brk ⟨7, false, 0, 0xFF, 0, 0, 0, 0, .none⟩),
  (0x00C000005001C3DD, .pcmp ⟨7, false, 0, 0x03, 0, 10, 0, 0, .none⟩)] = true := by decide +kernel
/-- R71: the manual's F96 words `bra -32`, `mov v2, 4096`, and words of F128 with their EXT. -/
theorem test_decode_wide :
    decodeTableWord 96 0xFFFFFFE0000000000001C00A = some (.bra (FI 0 0 0 0 0xFFFFFFE0)) ∧
    decodeTableWord 96 0x00001000000000000009C0D6 = some (.mov (FI 2 0 0 0 4096)) ∧
    decodeTableWord 96 0x00000007000000001001C3CE = some (.csrw (FI 0 2 0 0 7)) ∧
    decodeTableWord 128 0x000000000000100000400000D819C3A3 = none ∧
    decodeTableWord 128 0x0000000000001000004000000019C3A3 = some (.dload { F 6 0 0 0 1 with x := .ext 0x1000 }) ∧
    decodeTableWord 32 0x30582814 = some (.dx 0x0C160A 5) ∧ decodeTableWord 32 0 = some .fillWord := by decide +kernel

/-! ## Integer instructions (R138-R147) -/

theorem test_iadd : r6 (.iadd (F 6 10 20 0 0)) (ops 0xFFFFFFFF 2 0) = 1 ∧ r6 (.iadd (F 6 10 20 0 1)) (ops 0x7FFFFFFF 1 0) = 0x7FFFFFFF ∧
    r6 (.iadd (F 6 10 20 0 2)) (ops 0xFFFFFFFF 2 0) = 0xFFFFFFFF ∧
    (after (.iadd (F 6 10 20 3 4)) (ops 0xFFFFFFFF 1 0)).wp.pred 3 127 = true := by decide +kernel
theorem test_isub : r6 (.isub (F 6 10 20 0 0)) (ops 1 2 0) = 0xFFFFFFFF ∧ r6 (.isub (F 6 10 20 0 2)) (ops 1 2 0) = 0 ∧
    r6 (.isub (F 6 10 20 0 1)) (ops 0x80000000 1 0) = 0x80000000 := by decide +kernel
theorem test_iaddc : r6 (.iaddc (F 6 10 20 7 0)) (ops 1 2 0) = 4 ∧
    (after (.iaddc (F 6 10 20 3 4)) (preds (fun _ => 8) (ops 0xFFFFFFFF 0 0))).wp.pred 3 0 = true ∧
    (after (.iaddc (F 6 10 20 3 0)) (ops 0xFFFFFFFF 1 0)).wp.pred 3 0 = false := by decide +kernel
/-- R139's own example. -/
theorem test_imulh : r6 (.imulh (F 6 10 20 0 1)) (ops 0xFFFFFFFF 2 0) = 0xFFFFFFFF ∧
    r6 (.imulh (F 6 10 20 0 0)) (ops 0xFFFFFFFF 2 0) = 1 ∧ r6 (.imulh (F 6 10 20 0 2)) (ops 0xFFFFFFFF 2 0) = 0xFFFFFFFF := by
  decide +kernel
theorem test_imul : r6 (.imul (F 6 10 20 0 0)) (ops 0x10001 0x10001 0) = 0x20001 ∧
    r6 (.imad (F 6 10 20 30 0)) (ops 0x10001 0x10001 5) = 0x20006 := by decide +kernel
theorem test_imad64 :
    let s := after (.imad64 (F 6 10 20 30 1)) (reg 31 (.u 1) (ops 0xFFFFFFFF 2 1))
    s.wp.val 6 0 = 0xFFFFFFFF ∧ s.wp.val 7 0 = 0 := by decide +kernel
theorem test_iadd64 :
    let s := reg 11 (.u 1) (reg 21 (.u 2) (ops 0xFFFFFFFF 1 0))
    (after (.iadd64 (F 6 10 20 0 0)) s).wp.pair 6 0 = 0x400000000 ∧ (after (.isub64 (F 6 10 20 0 0)) s).wp.pair 6 0 = 0xFFFFFFFFFFFFFFFE ∧
    (after (.iadd64 (FI 6 10 0 0 0xFFFFFFFF)) s).wp.pair 6 0 = 0x1FFFFFFFE := by decide +kernel
theorem test_extrema : r6 (.imin (F 6 10 20 0 1)) (ops 0xFFFFFFFF 2 0) = 0xFFFFFFFF ∧ r6 (.imax (F 6 10 20 0 0)) (ops 0xFFFFFFFF 2 0) = 0xFFFFFFFF ∧
    r6 (.iabs (F 6 10 0 0 0)) (ops 0x80000000 0 0) = 0x80000000 ∧ r6 (.iabs (F 6 10 0 0 1)) (ops 0x80000000 0 0) = 0x7FFFFFFF := by
  decide +kernel
/-- R142's tables: T 0xAC is c ? a : b. -/
theorem test_logic : r6 (.andL (F 6 10 20 0 0)) (ops 0xC 0xA 0) = 8 ∧ r6 (.orL (F 6 10 20 0 0)) (ops 0xC 0xA 0) = 0xE ∧
    r6 (.xorL (F 6 10 20 0 0)) (ops 0xC 0xA 0) = 6 ∧ r6 (.andn (F 6 10 20 0 0)) (ops 0xC 0xA 0) = 4 ∧
    r6 (.lop3 (F 6 10 20 30 0xAC)) (ops 0x0F0F 0x3333 0x00FF) = 0x330F := by decide +kernel
theorem test_shifts : r6 (.shl (F 6 10 20 0 0)) (ops 3 32 0) = 0 ∧ r6 (.shl (F 6 10 20 0 1)) (ops 3 33 0) = 6 ∧
    r6 (.shr (F 6 10 20 0 0)) (ops 0x80000000 31 0) = 1 ∧ r6 (.sar (F 6 10 20 0 0)) (ops 0x80000000 40 0) = 0xFFFFFFFF ∧
    r6 (.rotl (F 6 10 20 0 0)) (ops 0x80000001 4 0) = 0x18 := by decide +kernel
/-- R143: SHF.LO by -32 yields c, SHF.HI by 32 yields a, and 64 or more yields 0. -/
theorem test_shf : r6 (.shf (F 6 10 20 30 0)) (ops 7 0xFFFFFFE0 9) = 9 ∧ r6 (.shf (F 6 10 20 30 1)) (ops 7 32 9) = 7 ∧
    r6 (.shf (F 6 10 20 30 1)) (ops 7 64 9) = 0 := by decide +kernel
/-- R144's own examples. -/
theorem test_bits : r6 (.bfe (F 6 10 20 0 1)) (ops 0xF0 0x404 0) = 0xFFFFFFFF ∧ r6 (.bfe (F 6 10 20 0 1)) (ops 0xF0 0x81C 0) = 0 ∧
    r6 (.prmt (F 6 10 20 30 0)) (ops 0x11228344 0 0xAA10) = 0xFFFF8344 ∧ r6 (.bfi (F 6 10 20 30 0)) (ops 0xFF 0x81C 0) = 0xF0000000 := by
  decide +kernel
theorem test_counts : r6 (.popc (F 6 10 0 0 0)) (ops 0xF00F 0 0) = 8 ∧ r6 (.clz (F 6 10 0 0 0)) (ops 0 0 0) = 32 ∧
    r6 (.clz (F 6 10 0 0 0)) (ops 1 0 0) = 31 ∧ r6 (.brev (F 6 10 0 0 0)) (ops 1 0 0) = 0x80000000 := by decide +kernel
theorem test_select : r6 (.sel (F 6 10 20 3 0)) (preds (fun _ => 8) (ops 1 2 0)) = 1 ∧ r6 (.sel (F 6 10 20 3 0)) (ops 1 2 0) = 2 ∧
    r6 (.mov (FI 6 0 0 0 0x1234)) (ops 0 0 0) = 0x1234 := by decide +kernel
theorem test_icmp :
    (after (.icmp (F 2 10 20 0 0x0A)) (ops 0xFFFFFFFF 1 0)).wp.pred 2 5 = true ∧
    (after (.icmp (F 2 10 20 0 0x02)) (ops 0xFFFFFFFF 1 0)).wp.pred 2 5 = false ∧
    (after (.icmp (F 2 10 20 2 0x30)) (preds (fun _ => 4) (ops 1 1 0))).wp.pred 2 5 = false := by decide +kernel
/-- The three cases of LEA.X64 in "Shapes at work". -/
theorem test_lea :
    let s := reg 3 (.a 0x4000 4) (reg 9 (.u 2) lab)
    let t (lo : Word) : Warp := (after (.lea (F 6 8 3 0 0x20)) (reg 8 (.u lo) s)).wp
    (t 0xFFFF0000).rv 6 = .a 0xFFFF4000 4 ∧ (t 0xFFFF0000).rv 7 = .u 2 ∧ (t 0xFFFFC000).rv 6 = .a 0 4 ∧ (t 0xFFFFC000).rv 7 = .u 3 ∧
    ((t 0xFFFFBF00).rv 6).shape = 2 ∧ (t 0xFFFFBF00).val 7 63 = 2 ∧ (t 0xFFFFBF00).val 7 64 = 3 := by decide +kernel
theorem test_idot4 : r6 (.idot4 (F 6 10 20 30 3)) (ops 0x010203FF 0x01010102 10) = 14 ∧
    r6 (.idot4 (F 6 10 20 30 4)) (ops 0xFFFFFFFF 0xFFFFFFFF 0xFFFFFFFF) = 0xFFFFFFFF := by decide +kernel
/-- "Shapes at work": the shapes of a line of each kind. -/
theorem test_shapes :
    let s := reg 1 lanes (reg 2 (.u 16384) lab)
    (after (.sread (F 6 0 0 0 0)) s).wp.rv 6 = .a 0 1 ∧ (after (.lea (F 6 2 1 0 2)) s).wp.rv 6 = .a 0x4000 4 ∧
    ((after (.imad (F 6 1 1 2 0)) s).wp.rv 6).shape = 2 ∧ (after (.imad (F 6 1 1 2 0)) s).wp.val 6 127 = 0x7F01 ∧
    ((after (.shl (FI 6 1 0 0 32)) s).wp.rv 6).shape = 2 ∧ (after (.isub (F 6 1 1 0 0)) s).wp.rv 6 = .u 0 := by decide +kernel
theorem test_sread :
    let t (m : BitVec 8) : Word := (after (.sread (F 6 0 0 0 m)) lab).wp.val 6 77
    lab.blk.copy = .single ∧ t 0 = 77 ∧ t 1 = 0 ∧ t 2 = 0 ∧ t 3 = 0 ∧ t 4 = 0 ∧ t 5 = 0 ∧ t 6 = 0 ∧ t 7 = 0 ∧ t 8 = 0 ∧ t 0x10 = 0 := by
  decide +kernel
/-- Operands of LeaAndDot in its two forms, and of ShapesOfResults: a thread enabled, no modifier, a destination. -/
theorem test_witness_lea : (F 6 10 20 0 0).b 5 = false ∧ (F 6 10 20 0 0x20).b 5 = true ∧
    (F 6 10 20 0 0).vd.toNat ≠ 511 ∧ lab.en (F 6 10 20 0 0) ≠ 0 ∧ (F 6 10 20 0 0).mod = 0 := by decide +kernel

/-! ## Shapes and predicates (R115-R122) -/

/-- A warp whose traps have a handler at offset 16. -/
def handled (s : State) : State := { s with wp := { s.wp with trapBase := 0x11 } }
/-- It can enter the handler. -/
theorem test_can_enter : CanEnter (handled lab) :=
  ⟨by decide +kernel, by decide +kernel, fun p h => nomatch (show p ∈ ([] : List Pending) from h)⟩

theorem test_shq : r6 (.shq (F 6 10 0 0 0)) (reg 10 lanes lab) = 1 ∧ r6 (.shq (F 6 10 0 0 0)) (reg 10 (RegVal.lanes fun l => BitVec.ofNat 32 (l * l)) lab) = 2 := by
  decide +kernel
/-- An affine register, as SHASSERT of a set that allows A and of one that does not meet it. -/
theorem test_shassert :
    let s := handled (reg 10 lanes lab)
    lab.en (F 0 10 0 0 2) ≠ 0 ∧ (F 0 10 0 0 2).mod.getLsbD (s.wp.rv 10).shape = true ∧ (after (.shassert (F 0 10 0 0 2)) s).wp.trap = TrapRec.zero ∧
    (F 0 10 0 0 1).mod.getLsbD (s.wp.rv 10).shape = false ∧ (after (.shassert (F 0 10 0 0 1)) s).wp.trap.cause = 5 ∧
    (after (.shassert (F 0 10 0 0 1)) s).wp.trap.addr = 0x40A := by decide +kernel
/-- SHFORCE in its modes: equal lanes, affine lanes, any lanes, and lanes that are not equal. -/
theorem test_shforce :
    let equal (s : State) : Prop := ∀ l, l < 4 → ∀ k, k < 4 → s.wp.val 10 l = s.wp.val 10 k
    let s1 := four (reg 10 (RegVal.lanes fun _ => 7) lab)
    let s2 := handled (reg 10 (RegVal.lanes fun l => BitVec.ofNat 32 (3 * l)) lab)
    equal s1 ∧ (after (.shforce (F 0 10 0 0 0)) s1).wp.rv 10 = .u 7 ∧ (s2.wp.affineReg 10).isSome = true ∧
    (after (.shforce (F 0 10 0 0 1)) s2).wp.rv 10 = .a 0 3 ∧ ((after (.shforce (F 0 10 0 0 2)) lab).wp.rv 10).shape = 2 ∧
    s2.wp.val 10 0 ≠ s2.wp.val 10 1 ∧ (after (.shforce (F 0 10 0 0 0)) s2).wp.trap.cause = 6 := by decide +kernel
theorem test_shnarrow :
    let t := after (.shnarrow (F 2 10 0 0 0)) (reg 10 (RegVal.lanes fun l => BitVec.ofNat 32 (3 * l)) lab)
    t.wp.rv 10 = .a 0 3 ∧ t.wp.pred 2 0 = true := by decide +kernel
/-- R120: T 6 is a xor b. -/
theorem test_plop : (after (.plop (F 1 2 3 0 6)) (preds (fun _ => 4) lab)).wp.pred 1 9 = true ∧
    (after (.plop (F 1 2 3 0 6)) (preds (fun _ => 12) lab)).wp.pred 1 9 = false := by decide +kernel
theorem test_p2v :
    let t := after (.p2v (F 8 2 0 0 0)) (preds (fun l => if l % 2 = 0 then 4 else 0) lab)
    t.wp.rv 8 = .u 0x55555555 ∧ t.wp.rv 11 = .u 0x55555555 := by decide +kernel
theorem test_v2p :
    (after (.v2p (F 1 8 0 0 1)) (reg 9 (.u 0x80000000) lab)).wp.pred 1 63 = true ∧ (after (.v2p (F 1 8 0 0 1)) (reg 9 (.u 0x80000000) lab)).wp.pred 1 31 = false ∧
    (after (.v2p (F 1 8 0 0 0)) (reg 8 lanes lab)).wp.pred 1 0 = false ∧ (after (.v2p (F 1 8 0 0 0)) (reg 8 lanes lab)).wp.pred 1 1 = true := by decide +kernel

/-! ## Float instructions (R189-R205) -/

/-- FPSTAT after an instruction. -/
def flagsAfter (i : Instr) (s : State) : BitVec 7 := (after i s).wp.fpstat

theorem test_fadd : r6 (.fadd (F 6 10 20 0 0)) (ops 0x3F800000 0x40000000 0) = 0x40400000 ∧
    r6 (.fadd (F 6 10 20 0 0)) (ops 0x7F800000 0xFF800000 0) = 0x7FC00000 ∧
    flagsAfter (.fadd (F 6 10 20 0 0)) (ops 0x7F800000 0xFF800000 0) = 0x10 ∧
    r6 (.fsub (F 6 10 20 0 0)) (ops 0x3F800000 0x40000000 0) = 0xBF800000 := by decide +kernel
/-- 1 + 2^-24 ties to even under RNE, and goes up under rounding to plus infinity (code 3). -/
theorem test_rounding : r6 (.fadd (F 6 10 20 0 0)) (ops 0x3F800000 0x33800000 0) = 0x3F800000 ∧
    flagsAfter (.fadd (F 6 10 20 0 0)) (ops 0x3F800000 0x33800000 0) = 1 := by decide +kernel
theorem test_fmul : r6 (.fmul (F 6 10 20 0 0)) (ops 0x40400000 0x40A00000 0) = 0x41700000 ∧
    r6 (.ffma (F 6 10 20 30 0)) (ops 0x40400000 0x40A00000 0x3F800000) = 0x41800000 := by decide +kernel
theorem test_fminmax : r6 (.fmin (F 6 10 20 0 0)) (ops 0x7FC00000 0x3F800000 0) = 0x3F800000 ∧
    r6 (.fmax (F 6 10 20 0 0x10)) (ops 0x7FC00000 0x3F800000 0) = 0x7FC00000 := by decide +kernel
/-- FCMP under each clause of its statement: an unordered condition 7, an ordered one 6, and a comparison. -/
theorem test_fcmp :
    let p (m : BitVec 8) (a b : Word) : Bool := (after (.fcmp (F 2 10 20 0 m)) (ops a b 0)).wp.pred 2 0
    (F 2 10 20 0 7).m 2 0 = 7 ∧ p 7 0x7FC00000 0 = true ∧ (F 2 10 20 0 6).m 2 0 = 6 ∧ p 6 0x7FC00000 0 = false ∧ p 6 0 0 = true ∧
    (F 2 10 20 0 2).m 2 0 ≤ 5 ∧ p 2 0xBF800000 0x3F800000 = true ∧ p 2 0x7FC00000 0x3F800000 = false := by decide +kernel
theorem test_fclass : r6 (.frnd (F 6 10 0 0 0)) (ops 0x40200000 0 0) = 0x40000000 ∧
    r6 (.frnd (F 6 10 0 0 0)) (ops 0x40600000 0 0) = 0x40800000 := by decide +kernel
theorem test_packed : r6 (.padd2 (F 6 10 20 0 0)) (ops 0x3C004000 0x3C003C00 0) = 0x40004200 ∧
    r6 (.pmul2 (F 6 10 20 0 0x10)) (ops 0x3F804000 0x40003F80 0) = 0x40004000 ∧
    r6 (.pmin2 (F 6 10 20 0 0)) (ops 0x3C004000 0x40003C00 0) = 0x3C003C00 ∧ r6 (.pmax2 (F 6 10 20 0 0)) (ops 0x3C004000 0x40003C00 0) = 0x40004000 := by
  decide +kernel
theorem test_fdot2 : r6 (.fdot2 (F 6 10 20 30 0)) (ops 0x3C004000 0x3C003C00 0x3F800000) = 0x40800000 ∧
    r6 (.pfma2 (F 6 10 20 30 0)) (ops 0x3C004000 0x3C003C00 0x3C003C00) = 0x40004200 := by decide +kernel
/-- The manual's table of conversions from FP32 under RNE: E4M3 of 1.0, 2.5 and 300.0, E5M2 of 70,000. -/
theorem test_cvt :
    let c (m : BitVec 8) (a : Word) : Word := r6 (.cvt (F 6 10 0 0 m)) (reg 10 (.u a) lab)
    c 0x30 0x3F800000 = 0x38 ∧ c 0x30 0x40200000 = 0x42 ∧ c 0x30 0x43960000 = 0x79 ∧ c 0x40 0x4788B800 = 0x7C := by decide +kernel
theorem test_cvtp :
    (F 6 10 0 0 3).imm.toNat % 8 ≤ 4 ∧
    (after (.cvtp (F 6 10 0 0 3)) (reg 10 (.u 0x3F800000) (reg 11 (.u 0x3F800000) (reg 12 (.u 0x3F800000) (reg 13 (.u 0x40200000) lab))))).wp.val 6 0
      = 0x42383838 ∧
    (after (.cvtu (F 6 10 0 0 3)) (reg 10 (.u 0x42383838) lab)).wp.val 9 0 = 0x40200000 := by decide +kernel
theorem test_scale : r6 (.scale (F 6 10 20 0 0)) (ops 0x3F800000 0x80 0) = 0x40000000 ∧
    (F 6 10 0 0 0x30).imm.toNat % 8 < 4 := by decide +kernel
/-- A square root marks its destination, and the write-back writes it. -/
theorem test_long_latency :
    let s := ops 0x40800000 0 0
    let t := after (.fsqrt (F 6 10 0 0 0)) s
    s.en (F 6 10 0 0 0) ≠ 0 ∧ (F 6 10 0 0 0).vd.toNat ≠ 511 ∧ t.wp.val 6 0 = 0 ∧ t.wp.pending.length = 1 ∧
    (after (.longLatencyWriteback t.blk.id t.wp.idx) t).wp.val 6 0 = 0x40000000 ∧
    (after (.longLatencyWriteback t.blk.id t.wp.idx) t).wp.pending = [] := by decide +kernel
theorem test_functions :
    let v (i : Instr) : Word := let t := after i (ops 0x3F800000 0 0); (after (.longLatencyWriteback t.blk.id t.wp.idx) t).wp.val 6 0
    v (.frcp (F 6 10 0 0 0)) = 0x3F800000 ∧ v (.frsq (F 6 10 0 0 0)) = 0x3F800000 ∧ v (.fexp2 (F 6 10 0 0 0)) = 0x40000000 ∧
    v (.flog2 (F 6 10 0 0 0)) = 0 := by decide +kernel
/-- NaN operands of FloatSpecialValues: quiet, signalling, and one NaN beside a number. -/
theorem test_nan_operands : 0x7F800001 / 2 ^ 23 % 256 = 255 ∧ 0x7F800001 % 2 ^ 23 ≠ 0 ∧
    fp32.arith .add 0 false 0x7F800001 0x3F800000 0 = (0x7FC00000, 0x10) ∧ fp32.arith .mul 0 false 0x7FC00000 0x3F800000 0 = (0x7FC00000, 0) ∧
    fp32.minmax false false false 0x7FC00000 0x3F800000 = (0x3F800000, 0) ∧ fp32.minmax true true false 0x7FC00000 0x7FC00000 = (0x7FC00000, 0) := by
  decide +kernel

/-! ## Control (R148-R159) -/

/-- The PC of a lane after an instruction. -/
def pcOf (i : Instr) (s : State) (l : Nat) : Nat := ((after i s).wp.thread l).pc.toNat
/-- Code of 4 KiB. -/
def wide (s : State) : State := { s with blk := { s.blk with header := { s.blk.header with codeSize := 4096 } } }

theorem test_nop : pcOf (.nop (F 0 0 0 0 0)) lab 127 = 8 ∧ pcOf .fillWord { lab with iss := { lab.iss with len := 4 } } 0 = 4 ∧
    pcOf (.yield (F 0 0 0 0 0)) lab 5 = 8 := by decide +kernel
/-- Targets inside the code for every enabled lane. -/
theorem test_bra :
    let s := wide lab
    (∀ l, l < 128 → Mask.has (s.en (FI 0 0 0 0 64)) l = true →
      (s.iss.pc + (s.opB (FI 0 0 0 0 64) l).signExtend 57).toNat % 4 = 0 ∧
      (s.iss.pc + (s.opB (FI 0 0 0 0 64) l).signExtend 57).toNat < s.blk.header.codeSize) ∧
    pcOf (.bra (FI 0 0 0 0 64)) s 3 = 64 ∧ pcOf (.bra { FI 0 0 0 0 64 with pg := 1 }) s 3 = 8 := by decide +kernel
theorem test_brx :
    let s := reg 10 (.a 0 4) (wide lab)
    (∀ l, l < 128 → (s.opA (F 0 10 0 0 0) l).toNat % 4 = 0 ∧ (s.opA (F 0 10 0 0 0) l).toNat < s.blk.header.codeSize) ∧
    pcOf (.brx (F 0 10 0 0 0)) s 3 = 12 := by decide +kernel
theorem test_call :
    let t := after (.call (FI 6 0 0 0 64)) (wide lab)
    t.wp.pair 6 0 = 8 ∧ (t.wp.thread 0).pc = 64 ∧ (after (.callx (F 6 10 0 0 0)) (reg 10 (.u 32) (wide lab))).wp.pair 6 0 = 8 := by decide +kernel
/-- A return address with the launch's tag 0, and one with another. -/
theorem test_ret :
    let s := handled (reg 10 (.u 64) (wide lab))
    (s.pairA (F 0 10 0 0 0) 0).toNat / 2 ^ 57 = s.blk.tag % 16 * 8 ∧ pcOf (.ret (F 0 10 0 0 0)) s 0 = 64 ∧
    (let s1 := reg 11 (.u 0x10000000) s
     (s1.pairA (F 0 10 0 0 0) 0).toNat / 2 ^ 57 ≠ s1.blk.tag % 16 * 8 ∧ (after (.ret (F 0 10 0 0 0)) s1).wp.trap.cause = 1 ∧
     (after (.ret (F 0 10 0 0 0)) s1).wp.trap.addr = 0x700000000) := by decide +kernel
/-- A target that is no multiple of 4, and one at the end of the code. -/
theorem test_bad_targets :
    let s := handled (wide lab)
    s.iss.d32 = none ∧ (after (.bra (FI 0 0 0 0 2)) s).wp.trap.addr = 0x800000000 ∧
    (after (.brx (F 0 10 0 0 0)) (reg 10 (.u 4096) s)).wp.trap.addr = 0x800000000 := by decide +kernel
/-- RCVARM by the even lanes, RCVWAIT by them, and the release. -/
theorem test_reconvergence :
    let s := preds (fun l => if l % 2 = 0 then 1 else 0) lab
    let f : Fields := { F 0 0 0 0 3 with pg := 0 }
    let t := after (.rcvarm f) s
    s.blk.header.depth = 32 ∧ s.en f ≠ 0 ∧ t.wp.rcv.getD 3 0 = 0x55555555555555555555555555555555 ∧
    (after (.rcvdrop f) t).wp.rcv.getD 3 0 = 0 ∧
    (let u := after (.rcvwait (F 0 0 0 0 3)) { t with iss := { t.iss with pc := 8 } }
     u.wp.rcv.getD 3 0 = 0 ∧ (u.wp.thread 0).status = .eligible ∧ (u.wp.thread 0).pc = 16 ∧ (u.wp.thread 1).pc = 16) := by decide +kernel
/-- A warp with no reconvergence entry: DEPTH. -/
theorem test_depth :
    let s := handled { lab with blk := { lab.blk with header := { lab.blk.header with depth := 0 } } }
    s.blk.header.depth ≤ (F 0 0 0 0 5).m 4 0 ∧ (after (.rcvwait (F 0 0 0 0 5)) s).wp.trap.cause = 0x18 ∧
    (after (.rcvwait (F 0 0 0 0 5)) s).wp.trap.addr = 5 := by decide +kernel
/-- A warp with nothing waiting: the odd lanes exit. -/
theorem test_exit :
    let s := preds (fun l => if l % 2 = 0 then 1 else 0) lab
    let f : Fields := { F 0 0 0 0 0 with pg := 0, pgn := true }
    s.en f ≠ 0 ∧ s.wp.pending = [] ∧ s.wp.meets = [] ∧ s.wp.trapQueue = [] ∧ s.blk.bsyncs = [] ∧ s.blk.sbars = [] ∧ s.blk.copy = .single ∧
    ((after (.exit f) s).wp.thread 1).status = .exited ∧ pcOf (.exit f) s 0 = 8 := by decide +kernel

/-! ## Traps (R310-R324) -/

theorem test_trap :
    let t := after (.trap (FI 0 0 0 0 0xBEEF)) (handled lab)
    (handled lab).en (FI 0 0 0 0 0xBEEF) ≠ 0 ∧ t.wp.trap.cause = 0x16 ∧ t.wp.trap.addr = 0xBEEF ∧ t.wp.trap.pc = 8 ∧ (t.wp.thread 9).pc = 16 ∧
    (t.wp.thread 9).handler = true := by decide +kernel
theorem test_brk :
    let t := after (.brk (F 0 0 0 0 7)) (handled lab)
    t.wp.trap.cause = 0x17 ∧ t.wp.trap.addr = 0x70F := by decide +kernel
/-- A warp in its handler. -/
def inHandler : State :=
  let t := after (.trap (FI 0 0 0 0 1)) (handled (wide lab))
  { t with iss := { lab.iss with pc := 16 } }
/-- TRET of the whole handler, to TRAPPC, and to a register's target. -/
theorem test_tret : pcOf (.tret (F 0 0 0 0 0)) inHandler 0 = 8 ∧
    (F 0 10 0 0 1).b 0 = true ∧ pcOf (.tret (F 0 10 0 0 1)) (reg 10 (.u 64) inHandler) 0 = 64 := by decide +kernel
/-- What TRET's statement asks of the warp. -/
theorem test_witness_tret : inHandler.wp.handlers &&& inHandler.iss.lanes ≠ 0 ∧
    inHandler.en (F 0 0 0 0 0) &&& ~~~inHandler.wp.handlers = 0 ∧ inHandler.wp.trapQueue = [] ∧
    inHandler.wp.rcv = List.replicate 32 0 ∧ inHandler.wp.trap.cause ≠ 0x14 := by decide +kernel
/-- A trap of lane 1 while lane 0 is in the handler. -/
theorem test_pending_trap :
    let h := after (.trap { FI 0 0 0 0 1 with pg := 0 }) (handled { preds (fun l => if l = 0 then 1 else 0) lab with iss := { lab.iss with lanes := 1 } })
    let s : State := { h with iss := { lab.iss with lanes := 2 } }
    s.wp.trapBase.getLsbD 0 = true ∧ s.wp.handlers ≠ 0 ∧ s.wp.handlers &&& s.iss.lanes = 0 ∧ s.wp.pending = [] ∧
    s.en (FI 0 0 0 0 2) ≠ 0 ∧ (after (.trap (FI 0 0 0 0 2)) s).wp.trap = s.wp.trap ∧
    ((after (.trap (FI 0 0 0 0 2)) s).wp.thread 1).status = .waiting .trap := by decide +kernel

/-! ## Warp-wide operations (R160-R170) -/

/-- What the statement asks: `.all`, the whole warp in the group and enabled, and nothing that waits. -/
theorem test_witness_warp_wide :
    let f := F 6 10 20 0 0x80
    f.b 7 = true ∧ lab.en f = lab.wp.live ∧ lab.iss.lanes = lab.wp.live ∧ lab.wp.live ≠ 0 ∧ f.vd.toNat < 380 ∧ lab.wp.meets = [] ∧
    (∀ l, l < 128 → (lab.wp.thread l).status = .eligible) := by decide +kernel
theorem test_shfl :
    let s := four (reg 10 lanes lab)
    (after (.shfl (FI 6 10 0 0xB8 2)) s).wp.val 6 1 = 2 ∧ (after (.shfl (FI 6 10 0 0xB8 131)) s).wp.val 6 0 = 3 := by decide +kernel
theorem test_vote :
    let s := preds (fun l => if l < 3 then 8 else 0) (four lab)
    (F 6 3 0 0 0x83).m 2 0 = 3 ∧ (after (.vote (F 6 3 0 0 0x83)) s).wp.rv 6 = .u 7 ∧
    (F 6 3 0 0 0x84).m 2 0 = 4 ∧ (after (.vote (F 6 3 0 0 0x84)) s).wp.rv 6 = .u 3 ∧
    (F 2 3 0 0 0x80).m 2 0 = 0 ∧ (after (.vote (F 2 3 0 0 0x80)) s).wp.pred 2 3 = true := by decide +kernel
/-- The sum of the lane numbers is 6; the scan of lane 2 is 3, and 1 without its own. -/
theorem test_redux :
    let s := four (reg 10 lanes lab)
    (F 6 10 0 0 0x80).m 3 0 < 8 ∧ (after (.redux (F 6 10 0 0 0x80)) s).wp.rv 6 = .u 6 ∧ (after (.scan (F 6 10 0 0 0x80)) s).wp.val 6 2 = 3 ∧
    (after (.scan (F 6 10 0 0 0x90)) s).wp.val 6 2 = 1 := by decide +kernel
theorem test_match :
    let s := four (reg 10 (RegVal.lanes fun l => BitVec.ofNat 32 (l % 2)) lab)
    (F 8 10 0 0 0x80).mod = 0x80 ∧ (after (.matchL (F 8 10 0 0 0x80)) s).wp.val 8 1 = 0xA := by decide +kernel
theorem test_elect :
    (F 6 1 0 0 0x80).va.toNat < 7 ∧ (after (.elect (F 6 1 0 0 0x80)) (four lab)).wp.rv 6 = .u 0 ∧
    (after (.elect (F 6 1 0 0 0x81)) (four lab)).wp.pred 1 3 = true := by decide +kernel

/-! ## Memory (R227-R239) -/

/-- Whether a state and a word are as `Plain` asks. -/
def plainB (s : State) (f : Fields) (c : Ctx) : Bool :=
  s.en f != 0 && decide (s.blk.copy = .single) && decide (s.unitLost = none) && decide (s.ctx? s.blk.ctx = some c) &&
  (f.vd.toNat < 384 || f.vd.toNat = 511) &&
  ((List.range 128).all fun l => !Mask.has s.iss.lanes l || (decide ((s.wp.thread l).status = .eligible) && decide ((s.wp.thread l).pc = s.iss.pc)))
theorem plain_of {s : State} {f : Fields} {c : Ctx} (h : plainB s f c = true) : Plain s f c := by
  simp only [plainB, Bool.and_eq_true, Bool.or_eq_true, decide_eq_true_eq, bne_iff_ne, ne_eq, List.all_eq_true, List.mem_range,
    Bool.not_eq_true'] at h
  obtain ⟨⟨⟨⟨⟨h1, h2⟩, h3⟩, h4⟩, h5⟩, h6⟩ := h
  exact ⟨h1, h2, h3, h4, h5, fun l hl hm => (h6 l hl).resolve_left (by simp [hm])⟩
/-- Lanes 0 and 1 issue. -/
def few : State := { lab with iss := { lab.iss with lanes := 3 } }
/-- v20:v21 holds 0x1000, v10 a datum. -/
def mem : State := reg 20 (.u 0x1000) (reg 10 (.u 0xA5A50102) few)
theorem test_plain : Plain mem (F 6 10 20 0 4) labCtx := plain_of (by decide +kernel)
theorem test_memory_canonical : mem.MemInv ∧ mem.lostNodes = [] := ⟨by unfold State.MemInv; decide +kernel, by decide +kernel⟩
/-- Loads and stores at 0x1000 pass their checks, atomics too. -/
theorem test_witness_access :
    (∀ l, l < 128 → Mask.has (mem.en (F 6 10 20 0 4)) l = true → mem.laneCause labCtx ⟨mem.addr (F 6 0 20 0 4), 4, 1, true, false, true⟩ l = .fine) ∧
    (∀ l, l < 128 → Mask.has (mem.en (F 6 10 20 0 4)) l = true → mem.laneCause labCtx ⟨mem.addr (F 0 10 20 0 4), 4, 1, false, true, false⟩ l = .fine) ∧
    (∀ l, l < 128 → Mask.has (mem.en (F 6 10 20 0 4)) l = true → mem.laneCause labCtx ⟨mem.addr (F 0 10 20 0 0), 4, 4, true, true, true⟩ l = .fine) ∧
    (∀ l, l < 128 → Mask.has (mem.en (F 6 10 20 0 4)) l = true → mem.laneCause labCtx ⟨mem.addr (F 0 10 20 0 0), 4, 4, true, true, false⟩ l = .fine) ∧
    (∀ l, l < 128 → Mask.has (mem.en (F 6 10 20 0 4)) l = true → mem.laneCause labCtx ⟨mem.addr (F 0 10 20 0 0), 1, 1, false, false, false⟩ l = .fine) ∧
    mem.armed mem.blk 2 = false := by decide +kernel
/-- ST of a word, little-endian, then LD.S8 of its third byte, which marks v6. -/
theorem test_st_ld :
    let t := after (.st (F 0 10 20 0 4)) mem
    t.readPa 0x201000 = 2 ∧ t.readPa 0x201003 = 0xA5 ∧ t.readPa 0x201004 = 0 ∧
    (let u := after (.ld { FI 6 0 0 1 2 with vb := 20 }) { t with iss := mem.iss, wp := mem.wp }
     u.wp.val 6 0 = 0 ∧ u.wp.pending.map (fun p => p.dests) = [[(6, .u 0xFFFFFFA5)]]) := by decide +kernel
/-- An ordered load at an odd address. -/
theorem test_misaligned_ld :
    let s := handled (reg 20 (.u 0x1001) few)
    (F 6 0 20 0 0x14).m 7 4 ≠ 0 ∧ (F 6 0 20 0 0x14).m 2 0 = 4 ∧ Mask.has (s.en (F 6 0 20 0 0x14)) 0 = true ∧ s.addr (F 6 0 20 0 0x14) 0 % 4 ≠ 0 ∧
    s.armed s.blk 2 = false ∧ (after (.ld (F 6 0 20 0 0x14)) s).wp.trap.cause = 8 ∧ (after (.ld (F 6 0 20 0 0x14)) s).wp.trap.addr = 0x1001 := by decide +kernel
/-- Scratch: the offset of v20 lies in the window of 4,096 bytes. -/
theorem test_sts_lds :
    let s := reg 20 (.u 0xFF8) (reg 10 (.u 0xA5A50102) few)
    let t := after (.sts (F 0 10 20 0 4)) s
    s.blk.pbwaits = [] ∧ (∀ l, l < 128 → Mask.has (s.en (F 0 10 20 0 4)) l = true → s.blkNow.scrCause true (s.offs (F 0 10 20 0 4) l) 4 1 false = .fine) ∧
    (∀ l, l < 128 → Mask.has (s.en (F 6 0 20 0 4)) l = true → s.blkNow.scrCause true (s.offs (F 6 0 20 0 4) l) 4 1 true = .fine) ∧
    Tab.get 0 t.blk.scratch 0xFFB = 0xA5 ∧
    (after (.lds (F 6 0 20 0 2)) { t with iss := s.iss, wp := s.wp }).wp.pending.map (fun p => p.dests) = [[(6, .u 0x0102)]] := by decide +kernel
/-- The gang window of a gang of one: partner 0 is the block itself. -/
theorem test_stx_ldx :
    let s := { reg 20 (.u 0x40) (reg 10 (.u 7) few) with iss := { lab.iss with lanes := 1 } }
    let f := F 0 10 20 30 4
    (s.window f true 0).2 = true ∧ (s.window f true 0).1.id = 1 ∧ (s.window f true 0).1.pbwaits = [] ∧ s.block? 1 = some (s.window f true 0).1 ∧
    s.en f = BitVec.ofNat 128 (2 ^ 0) ∧ (s.window f true 0).1.scrCause true (s.offs f 0) 4 1 false = .fine ∧
    Tab.get 0 (after (.stx f) s).blk.scratch 0x40 = 7 ∧ (after (.ldx (F 6 0 20 30 4)) s).wp.pending.length = 1 := by decide +kernel
theorem test_ldc : (after (.ldc (F 6 0 20 0 4)) mem).wp.pending.map (fun p => p.dests) = [[(6, .u 0)]] := by decide +kernel
/-- ATOM.ADD by two lanes at one word: 0 and 5 are the old values, 10 stays. -/
theorem test_atom :
    let t := after (.atom (F 6 10 20 0 0)) (reg 10 (.u 5) mem)
    t.readNum 0x201000 4 = 10 ∧ t.blk.nonIdem = true ∧ t.wp.pending.map (fun p => p.dests.map fun d => (d.2.at 0, d.2.at 1)) = [[(0, 5)]] ∧
    (after (.red (F 0 10 20 0 4)) (reg 10 (.u 5) mem)).readNum 0x201000 4 = 0 := by decide +kernel
/-- ATOMCAS: equal, then not. -/
theorem test_atomcas :
    let t := after (.atomcas (F 6 10 20 30 0)) (reg 10 (.u 0) (reg 30 (.u 9) mem))
    (F 6 10 20 30 0).m 1 0 < 3 ∧ t.readNum 0x201000 4 = 9 ∧ t.wp.pending.map (fun p => p.dests.map fun d => (d.2.at 0, d.2.at 1)) = [[(0, 9)]] := by decide +kernel
theorem test_caches : pcOf (.pref (F 0 0 20 0 0)) mem 0 = 8 ∧ mem.shooting = false ∧ pcOf (.fence (F 0 0 0 0 0x10)) mem 0 = 8 ∧
    pcOf (.cctl (F 0 0 20 0 0)) mem 0 = 8 := by decide +kernel
/-- SEAL of the whole 2 MiB page sets bit 5 of its leaf. -/
theorem test_seal :
    let s := reg 21 (.u 0x1000) few
    s.pagesCause labCtx 0 0x1000 false = .fine ∧ (s.wp.rv 10).shape = 0 ∧ (s.wp.rv 11).shape = 0 ∧ (s.wp.rv 21).shape = 0 ∧
    (after (.sealR (F 0 10 21 0 0)) s).readNum 0x4000 8 = 0x200067 := by decide +kernel
theorem test_unseal :
    let s := reg 21 (.u 0x1000) few
    let t := after (.sealR (F 0 10 21 0 0)) s
    (after (.unsealR (F 0 10 21 0 0)) { t with iss := s.iss, wp := s.wp }).readNum 0x4000 8 = 0x200047 := by decide +kernel
theorem test_pin :
    let s := reg 21 (.u 0x1000) few
    s.pagesCause labCtx 0 0x1000 true = .fine ∧ (after (.pin (F 6 10 21 0 0)) s).wp.val 6 0 = 0 ∧ (after (.pin (F 6 10 21 0 0)) s).pins.length = 32 ∧
    (after (.unpin (F 6 10 21 0 0)) (after (.pin (F 6 10 21 0 0)) s)).pins = [] := by decide +kernel
/-- The decode at work: window 5, codebook entry 0x2A at 0x80A8. -/
theorem test_qdec :
    let s0 := reg 8 (.u 0x2A35) (reg 9 (.u 0x7E) few)
    let w : FmtWin := ⟨5, 0xB0000000001, 0, 0x8000, 0, 0⟩
    let s := { s0 with windows := [w], mem := placeNum s0.mem 0x2080A8 0x0F302184 4 }
    s.lq2Window 5 = some w ∧ (F 20 8 9 0 5).vd.toNat < 384 ∧
    (∀ l, l < 128 → Mask.has (s.en (F 20 8 9 0 5)) l = true → s.laneCause labCtx ⟨fun _ => 0x80A8, 4, 1, true, false, true⟩ l = .fine) ∧
    (after (.qdec (F 20 8 9 0 5)) s).wp.pending.map (fun p => p.dests) =
      [[(20, .u 0xC0083F90), (21, .u 0xBF203EC0), (22, .u 0x3F60BE00), (23, .u 0xBE004078)]] := by decide +kernel

/-! ## Barriers, copies, collectives, children (R171-R173, R281-R295, R376-R379) -/

/-- R281 at its corners: the last arrival completes a phase, one of two does not. -/
theorem test_barrier_update : barrierUpdate 0x00010001 0 0 1 false = 0x0100000000010001 ∧ barrierUpdate 0x00020002 0 0 1 false = 0x00020001 := by
  decide +kernel
/-- A barrier of the block's own scratch at 0x80, EXPECT and PARR 1. -/
def bar : State :=
  let s := reg 10 (.u 0x80) lab
  { s with blk := s.blk.writeScr 0x80 (bytesOf 0x00010001 8) }
theorem test_witness_barrier :
    bar.en (F 6 10 20 0 0) ≠ 0 ∧ plainB bar (F 6 10 20 0 0) labCtx = true ∧ (bar.wp.rv 10).shape = 0 ∧ (bar.wp.rv 20).shape = 0 ∧ bar.blk.pbwaits = [] ∧
    bar.uni 10 % 8 = 0 ∧ bar.uni 10 + 8 ≤ bar.blk.header.scratch ∧ bar.blk.scrConsumed 0x80 8 = none := by decide +kernel
theorem test_witness_block : bar.block? bar.blk.id = some bar.blkNow ∧ lab.block? lab.blk.id = some lab.blkNow := by decide +kernel
theorem test_pbinit : (after (.pbinit (F 0 10 20 0 0)) (reg 20 (.u 3) bar)).blk.barrier 0x80 = 0x00030003 ∧ (F 0 10 20 0 0).b 0 = false := by decide +kernel
/-- PBARRIVE answers phase 0 and completes it. -/
theorem test_pbarrive :
    let t := after (.pbarrive (F 6 10 0 0 0)) bar
    (F 6 10 0 0 0).b 2 = false ∧ t.wp.val 6 3 = 0 ∧ t.blk.barrier 0x80 = 0x0100000000010001 := by decide +kernel
/-- Token 0 in phase 0 is not over; token 1 is. -/
theorem test_pbwait :
    (F 0 10 20 0 0).b 1 = false ∧ (F 0 10 20 0 0).b 0 = false ∧ bar.blk.barrier 0x80 / 2 ^ 57 % 2 = 0 ∧
    ((after (.pbwait (F 0 10 20 0 0)) bar).wp.thread 5).status = .waiting .pb ∧ pcOf (.pbwait (F 0 10 20 0 0)) (reg 20 (.u 1) bar) 5 = 8 := by decide +kernel
theorem test_pbtest : (after (.pbtest (F 6 10 20 0 0)) bar).wp.val 6 0 = 0 ∧ (after (.pbtest (F 6 10 20 0 0)) (reg 20 (.u 1) bar)).wp.val 6 0 = 1 := by decide +kernel
theorem test_bsync :
    lab.en (F 0 0 0 0 0xF0) = lab.iss.lanes ∧ lab.blk.warps = [lab.wp] ∧ lab.blk.bsyncs = [] ∧ lab.wp.role < 4 ∧ (F 0 0 0 0 0xF0).m 7 4 = 15 ∧
    pcOf (.bsync (F 0 0 0 0 0xF0)) lab 9 = 8 := by decide +kernel
theorem test_sbar :
    lab.blk.sbars = [] ∧ lab.sbarInsts = [] ∧ (FI 6 0 0 0 1).m 7 5 = 0 ∧ (FI 6 0 0 0 1).isF96 = true ∧ (FI 6 0 0 0 1).imm = 1 ∧
    (after (.sbar (FI 6 0 0 0 1)) (reg 6 (.u 9) lab)).wp.val 6 0 = 0 ∧ pcOf (.sbar (FI 6 0 0 0 1)) lab 9 = 8 := by decide +kernel
/-- The word at 0x1000 is 0 and the compare value 1. -/
theorem test_evwait :
    let s := reg 20 (.u 1) (reg 10 (.u 0x1000) few)
    (s.wp.rv 30).shape = 0 ∧ (∀ l, l < 2 → s.laneCause labCtx ⟨fun l => (s.pairA (F 6 10 20 30 0) l).toNat, 4, 4, true, false, true⟩ l = .fine) ∧
    s.opB (F 6 10 20 30 0) 0 = 1 ∧ pcOf (.evwait (F 6 10 20 30 0)) s 0 = 8 := by decide +kernel
/-- CPY of 512 bytes from scratch to scratch takes handle 0. -/
def cpy : State := reg 11 (.u 0x100) (reg 30 (.u 0x400) lab)
theorem test_cpy :
    let t := after (.cpy (FI 6 11 30 0xC0 0x200)) cpy
    plainB cpy (FI 6 11 30 0xC0 0x200) labCtx = true ∧ cpy.uni 11 + 0x200 ≤ cpy.blk.header.scratch ∧
    cpy.blk.copies.getD 0 none = none ∧ t.wp.val 6 0 = 0 ∧ t.agenda = [.copyBurst (.block 1 0)] ∧ (t.blk.copies.getD 0 none).map Copy.len = some 0x200 := by decide +kernel
/-- A copy that is over, and one that runs. -/
theorem test_cpyq :
    let c (st : CopyStatus) : State := { lab with blk := { lab.blk with copies := lab.blk.copies.set 0 (some ⟨0, true, 0, true, 512, 256, none, st, none, false, 0, []⟩) } }
    (after (.cpyq (F 6 0 20 0 0)) (c .running)).wp.pending.map (fun p => p.dests) = [[(6, .u 6), (7, .u 256)]] ∧
    (after (.cpywait (F 6 0 20 0 0)) (c .ok)).wp.val 7 0 = 256 ∧ (after (.cpywait (F 6 0 20 0 0)) (c .ok)).blk.copies.getD 0 none = none := by decide +kernel
/-- COLL of a group that is not created completes its handle with code 6 and does not write VD. -/
theorem test_coll :
    let f := F 6 10 20 30 0x08
    let a := lab.collArgs f
    a.dst % 256 = 0 ∧ a.src % 256 = 0 ∧ a.len % 256 = 0 ∧ lab.blk.takeColl = some 0 ∧ labCtx.group? a.group = none ∧
    (after (.coll f) (reg 6 (.u 9) lab)).wp.val 6 0 = 9 ∧ ((after (.coll f) lab).blk.colls.getD 0 none).map CollHandle.status = some (some 6) := by decide +kernel
/-- A group of two members, this one member 1, its table at 0x2000. -/
def group : Group := ⟨0, 7, 1, 2, 1, .active, 5, 0x2000, 0x3000, 3, [0, 1], [1, 1], [0, 0], [], []⟩
def groupCtx : Ctx := { labCtx with groups := [group] }
theorem test_coll_group :
    let s := { lab with ctxs := [groupCtx] }
    let f := F 6 10 20 30 0x08
    let a := s.collArgs f
    groupCtx.group? a.group = some group ∧ s.check groupCtx .load a.src a.len 1 = none ∧ s.check groupCtx .store a.dst a.len 1 = none ∧
    (after (.coll f) s).blk.colls.getD 0 none = some ⟨0, 5, none, 0, []⟩ ∧ (after (.coll f) s).readNum 0x202010 8 = 6 := by decide +kernel
/-- COLLQ of a handle in flight, a free one, and one out of range. -/
theorem test_collq :
    let s := { lab with blk := { lab.blk with colls := lab.blk.colls.set 0 (some ⟨0, 5, none, 0, []⟩) } }
    (after (.collq (F 6 0 20 0 0)) s).wp.pending.map (fun p => p.dests) = [[(6, .u 2), (7, .u 5)]] ∧
    (after (.collq (FI 6 0 0 0 1)) s).wp.pending.map (fun p => p.dests) = [[(6, .u 3), (7, .u 0)]] ∧
    (after (.collq (FI 6 0 0 0 4)) s).wp.pending.map (fun p => p.dests) = [[(6, .u 3), (7, .u 0)]] := by decide +kernel
/-- One lane launches; v10:v11 holds the record's address. -/
def launcher : State := { reg 10 (.u 0x1000) few with iss := { lab.iss with lanes := 1 } }
/-- LAUNCH.ONCE of a record of zeros, which is no good record. -/
theorem test_launch :
    (F 6 10 0 0 1).b 0 = true ∧ labCtx.tableFull = false ∧ recordGood (launcher.loadVa labCtx 0x1000 128) 0 = false ∧
    (F 6 10 0 0 1).vd.toNat ≠ 511 ∧ (after (.launch (F 6 10 0 0 1)) launcher).wp.val 6 0 = 1 := by decide +kernel
theorem test_witness_launch : launcher.laneCause labCtx ⟨launcher.launchAddr (F 6 10 0 0 1), 128, 128, true, false, true⟩ 0 = .fine := by decide +kernel
/-- A good record: KIND 0, BLOCKS 1, DONEADDR 0x3000, RECCRC computed by hand. -/
def goodRecord : List Byte := bytesOf 0 32 ++ bytesOf 1 8 ++ bytesOf 0x3000 8 ++ bytesOf 0 76 ++ bytesOf 0x2D0BDF68 4
theorem test_launch_good :
    let s := { launcher with mem := Tab.setMany 0 launcher.mem 0x201000 goodRecord }
    recordGood (s.loadVa labCtx 0x1000 128) 0 = true ∧ (labCtx.judgedRetained (Record.of goodRecord) && labCtx.atticFull) = false ∧
    (after (.launch (F 6 10 0 0 1)) s).wp.val 6 0 = 0 := by decide +kernel
/-- A node table with every entry live: 2. -/
theorem test_launch_full :
    let c := { labCtx with nodes := List.replicate 16384 (placeNode 0) }
    c.tableFull = true := by decide +kernel

/-! ## The matrix engine and chains (R241-R278) -/

/-- Slot 0 READY in layout A and slot 1 in layout B, both BF16 (code 2); two tiles held; v20 holds 1. -/
def eng : State :=
  let s := reg 20 (.u 1) lab
  { s with blk := { s.blk with slots := (s.blk.slots.set 0 ⟨.ready, false, 2⟩).set 1 ⟨.ready, true, 2⟩, held := 2
                               tiles := List.replicate 2 TileCell.zero } }
theorem test_witness_engine :
    plainB eng (F 6 0 20 0 0) labCtx = true ∧ eng.chainRunning = false ∧ eng.tilesPending = false ∧ eng.blk.core < eng.cores.length ∧
    eng.blk.slots.length = 32 ∧ (eng.blk.slot 1).state ≠ .free ∧ (eng.blk.slot 2).state = .free ∧ (eng.blk.tile 0).poisoned = false ∧
    eng.writtenRows 0 = 0 ∧ eng.freeTiles 0 = 14 ∧ eng.olderWaits eng.blk = false ∧ eng.blk.header.accMax = 16 := by decide +kernel
theorem test_osclaim :
    let t := after (.osclaim (FI 6 0 0 0 31)) eng
    t.wp.val 6 0 = 31 ∧ (t.blk.slot 31).state = .claimed ∧ (t.core 0).queue.map EngineEntry.op = [.osclaim (some 31)] := by decide +kernel
theorem test_osrel : ((after (.osrel (F 0 0 20 0 0)) eng).blk.slot 1).state = .free := by decide +kernel
/-- An image from scratch: 128 rows of 64 bytes at stride 16 end inside the window. -/
theorem test_osload :
    let f := FI 0 10 0 0x24 16
    f.b 2 = true ∧ f.m 7 4 ≠ 15 ∧ opRows (f.b 3) = 128 ∧ opRowBytes (f.m 7 4) = 64 ∧
    (∀ r, r < 128 → (0 + r * 16) % 16 = 0 ∧ 0 + r * 16 + 64 ≤ eng.blk.header.scratch) ∧
    ((after (.osload f) eng).blk.slot 0) = ⟨.ready, false, 2⟩ ∧ ((after (.osload f) eng).core 0).queue.length = 1 := by decide +kernel
theorem test_osq : (after (.osq (F 6 0 20 0 0)) eng).wp.val 6 0 = BitVec.ofNat 32 (eng.slotWord 1) ∧ (eng.slotWord 1) % 4 = 2 := by decide +kernel
theorem test_accgrow :
    let t := after (.accgrow (FI 6 0 0 0 14)) eng
    (FI 6 0 0 0 14).b 0 = false ∧ t.wp.val 6 0 = 0 ∧ t.blk.held = 16 ∧ (after (.accfree (FI 0 0 0 0 2)) eng).blk.held = 0 ∧
    ((after (.acczero (F 1 0 0 0 0)) eng).core 0).queue.map EngineEntry.op = [.acczero 1 Mask.all] := by decide +kernel
/-- ACCLD of one column of a tile of zeros. -/
theorem test_accld : (F 6 1 0 0 0).va.toNat < eng.blk.held ∧
    (after (.accld (F 6 1 0 0 0)) eng).wp.pending.map (fun p => p.dests.map fun d => (d.1, d.2.at 9)) = [[(6, 0)]] := by decide +kernel
/-- ACCST of rows of one tile to scratch at stride 0: 256 bytes for each lane. -/
theorem test_accst :
    let f := FI 0 0 30 0x08 0
    f.b 3 = true ∧ eng.uni 30 % 16 = 0 ∧ eng.uniB f % 16 = 0 ∧ accstBytes (f.m 7 5) ≤ eng.blk.header.scratch ∧
    ((after (.accst f) eng).core 0).queue.length = 1 ∧ pcOf (.accst f) eng 3 = 8 := by decide +kernel
theorem test_accmv : (F 1 0 0 0 0).m 7 6 = 0 ∧ ((after (.accmv (F 1 0 0 0 0)) eng).core 0).queue.map EngineEntry.op = [.accmvTT 1 0 Mask.all 0 0 64] := by decide +kernel
theorem test_mma :
    let f := F 1 0 1 0 0
    eng.blk.mmaCheck 1 0 (slotB f) (f.m 2 0) (f.b 3) (f.b 4) = none ∧ ((after (.mma f) eng).core 0).queue.length = 1 ∧
    pcOf (.mma f) eng 3 = 8 := by decide +kernel
/-- The leader of a gang of two. -/
theorem test_mmag :
    let f := F 1 0 1 30 0
    let s := { eng with blk := { eng.blk with header := { eng.blk.header with gang := 2 } } }
    2 ≤ s.blk.header.gang ∧ s.blk.partner = 0 ∧ s.uni 30 % 8 = 0 ∧ s.uni 30 + 8 ≤ s.blk.header.scratch ∧
    s.blk.mmaCheck 1 0 (slotB f) (f.m 2 0) false (f.b 4) = none ∧ ((after (.mmag f) s).core 0).queue.length = 1 := by decide +kernel
/-- A step of slot 1 with bond 15: DIN 1, DOUT 2, N 4, M 2 on a boundary of PRE 1, BOND 1, SUF 4. -/
def chainState : State :=
  { eng with blk := { eng.blk with bonds := eng.blk.bonds.set 15 0x0000200400020001, desc := 0x0000000400010001 } }
theorem test_ttc :
    let f := F 0 1 15 0 0
    chainState.blk.stepCheck ⟨1, chainState.blk.bonds.getD (bondB f) 0, bondB f, 0, none⟩ = none ∧
    (after (.ttc f) chainState).blk.desc = 0x0000000100020002 ∧ pcOf (.ttc f) chainState 3 = 8 := by decide +kernel
theorem test_ttrun :
    let f := FI 0 10 0 0 3
    lab.uniPair 10 % 16 = 0 ∧ eng.wp.progIdx.getLsbD 63 = false ∧ ((after (.ttrun f) eng).wp.thread 7).status = .waiting (.chain 8) ∧
    ((after (.ttrun f) eng).core 0).queue.map EngineEntry.op = [.ttrun 0 3 0 Mask.all none] := by decide +kernel
theorem test_bdset :
    (after (.bdset (F 0 10 0 0 15)) (reg 10 (.u 5) eng)).blk.bonds.getD 15 0 = 5 ∧ (after (.bdset (F 0 10 0 0 16)) (reg 10 (.u 5) eng)).blk.desc = 5 ∧
    (after (.bdget (F 6 0 0 0 15)) chainState).wp.pair 6 0 = 0x0000200400020001 ∧ (after (.bdget (F 6 0 0 0 16)) chainState).wp.pair 6 0 = 0x400010001 := by
  decide +kernel
/-- TTQ 0: the row length 4 of the descriptor. -/
theorem test_ttq : (after (.ttq (F 6 0 0 0 0)) chainState).wp.pending.map (fun p => p.dests) = [[(6, .u 4)]] := by decide +kernel
theorem test_mwait : pcOf (.mrfence (F 0 0 0 0 0)) eng 3 = 8 ∧ (eng.outstanding eng.blk.id eng.wp.idx).length ≤ (F 0 0 0 0 0).m 5 0 ∧
    eng.blk.deferred = [] ∧ pcOf (.mwait (F 0 0 0 0 0)) eng 3 = 8 := by decide +kernel

/-! ## Dictionaries (R77-R92) -/

/-- A larder slot 2 that only this block holds, bound to dictionary 1. -/
def dict : State :=
  let s := reg 10 (.u 0x1000) { few with iss := { lab.iss with lanes := 1 } }
  { s with blk := { s.blk with binds := s.blk.binds.set 1 (some 2) }
           cores := setAt s.cores 0 fun c => { c with larder := c.larder.set 2 (some ⟨0, 0, 0, none, false, 1, [], false⟩) } }
theorem test_dswitch :
    let t := after (.dswitch (F 0 0 0 0 1)) dict
    t.blk.active = 1 ∧ (t.wp.thread 99).stale = true ∧ ((after (.dsync (F 0 0 0 0 0)) t).wp.thread 0).stale = false ∧
    ((after (.dsync (F 0 0 0 0 0)) t).wp.thread 99).stale = true := by decide +kernel
theorem test_witness_dictionary :
    plainB dict (F 6 10 20 0 1) labCtx = true ∧ dict.blk.binds.getD 1 none = some 2 ∧
    dict.larderSlot 0 2 = some ⟨0, 0, 0, none, false, 1, [], false⟩ ∧ dict.blk.core < dict.cores.length ∧ (F 6 10 20 0 1).vd.toNat < 384 := by decide +kernel
/-- DPATCH of entry 5 from six registers: an undefined entry (VALID 0) whose word 0 is 7. -/
theorem test_dpatch :
    let s := reg 10 (.u 5) (reg 20 (.u 7) dict)
    let t := after (.dpatch (F 6 10 20 0 1)) s
    t.wp.val 6 0 = 0 ∧ (t.larderSlot 0 2).map LarderSlot.modified = some true ∧ Tab.get 0 (t.dict 1) 5 = 7 ∧
    (after (.dread (F 12 10 0 0 1)) { t with iss := s.iss, wp := s.wp }).wp.val 12 0 = 7 ∧ entryValid 7 = false ∧ (F 6 10 20 0 1).isF128 = false := by decide +kernel

/-- A dictionary image with no entry, its CRCs computed by hand: `DCTY`, version 1, no valid entry. -/
def emptyImage : List Byte := bytesOf 0x44435459 4 ++ bytesOf 1 2 ++ bytesOf 0 2 ++ bytesOf 0x3A36E441 4 ++ bytesOf 0 48 ++ bytesOf 0x00320E61 4
/-- The state with the image at 0x1000. -/
def imageAt : State := { dict with mem := Tab.setMany 0 dict.mem 0x201000 emptyImage }
/-- Zero bytes, and zero entries. -/
def zeros (n : Nat) : List Byte := List.replicate n 0
def noEntries (n : Nat) : List (BitVec 192) := List.replicate n 0
theorem length_zeros (n : Nat) : (zeros n).length = n := List.length_replicate
theorem drop_zeros (n k : Nat) : (zeros n).drop k = zeros (n - k) := List.drop_replicate
theorem take_zeros (n k : Nat) : (zeros n).take k = zeros (min k n) := List.take_replicate
theorem getD_zeros (n k : Nat) : (zeros n).getD k 0 = 0 := by simp only [zeros, List.getD, List.getElem?_replicate]; split <;> rfl
/-- The CRC of zero bits, each state brought to a number before the next. -/
def crcBits : Nat → Nat → Nat
  | 0, c => c
  | n + 1, c => Nat.rec (motive := fun _ => Nat) (crcBits n 0) (fun k _ => crcBits n (((k + 1) / 2) ^^^ ((k + 1) % 2 * 0x82F63B78))) c
theorem crcBits_succ (n c : Nat) : crcBits (n + 1) c = crcBits n (crcStep c) := by
  cases c with
  | zero => rfl
  | succ k => simp only [crcBits, crcStep]
theorem crcZeros_eq (n c : Nat) : (zeros n).foldl crcByte c = crcBits (8 * n) c := by
  induction n generalizing c with
  | zero => rfl
  | succ n ih =>
    rw [zeros, List.replicate_succ, List.foldl_cons, ← zeros, ih, show 8 * (n + 1) = 8 * n + 8 by omega]
    rw [crcBits_succ, crcBits_succ, crcBits_succ, crcBits_succ, crcBits_succ, crcBits_succ, crcBits_succ, crcBits_succ, crcByte]
    simp
theorem ofBytes_zeros (n : Nat) : ofBytes (zeros n) = 0 := by
  induction n with
  | zero => rfl
  | succ n ih => rw [zeros, List.replicate_succ, ofBytes, ← zeros, ih]; rfl
theorem setMany_zeros (k n : Nat) : Tab.setMany (0 : BitVec 192) [] k (noEntries n) = [] := by
  induction n generalizing k with
  | zero => rfl
  | succ n ih => rw [noEntries, List.replicate_succ, Tab.setMany_cons, Tab.set, if_pos rfl, ← noEntries, ih]
theorem crcBits_add (a b c : Nat) : crcBits (a + b) c = crcBits b (crcBits a c) := by
  induction a generalizing c with
  | zero => rw [Nat.zero_add]; rfl
  | succ a ih => rw [show a + 1 + b = a + b + 1 by omega, crcBits_succ, crcBits_succ, ih]
theorem length_emptyImage : emptyImage.length = 64 := by decide +kernel
theorem entries_empty : imageEntries (emptyImage ++ zeros 6144) = noEntries 256 := by
  apply List.ext_getElem
  · rw [imageEntries, List.length_map, List.length_range, noEntries, List.length_replicate]
  · intro i h1 h2
    simp only [imageEntries, List.getElem_map, List.getElem_range, noEntries, List.getElem_replicate, entryOf]
    rw [List.drop_append, List.drop_eq_nil_of_le (by rw [length_emptyImage]; omega), List.nil_append, drop_zeros, take_zeros, ofBytes_zeros]; rfl
/-- The image is sound: a dictionary without entries. -/
theorem test_image : imageCheck (emptyImage ++ zeros 6144) = .ok [] := by
  have hd : (emptyImage ++ zeros 6144).drop 64 = zeros 6144 := by
    rw [List.drop_append, List.drop_eq_nil_of_le (Nat.le_of_eq length_emptyImage), length_emptyImage, List.nil_append, drop_zeros]
  have hc : crc32c (zeros 6144) = 0x3A36E441 := by
    have h (k x y z : Nat) (h1 : crcBits 2048 x = y) (h2 : crcBits k y = z) : crcBits (2048 + k) x = z := by rw [crcBits_add, h1, h2]
    have e : crcBits 49152 0xFFFFFFFF = 0xC5C91BBE :=
      h 47104 0xFFFFFFFF 0x478D4E6F _ (by decide +kernel) (
      h 45056 0x478D4E6F 0xCF03123F _ (by decide +kernel) (
      h 43008 0xCF03123F 0xC5C4C2F9 _ (by decide +kernel) (
      h 40960 0xC5C4C2F9 0x11512183 _ (by decide +kernel) (
      h 38912 0x11512183 0x72802FED _ (by decide +kernel) (
      h 36864 0x72802FED 0x0A6FD2D2 _ (by decide +kernel) (
      h 34816 0x0A6FD2D2 0x5BCB999C _ (by decide +kernel) (
      h 32768 0x5BCB999C 0x5B767CB0 _ (by decide +kernel) (
      h 30720 0x5B767CB0 0x13CA39CB _ (by decide +kernel) (
      h 28672 0x13CA39CB 0x4DF00A81 _ (by decide +kernel) (
      h 26624 0x4DF00A81 0x24571252 _ (by decide +kernel) (
      h 24576 0x24571252 0xDF52BE5C _ (by decide +kernel) (
      h 22528 0xDF52BE5C 0x0A82160E _ (by decide +kernel) (
      h 20480 0x0A82160E 0xF76F41EA _ (by decide +kernel) (
      h 18432 0xF76F41EA 0x142AC051 _ (by decide +kernel) (
      h 16384 0x142AC051 0x6706BE76 _ (by decide +kernel) (
      h 14336 0x6706BE76 0xA091A354 _ (by decide +kernel) (
      h 12288 0xA091A354 0xEE31EAFA _ (by decide +kernel) (
      h 10240 0xEE31EAFA 0x7DF66404 _ (by decide +kernel) (
      h 8192 0x7DF66404 0xC8ACB935 _ (by decide +kernel) (
      h 6144 0xC8ACB935 0x7F192940 _ (by decide +kernel) (
      h 4096 0x7F192940 0x4700EE24 _ (by decide +kernel) (
      h 2048 0x4700EE24 0x22E13DDC _ (by decide +kernel) (
      h 0 0x22E13DDC 0xC5C91BBE _ (by decide +kernel) (
      rfl))))))))))))))))))))))))
    rw [crc32c, crc32cFrom, crcZeros_eq, show (0 : Nat) ^^^ 0xFFFFFFFF = 0xFFFFFFFF by decide, e]; decide
  have ht (o n : Nat) (h : o + n ≤ 64) : ((emptyImage ++ zeros 6144).drop o).take n = (emptyImage.drop o).take n := by
    rw [List.drop_append_of_le_length (by rw [length_emptyImage]; omega),
      List.take_append_of_le_length (by rw [List.length_drop, length_emptyImage]; omega)]
  have h60 : (emptyImage ++ zeros 6144).take 60 = emptyImage.take 60 := by
    rw [List.take_append_of_le_length (by rw [length_emptyImage]; omega)]
  have he : entryValid 0 = false := by decide +kernel
  have hf : List.filter entryValid (noEntries 256) = [] := by simp only [noEntries, List.filter_replicate, he]; rfl
  have hb : (List.range 256).filterMap (fun i => if entryValid ((noEntries 256).getD i 0) = true then
      (entryFault ((noEntries 256).getD i 0)).map fun sub => (i, sub) else none) = [] := by
    rw [List.filterMap_eq_nil_iff]
    intro i hi
    have : (noEntries 256).getD i 0 = 0 := by simp only [noEntries, List.getD, List.getElem?_replicate]; split <;> rfl
    rw [this, he]; rfl
  have hh : (decide (ofBytes (List.take 4 (List.drop 0 emptyImage)) = 0x44435459) && decide (ofBytes (List.take 2 (List.drop 4 emptyImage)) = 1) &&
      decide (ofBytes (List.take 2 (List.drop 6 emptyImage)) = 0) && decide (ofBytes (List.take 4 (List.drop 8 emptyImage)) = 0x3A36E441) &&
      decide (ofBytes (List.take 48 (List.drop 12 emptyImage)) = 0) &&
      decide (ofBytes (List.take 4 (List.drop 60 emptyImage)) = crc32c (List.take 60 emptyImage))) = true := by decide +kernel
  unfold imageCheck
  simp only [entries_empty, hd, h60, ht 0 4 (by omega), ht 4 2 (by omega), ht 6 2 (by omega), ht 8 4 (by omega), ht 12 48 (by omega), ht 60 4 (by omega),
    take_zeros, Nat.min_self, hc, hf, List.length_nil, hh, Bool.not_true, Bool.false_eq_true, if_false, hb, List.head?_nil, setMany_zeros]
theorem image_bytes (n : Nat) (h : n < 6208) : imageAt.readPa (0x201000 + n) = (emptyImage ++ zeros 6144).getD n 0 := by
  have hw : Tab.wf (0 : Byte) dict.mem = true := by decide +kernel
  have hm : dict.mem.all (fun p => p.1 < 0x201000) = true := by decide +kernel
  have hg (m : Nat) (t : Tab Byte) (hm : t.all (fun p => p.1 < 0x201000) = true) : Tab.get 0 t (0x201000 + m) = 0 := by
    induction t with
    | nil => rfl
    | cons p t ih =>
      simp only [List.all_cons, Bool.and_eq_true, decide_eq_true_eq] at hm
      rw [Tab.get, if_neg (by omega), if_neg (by omega)]; exact ih hm.2
  rw [State.readPa, show imageAt.mem = Tab.setMany 0 dict.mem 0x201000 emptyImage by simp only [imageAt], Tab.get_setMany hw, hg n _ hm, length_emptyImage]
  by_cases hn : n < 64
  · rw [if_pos (by omega), List.getD, List.getD, List.getElem?_append_left (by rw [length_emptyImage]; omega), Nat.add_sub_cancel_left]
  · have hz := getD_zeros 6144 (n - 64)
    rw [List.getD] at hz
    rw [if_neg (by omega), List.getD, List.getElem?_append_right (by rw [length_emptyImage]; omega), length_emptyImage, hz]
theorem getD_getElem (l : List Byte) (i : Nat) (h : i < l.length) : l.getD i 0 = l[i] := by simp [List.getD, h]
/-- DLOAD reads the image at v10:v11. -/
theorem test_witness_dload : imageAt.loadVa labCtx (imageAt.imageAddr (F 6 10 0 0 1)) 6208 = emptyImage ++ zeros 6144 := by
  have hs : parts (imageAt.imageAddr (F 6 10 0 0 1)) 6208 = [(0x1000, 4096), (0x2000, 2112)] := by decide +kernel
  have hx : imageAt.xlat labCtx 0x1000 = .ok ⟨0x201000, true, true, false, 0, false, 0x4000, 2, false, false⟩ ∧
      imageAt.xlat labCtx 0x2000 = .ok ⟨0x202000, true, true, false, 0, false, 0x4000, 2, false, false⟩ := by decide +kernel
  have hk (n : Nat) (l : Leaf) (h : l.stray = false) (h2 : l.key = 0) : imageAt.readLeaf labCtx.id n l = imageAt.readPas l.pa n := by
    simp [State.readLeaf, State.readKey, State.keyed, State.keyName, h, h2, show imageAt.units = [] from rfl, State.readPas, Tab.getMany_eq, State.readPa]
  have hl : (emptyImage ++ zeros 6144).length = 6208 := by rw [List.length_append, length_emptyImage, length_zeros]
  have hr (a n k : Nat) (ha : a = 0x201000 + k) (h : k + n ≤ 6208) :
      imageAt.readPas a n = ((emptyImage ++ zeros 6144).drop k).take n := by
    apply List.ext_getElem
    · rw [State.readPas, Tab.getMany_eq, List.length_map, List.length_range, List.length_take, List.length_drop, hl]; omega
    · intro i h1 h2
      have hi : i < n := by rwa [State.readPas, Tab.getMany_eq, List.length_map, List.length_range] at h1
      have := image_bytes (k + i) (by omega)
      simp only [State.readPas, Tab.getMany_eq, List.getElem_map, List.getElem_range, List.getElem_take, List.getElem_drop]
      rw [State.readPa, ← Nat.add_assoc, ← ha] at this
      rw [this, getD_getElem _ _ (by rw [hl]; omega)]
  rw [State.loadVa, hs, List.flatMap_cons, List.flatMap_cons, List.flatMap_nil, List.append_nil]
  simp only [hx.1, hx.2, hk]
  rw [hr 0x201000 4096 0 rfl (by omega), hr 0x202000 2112 4096 rfl (by omega), List.drop_zero]
  rw [List.take_of_length_le (l := List.drop 4096 _) (Nat.le_of_eq (by rw [List.length_drop, hl])), List.take_append_drop]
theorem test_witness_dload_access :
    imageAt.laneCause labCtx ⟨fun _ => imageAt.imageAddr (F 6 10 0 0 1), 6208, 64, true, false, true⟩ 0 = .fine := by
  generalize ha : imageAt.imageAddr (F 6 10 0 0 1) = a
  have h1 : imageAt.checkCause labCtx ⟨fun _ => a, 6208, 64, true, false, true⟩ a = .fine := by subst ha; decide +kernel
  have h2 : imageAt.dataBreak labCtx true false a 6208 = none := by subst ha; decide +kernel
  have h3 : imageAt.consumed labCtx a 6208 = none := by subst ha; decide +kernel
  have h4 (b : Bool) : (if b = true then none else imageAt.dataBreak labCtx true false a 6208) = none := by rw [h2]; split <;> rfl
  simp only [State.laneCause, h1, State.breakCause, h4, State.poisonCause, h3]
  rfl

/-! ## System instructions and short forms (R72-R83, R310-R325, R350) -/

theorem test_csrw :
    lab.wp.pending = [] ∧ lab.uniB (FI 0 10 0 0 7) = 7 ∧ (after (.csrw (FI 0 10 0 0 7)) (reg 10 (.u 0xFFFFFFFF) (reg 11 (.u 0xFFFFFFFF) lab))).wp.trapBase = 0x01FFFFFFFFFFFFFD ∧
    (after (.csrw (FI 0 10 0 0 0x10)) (reg 10 (.u 1) { lab with wp := { lab.wp with fpstat := 3 } })).wp.fpstat = 2 ∧
    (after (.csrw (FI 0 10 0 0 1)) (reg 10 (.u 64) lab)).wp.trap.pc = 0 ∧ (after (.csrw (FI 0 10 0 0 0xA)) lab).wp.progIdx = 0 ∧
    (after (.csrw (FI 0 10 0 0 8)) (reg 10 (.u 0xFFFFFFFF) (reg 11 (.u 0xFFFFFFFF) lab))).wp.progIdx = 0x8000FFFF00000003 := by decide +kernel
theorem test_csrr : csrKnown 7 = true ∧ (after (.csrr (FI 6 0 0 0 7)) (handled lab)).wp.pair 6 0 = 0x11 := by decide +kernel
/-- Word 0 of the feature record: the stepping. -/
theorem test_sysq : (after (.sysq (FI 6 0 0 0 0)) lab).wp.pending.map (fun p => p.dests) = [[(6, .u 0x0100)]] := by decide +kernel
/-- REGION with the whole warp, and with lane 0 alone. -/
theorem test_region :
    let t := after (.region (F 0 0 0 0 0)) lab
    lab.wp.live &&& ~~~(lab.en (F 0 0 0 0 0)) = 0 ∧ lab.wp.restarted = false ∧ t.wp.rvalid = true ∧ t.wp.regionCnt = 1 ∧ t.wp.snapshot.isSome = true ∧
    few.wp.live &&& ~~~(few.en (F 0 0 0 0 0)) ≠ 0 ∧ (after (.region (F 0 0 0 0 0)) { few with wp := { few.wp with rvalid := true } }).wp.rvalid = false := by decide +kernel
theorem test_pcmp : pcOf (.pcmp (F 0 10 0 0 3)) lab 3 = 8 := by decide +kernel
/-- Entry 5 of the active dictionary is `nop` with no hole: template 0x1C005, VALID bit 176. -/
def short : State :=
  { dict with blk := { dict.blk with active := 1 }, iss := { dict.iss with len := 4 }
              cores := setAt dict.cores 0 fun c => { c with larder := c.larder.set 2 (some ⟨0, 0, 0, none, false, 1, [(5, BitVec.ofNat 192 (2 ^ 176 + 0x1C005))], false⟩) } }
theorem test_dx :
    (short.wp.thread 0).stale = false ∧ entryValid (Tab.get 0 (short.dict 1) 5) = true ∧ expandEntry (Tab.get 0 (short.dict 1) 5) 0 = some 0x1C005 ∧
    decodeF 0x1C005 = .ok (.nop (F 0 0 0 0 0)) 8 ∧ pcOf (.dx 0 5) short 0 = 4 := by decide +kernel
/-- An entry that is not valid, and a stale thread. -/
theorem test_dx_traps :
    let s := handled short
    let t := { s with wp := s.wp.mapThreads Mask.all fun _ x => { x with stale := true } }
    entryValid (Tab.get 0 (s.dict 1) 6) = false ∧ (after (.dx 0 6) s).wp.trap.cause = 2 ∧ (after (.dx 0 6) s).wp.trap.addr = 0x5000000018 ∧
    (t.wp.thread 0).stale = true ∧ (after (.dx 0 5) t).wp.trap.cause = 3 := by decide +kernel

/-! ## Events of the device (R217, R351, R360-R366, R381-R385) -/

/-- The state above with no instruction in issue. -/
def idle : State :=
  let s := State.reset.withFetchWord 64 0
  { s with boot := 6, mem := placeNum s.mem 0x4000 0x200047 8, cores := eight }
/-- A die with its step and clock. -/
def dieAt (th pw clk : Nat) : State := { idle with dies := idle.dies.set 0 ⟨clk, 0, th, pw, 0, 0, none, none, true, []⟩ }
/-- Die 0 after an event and `n` cycles. -/
def later (i : Instr) (n : Nat) (s : State) : State := (after i s).passTime fun _ => n
/-- A rise takes place at the boundary of the window, 8 cycles on from clock 0, and THROT follows; a fall after 1 ms. -/
theorem test_thermal : ((after (.thermalStepRise 0) (dieAt 6 0 0)).die 0).thermalDue = some true ∧
    (later (.thermalStepRise 0) 7 (dieAt 6 0 0)).dies.map Die.step = [6, 0, 0] ∧ (later (.thermalStepRise 0) 8 (dieAt 6 0 0)).dies.map Die.step = [7, 0, 0] ∧
    (later (.thermalStepRise 0) 8 (dieAt 6 0 0)).health / 2 ^ 47 = 7 ∧ ((later (.thermalStepRise 0) 9 (dieAt 6 0 5)).die 0).thermalAt = 8 ∧
    ((later (.thermalStepFall 0) 8 (dieAt 1 0 2250000)).die 0).thermal = 0 ∧ ((later (.thermalStepFall 0) 8 (dieAt 1 0 2249999)).die 0).thermal = 1 := by decide +kernel
/-- A rise of power moves every die at once. -/
theorem test_power : (later .powerStepRise 8 (dieAt 0 6 225000)).dies.map Die.power = [7, 1, 1] ∧ (later .powerStepRise 8 (dieAt 0 6 224999)).dies.map Die.power = [6, 0, 0] ∧
    ((later .powerStepFall 8 (dieAt 0 1 2250000)).die 0).power = 0 ∧ ((later .powerStepFall 8 (dieAt 0 1 2249999)).die 0).power = 1 := by decide +kernel
theorem test_trip : (after (.thermalTrip 0) idle).dies.map Die.powered = [false, false, false] ∧ (after (.thermalTrip 0) idle).health % 4 = 3 := by decide +kernel
/-- Core 5 holds no block. -/
theorem test_gating : 5 < idle.cores.length ∧ idle.blocksNow.all (fun b => b.core != 5) = true ∧ ((after (.powerGating 5 true) idle).core 5).gated = true ∧
    ((after (.powerGating 5 false) (after (.powerGating 5 true) idle)).core 5).gated = false := by decide +kernel
/-- A bring-up that succeeds with 8 channels and 17 ports bad, and one whose ROM fails. -/
theorem test_reset :
    let b : BringUp := ⟨true, List.range 8, List.range 17, 5, some 0, []⟩
    let t := after (.deviceReset b) State.reset
    b.romOk = true ∧ (mappedOut State.reset.fusedChannels b.badChannels).length = 8 ∧ b.badPorts.contains 17 = false ∧ b.firmwareKey = some State.reset.firmwareKey ∧
    t.badChannels = List.range 8 ∧ t.health % 4 = 2 ∧ t.mgmt.map (fun m => t.readNum (m.watch + 0x10) 8) = [t.health] ∧
    (after (.deviceReset b) State.reset).boot = 6 ∧ (after (.deviceReset b) State.reset).node = 5 ∧ (after (.deviceReset ⟨false, [], [], 0, some 0, []⟩) idle).boot = 0 := by decide +kernel
theorem test_errinj :
    let s := { idle with ctxs := idle.ctxs.map fun c => { c with feat := { c.feat with featLo := 0xFFFFFFFF } } }
    (s.ctx? 0).map Ctx.test = some true ∧ ((after (.errinjSlotUe 0 4095 511 3) s).ctx? 0).map Ctx.errinj = some 0x9FFF01FFC0000000 ∧
    ((after (.errinjCeLog 0 0) s).ctx? 0).map Ctx.errinj = some 0xD000000000000000 := by decide +kernel

/-- An idle flit, and one with a payload, each with SEQ 0 as the port expects. -/
theorem test_witness_ports : 0 < idle.ports.length ∧ (idle.port 0).up = true ∧ (idle.port 0).replay.length < 512 ∧ (idle.port 0).outbox = [] ∧ idle.banks = [] ∧ (idle.port 0).waiting = false ∧ 6 ≤ idle.boot := by decide +kernel
/-- The fields of a flit. -/
theorem test_flit_fields (a : BitVec 12) (t : BitVec 4) (c : BitVec 16) (p : BitVec 224) (f : BitVec 256) (h : f = a ++ t ++ c ++ p) :
    flitType f = t ∧ flitSeq f = a ∧ flitCrc f = c ∧ flitCover f = a ++ t ++ p := by
  subst h
  refine ⟨?_, ?_, ?_, ?_⟩ <;> apply BitVec.eq_of_getLsbD_eq <;> intro i hi <;>
    simp only [flitType, flitSeq, flitCrc, flitCover, flitPayload, BitVec.getLsbD_extractLsb', BitVec.getLsbD_append, BitVec.getLsbD_setWidth]
  · rw [show 240 + i - 224 - 16 = i by omega]; simp [hi, show ¬ 240 + i < 224 by omega, show ¬ 240 + i - 224 < 16 by omega]
  · rw [show 244 + i - 224 - 16 - 4 = i by omega]; simp [hi, show ¬ 244 + i < 224 by omega, show ¬ 244 + i - 224 < 16 by omega, show ¬ 244 + i - 224 - 16 < 4 by omega]
  · rw [show 224 + i - 224 = i by omega]; simp [hi]
  · by_cases h1 : i < 224
    · simp [h1]
    · by_cases h2 : i - 224 < 4
      · rw [show 240 + (i - 224) - 224 - 16 = i - 224 by omega]; simp [h1, h2, show i - 224 < 16 by omega, show ¬ 240 + (i - 224) < 224 by omega, show ¬ 240 + (i - 224) - 224 < 16 by omega]
      · rw [show 240 + (i - 224) - 224 - 16 = i - 224 by omega]; simp [h1, h2, show i - 224 < 16 by omega, show ¬ 240 + (i - 224) < 224 by omega, show ¬ 240 + (i - 224) - 224 < 16 by omega]
/-- The CRC is opaque: a flit carries it, so a port that expects SEQ 0 accepts one. -/
theorem test_flit_accepted (n : Port) (t : BitVec 4) (p : BitVec 224) (h : n.seqIn = 0) (ht : t.toNat ≤ 4) :
    n.accepts (flitOf 0 t p) = true ∧ flitType (flitOf 0 t p) = t := by
  obtain ⟨h1, h2, h3, h4⟩ := test_flit_fields 0 t _ p (flitOf 0 t p) rfl
  refine ⟨?_, h1⟩
  rw [Port.accepts, h1, h2, h3, h4]; simp [h, ht]
/-- TYPE 5 is not defined. -/
theorem test_flit_rejected (n : Port) : n.accepts ((5 : BitVec 256) <<< 240) = false := by
  simp [Port.accepts, flitType]
/-- A port as it stands, on a device at a time. -/
def portAt (p : Port) (now : Nat) : State := { dieAt 0 0 now with ports := idle.ports.set 0 p }
/-- The port numbered 0 after an event. -/
def port0 (i : Instr) (s : State) : Port := (after i s).port 0
theorem test_link_retrain :
    let s := portAt { Port.reset with replays := 16 } 5
    port0 (.linkRetrain 0 0) s = Port.reset ∧ (port0 (.linkRetrain 0 0x4000) s).lanes = 8 ∧ (port0 (.linkRetrain 0 0x4001) s).up = false ∧
    (0x4000 : BitVec 16) % 256 = 0 ∧ (0x4001 : BitVec 16) % 256 ≠ 0 ∧ (0x4001 : BitVec 16) / 256 ≠ 0 ∧
    port0 (.linkRetrain 0 0) (portAt { Port.reset with replays := 15 } 5) = { Port.reset with replays := 15 } := by decide +kernel
/-- At the bound and one cycle before it. -/
theorem test_port_times :
    (port0 (.idleFlit 0) (portAt Port.reset 2250)).seqOut = 1 ∧ (port0 (.idleFlit 0) (portAt Port.reset 2249)).seqOut = 0 ∧
    (port0 (.linkTimeout 0) (portAt Port.reset 18000)).up = false ∧ (port0 (.linkTimeout 0) (portAt Port.reset 17999)).up = true ∧
    (port0 (.portKeyRotation 0) (portAt { Port.reset with txCount := 9 } 0)) = { Port.reset with keyGen := 1 } := by decide +kernel
theorem test_lost_nodes :
    (after (.switchTimeout 7) idle).lostNodes = [7] ∧ (after (.switchTimeout 0) idle).lostNodes = [] ∧ idle.node = 0 ∧
    (idle.block? 1).map Block.lost = some none ∧ ((after (.nodeLost 1 0 0x40) idle).block? 1).map Block.lost = some (some (0, 0x40)) := by decide +kernel
theorem test_witness_fabric : idle.MemInv ∧ 6 ≤ idle.boot ∧ (idle.port 0).up = true ∧ (idle.port 0).inside = true ∧ 3 ∉ idle.frozenNodes :=
  ⟨by unfold State.MemInv; decide +kernel, by decide +kernel⟩
theorem test_fabric_request :
    let w (b : Byte) (ok : Bool) : FabricReq := ⟨3, 0, 0x100, .write (.plain [b] ⟨0, 0, 0⟩ 0), ok⟩
    idle.mgmt.all (fun m => !m.holds 0x100 8) = true ∧ idle.offendsPa 0x100 1 (fun _ => 0xAB) = false ∧ (after (.fabricRequest (w 0xAB true)) idle).readPa 0x100 = 0xAB ∧
    (after (.fabricRequest (w 0xAB false)) idle).frozenNodes = [3] ∧ (after (.fabricRequest (w 0xAB false)) idle).readPa 0x100 = 0 ∧
    (after (.fabricRequest ⟨3, 0, 0x100, .atomic 0 5, true⟩) (after (.fabricRequest (w 0xFB true)) idle)).readNum 0x100 4 = 0x100 ∧
    (after (.fabricRequest (w 0xAB true)) { idle with frozenNodes := [3] }).readPa 0x100 = 0 ∧
    (after (.fabricRequest (w 0xAB true)) { idle with boot := 5 }).readPa 0x100 = 0 := by decide +kernel

/-! ## Events of scheduling, launches and blocks (R18, R29-R58, R126-R127, R289-R290, R326-R328) -/

/-- Block 1 of the state above, changed. -/
def withBlock (f : Block → Block) (s : State) : State := { s with blocks := s.blocks.map f }
/-- The context of the state above, changed. -/
def withCtx (f : Ctx → Ctx) (s : State) : State := { s with ctxs := s.ctxs.map f }
/-- Its node, changed. -/
def withNode (f : Node → Node) (s : State) : State := withCtx (fun c => { c with nodes := c.nodes.map f }) s
/-- Position 0 of pipe 0 is held since 0 by a group that is gone. -/
def heldPos (s : State) : State := { s with cores := setAt s.cores 0 fun c => { c with actives := [⟨0, 0, 9, 0, 0, some 0⟩] } }
theorem test_hold_timeout :
    let s := heldPos (dieAt 0 0 64)
    (s.pendingGroup 0 0).isSome = true ∧ s.clk 0 = 64 ∧ (after (.holdTimeout 0 0 0) s).agenda = [.activeSetExchange 0 0 0] ∧
    (after (.holdTimeout 0 0 0) (heldPos (dieAt 0 0 63))).agenda = [] := by decide +kernel
theorem test_active_set :
    let s := heldPos idle
    (s.pendingGroup 0 0).isSome = true ∧ ((after (.activeSetExchange 0 0 0) s).core 0).actives = [⟨0, 0, 1, 0, 0, none⟩] := by decide +kernel
/-- Lane 0 waits for the word at 0x1000 to differ from `cmp`, for 10 cycles from 0. -/
def evw (cmp : Word) : EvWait := ⟨0, 1, 1, 1, Lanes.of fun _ => 0, 6, 0, false, Lanes.of fun _ => 0x1000, Lanes.of fun _ => cmp, 10, 0, 0, 8⟩
/-- What is left of the waits of block 1 after an event. -/
def waitsLeft (i : Instr) (s : State) : Option Nat := ((after i s).block? 1).map fun b => b.evwaits.length
theorem test_evwait_events :
    let s (cmp : Word) := withBlock (fun b => { b with evwaits := [evw cmp] }) (dieAt 0 0 10)
    (s 0).check labCtx .load 0x1000 4 4 = none ∧ (s 0).consumed labCtx 0x1000 4 = none ∧ Mask.has (evw 0).left 0 = true ∧
    (s 0).evRead labCtx (evw 0) 0 = 0 ∧ (s 0).blk.id ≠ 1 ∧ waitsLeft (.evwaitReread 1 0) (s 0) = some 1 ∧
    waitsLeft (.evwaitReread 1 0) (s 5) = some 0 ∧ waitsLeft (.evwaitTimeout 1 0) (s 0) = some 0 := by decide +kernel
/-- LIMIT 250 ms and GRACE 50 ms. -/
theorem test_watchdog :
    let s := dieAt 0 0 562500000
    let node (t : State) := (t.node? 0 0).map Node.wdExpired
    s.hasBlocks 0 0 = true ∧ (s.ctx? 0).map Ctx.state = some .running ∧ (s.node? 0 0).map Node.state = some .running ∧
    node (after (.watchdogExpiry 0 0) s) = some (some 562500000) ∧ (after (.watchdogExpiry 0 0) s).agenda = [.preemption 1] ∧
    node (after (.watchdogExpiry 0 0) (dieAt 0 0 562499999)) = some none := by decide +kernel
theorem test_watchdog_grace :
    let s := withNode (fun n => { n with wdExpired := some 0 }) (dieAt 0 0 112500000)
    ((after (.watchdogGraceExpiry 0 0) s).ctx? 0).map Ctx.state = some .killed := by decide +kernel
/-- A block that has not started leaves its core; its node is suspended. -/
theorem test_preemption :
    let s := withNode (fun n => { n with wdExpired := some 0 }) (withBlock (fun b => { b with started := false }) idle)
    (s.preemptUnit ((s.block? 1).getD Block.empty) true).isSome = true ∧ (after (.preemption 1) s).blocks = [] ∧
    ((after (.preemption 1) s).node? 0 0).map Node.state = some .suspended := by decide +kernel
/-- A launch queue of 16 records at 0x3000 with its watched line at 0x4000. -/
def queued (head tail : Nat) (s : State) : State := withCtx (fun c => { c with queues := [⟨0, 0x3000, 4, 0x4000, 0x3200FA, head, tail, false, 0⟩] }) s
/-- The queue after an event. -/
def queue0 (i : Instr) (s : State) : Option LaunchQ := ((after i s).ctx? 0).bind fun c => c.queue? 0
theorem test_tail_reread :
    let s := { queued 0 0 idle with mem := placeNum idle.mem 0x204000 16 4 }
    ofBytes (s.loadVa labCtx 0x4000 4) = 16 ∧ (16 + 2 ^ 32 - 0) % 2 ^ 32 ≤ 2 ^ 4 ∧ (queue0 (.tailReread (.launch 0 0)) s).map LaunchQ.tail = some 16 ∧
    (after (.tailReread (.launch 0 0)) s).agenda = [.recordTake 0 0] := by decide +kernel
/-- A record of zeros at index 1 is no good record; the good record of above is taken. -/
theorem test_record_take_bad :
    let s := queued 1 2 idle
    ((s.ctx? 0).map Ctx.tableFull) = some false ∧ recordGood (s.loadVa labCtx 0x3080 128) 1 = false ∧
    (queue0 (.recordTake 0 0) s).map LaunchQ.head = some 2 ∧ (queue0 (.recordTake 0 0) s).map LaunchQ.bad = some 1 := by decide +kernel
theorem test_record_take :
    let s := { queued 0 1 idle with mem := Tab.setMany 0 idle.mem 0x203000 goodRecord }
    s.canRead labCtx 0x3000 128 = true ∧ recordGood (s.loadVa labCtx 0x3000 128) 0 = true ∧ (queue0 (.recordTake 0 0) s).map LaunchQ.head = some 1 ∧
    (queue0 (.recordTake 0 0) s).map LaunchQ.bad = some 0 := by decide +kernel
/-- Node 7 waits for two deliveries, and one stands to be made. -/
def waiting : State :=
  withCtx (fun c => { c with delayed := [⟨7, 8, 5, true, none⟩] })
    (withNode (fun n => { n with state := .waiting, count := 2, record := { n.record with nodeid := 7 } }) idle)
theorem test_delivery :
    let n := ((after (.delayedDelivery 0) waiting).node? 0 0)
    ((waiting.ctx? 0).bind waiting.nextDelivery) = some ⟨7, 8, 5, true, none⟩ ∧ ((waiting.ctx? 0).bind fun c => c.named 7).isSome = true ∧
    n.map Node.count = some 1 ∧ n.map Node.failures = some 1 := by decide +kernel
theorem test_aging :
    ((after (.priorityAging 0 0) (dieAt 0 0 4500000)).node? 0 0).map Node.aged = some 2 ∧
    ((after (.blockStarved 0 0) (withNode (fun n => { n with passed := true, next := 0 }) (dieAt 0 0 2250000))).node? 0 0).map Node.starved = some true ∧
    ((after (.blockStarved 0 0) (withNode (fun n => { n with passed := true, next := 0 }) (dieAt 0 0 2249999))).node? 0 0).map Node.starved = some false := by decide +kernel
/-- Nothing to place; then the node's block 0, on core 0. -/
theorem test_no_placement : idle.unplaceable = [] ∧ (idle.tryOrder.filterMap idle.placing).isEmpty = true := by decide +kernel
theorem test_placement :
    let s := withNode (fun n => { n with next := 0 }) { idle with blocks := [] }
    let t := after .placementDecision s
    s.unplaceable = [] ∧ (s.alternate (s.tryOrder.filterMap s.placing)).isSome = true ∧ t.blocks.map Block.core = [0] ∧ t.lastPlaced = [(0, 0)] ∧
    t.agenda = [.prologueFill 2, .placementDecision] := by decide +kernel
theorem test_block_starts :
    let s := withBlock (fun b => { b with state := .prologue }) idle
    let f := withBlock (fun b => { b with state := .filled }) (dieAt 0 0 77)
    (s.node? 0 0).map Node.xforms = some [] ∧ s.copiesOf 1 = [1] ∧ ((s.block? 1).map s.unitOf) = some [1] ∧
    ((after (.prologueFill 1) s).block? 1).map Block.state = some .filled ∧ (after (.prologueFill 1) s).agenda = [.blockStart 1] ∧
    ((after (.blockStart 1) f).block? 1).map Block.state = some .running ∧ ((after (.blockStart 1) f).node? 0 0).map Node.tstart = some (some 77) := by decide +kernel
theorem test_block_end :
    let s := withBlock (fun b => { b with warps := b.warps.map fun w => w.mapThreads Mask.all fun _ t => { t with status := .exited } }) idle
    s.blocks.all (fun b => b.warps.all fun w => w.live = 0) = true ∧ (s.block? 1).map s.quiet = some true ∧ s.blocks.all (fun b => !b.copyFailed) = true ∧
    ((after (.blockEnd 1) s).block? 1).map Block.state = some (.ended .done) := by decide +kernel
/-- A copy of 512 bytes inside the scratch window, of which the first burst moves a byte. -/
theorem test_copy_burst :
    let s := withBlock (fun b => { b with copies := b.copies.set 0 (some ⟨0x400, true, 0, true, 512, 0, none, .running, none, false, 0, []⟩), scratch := [(5, 9)] }) idle
    let t := (after (.copyBurst (.block 1 0)) s).block? 1
    s.blocks.all (fun b => b.pbwaits.isEmpty && (b.scrConsumed 0 256).isNone && Tab.wf (0 : Byte) b.scratch) = true ∧ s.copiesOf 1 = [1] ∧
    t.map Block.scratch = some [(5, 9), (0x405, 9)] ∧ t.map (fun b => (b.copies.getD 0 none).map Copy.cursor) = some (some 256) := by decide +kernel

/-! ## Events of pages, errors and vigils (R63, R212, R216, R217, R223, R333-R341) -/

theorem test_page_walk :
    let t := after (.pageWalk 3 0 0x1234) idle
    (idle.core 3).gated = false ∧ (match idle.xlat labCtx 0x1234 with | .ok l => !l.heap | _ => false) = true ∧
    (t.core 3).tlb = [⟨0, 0, 0x200000⟩] := by decide +kernel
theorem test_migrate_request :
    let r : MigrateReq := ⟨0, 0x1234, 2, 0x600000, false, false, none⟩
    let t := after (.pageMigrateRequest r) { idle with blocks := [] }
    idle.MemInv = (Memory.wf idle.mem = true) ∧ Memory.wf idle.mem = true ∧ idle.leafOf labCtx 0x1234 = some (0x4000, 2) ∧ labCtx.holdsPage 0 0x200000 = false ∧
    idle.pinnedIn 0x200000 0x200000 = false ∧ t.readNum 0x4000 8 = 0x20004E ∧ t.migrations.map Migration.va = [0] := by
  refine ⟨rfl, ?_⟩; decide +kernel
theorem test_migration_complete :
    let m : Migration := ⟨0, 0, 0x200000, 0x200000, 0x600000, 0, [(0x4000, 0x200047)], [], [], none⟩
    let s := { idle with mem := placeNum (placeNum idle.mem 0x4000 0x20004E 8) 0x200010 0xAB 1, migrations := [m] }
    let t := after (.migrationComplete 0 0) s
    Memory.wf s.mem = true ∧ 4096 ≤ m.size ∧ 0x200047 / 4096 % 2 ^ 40 * 4096 - m.old + m.frame = 0x600000 ∧ t.readPa 0x600010 = 0xAB ∧ t.readNum 0x4000 8 = 0x600047 ∧
    Tab.get 0 t.pageGen 0x600 = 1 ∧ t.migrations = [] := by decide +kernel
theorem test_shootdown :
    let s := { dieAt 0 0 22500 with
      shootdowns := [⟨0, none, 0, 0, 4096, 0, [5]⟩], cores := setAt idle.cores 5 fun c => { c with tlb := [⟨0, 0, 4096⟩, ⟨0, 1, 4096⟩] } }
    ((after (.shootdownAck 0 5) s).core 5).tlb = [⟨0, 1, 4096⟩] ∧ (after (.shootdownAck 0 5) s).shootdowns = [] ∧
    s.blocksNow.all (fun b => b.core != 5) = true ∧ ((after (.shootdownTimeout 0 5) s).core 5).cond = .fenced := by decide +kernel
theorem test_unmap :
    let s := { idle with blocks := [] }
    s.pins = [] ∧ labCtx.nodes.all (fun n => n.readsFrom 0 4096 = false) = true ∧ (after (.unmap 0 0 4096) s).readNum 0x4000 8 = 0 := by decide +kernel
/-- A CE and a UE of memory, found by the L2 of die 1. -/
theorem test_error :
    let e (v : Severity) : ErrorEvent := ⟨v, 1, 1, 3, 0x55, none, 0x1000, .memory 0x1000⟩
    idle.banks = [] ∧ (after (.errorDetected (e .ce)) idle).banks = [⟨1, 1, 0x401FFF0300010055, 0x1000⟩] ∧
    (after (.errorDetected (e .ue)) idle).banks = [⟨1, 1, 0x901FFF0300010055, 0x1000⟩] ∧ (after (.errorDetected (e .ue)) idle).poison = [0x40] := by decide +kernel
theorem test_vigil_begin :
    let s := { idle with blocks := [] }
    idle.vigilcfg.getLsbD 0 = true ∧ (idle.die 0).step < 6 ∧ idle.inVigil 0 < idle.perDie ∧ idle.nextVigil 0 = some 0 ∧
    ((after (.vigilBegin 0) idle).core 0).vigil = .draining 0 ∧ ((after (.vigilBegin 0) s).core 0).vigil = .scanning 0 := by decide +kernel
/-- A core in vigil. -/
def inVigil (v : VigilState) (s : State) : State := { s with cores := setAt s.cores 0 fun c => { c with vigil := v } }
theorem test_vigil_drain :
    let s := inVigil (.draining 0) (withBlock (fun b => { b with started := false }) (dieAt 0 0 4500000))
    s.vigilcfg.toNat / 2 ^ 20 % 2 ^ 12 = 20 ∧ ((s.block? 1).bind fun b => s.preemptUnit b false).isSome = true ∧
    (after (.vigilDrainTimeout 0) s).blocks = [] := by decide +kernel
theorem test_vigil_scan :
    let s := { inVigil (.scanning 0) (dieAt 0 0 3375000) with ctxs := [], blocks := [] }
    s.vigilcfg.toNat / 2 ^ 8 % 2 ^ 12 = 15 ∧ ((after (.vigilScanComplete 0 true 0) s).core 0).vigil = .none ∧
    ((after (.vigilScanComplete 0 false 0) s).core 0).cond = .fenced ∧
    (after (.vigilScanComplete 0 false 0) s).banks.map (fun b => (b.kind, b.index)) = [(0, 0)] := by decide +kernel

/-! ## Events of the engine and of collectives (R244-R276, R363, R373-R377) -/

/-- Block 1 as `eng` has it, with an entry at the head of its core's engine queue. -/
def engQueue (op : EngineOp) (half : Nat) : State :=
  { withBlock (fun b => { b with tiles := [TileCell.zero], held := 1 }) idle with
    cores := setAt idle.cores 0 fun c => { c with queue := [⟨0, 1, 0, Issue.idle, op, half, [], 0, 0⟩] } }
/-- A product of scales 1 in rows 64 and 65. -/
def halfProduct : EngineOp := .mma 0 0 1 0 ⟨false, false, 0, 0, false, 0, 0, Lanes.of fun _ => 0, Lanes.of fun _ => 0⟩ (3 <<< 64) none
theorem test_engine_perform :
    ((after (.enginePerform 0) (engQueue (.accgrow 2) 0)).block? 1).map (fun b => b.tiles.length) = some 3 ∧
    ((after (.enginePerform 0) (engQueue (.accgrow 2) 0)).core 0).queue = [] ∧
    ((after (.ttrunStep 0) (engQueue (.ttrun 0 3 3 Mask.all none) 0)).core 0).queue = [] := by decide +kernel
theorem test_mma_half :
    let s := engQueue halfProduct 1
    let ok (b : Block) : Bool := !(b.tile 0).poisoned && Tab.wf zeroRow (b.tile 0).cells && !(b.image 0).poisoned && !(b.image 1).poisoned
    (s.block? 1).map ok = some true ∧ Mask.has (3 <<< 64 : Mask) 64 = true ∧ ((after (.mmaHalf 0) s).core 0).queue = [] := by decide +kernel
/-- A member of a gang with a part still to enter its queue. -/
theorem test_member_part :
    let e : EngineEntry := ⟨0, 1, 0, Issue.idle, .mmag 0 0 1 2 0 ⟨false, false, 0, 0, false, 0, 0, Lanes.of fun _ => 0, Lanes.of fun _ => 0⟩ Mask.all 0 9 1 none, 0, [], 0, 0⟩
    let s := withBlock (fun b => { b with held := 1, slots := b.slots.set 0 ⟨.ready, false, 2⟩, parts := [e] }) idle
    (s.block? 1).map (fun b => b.memberCheck 1 0 0 2 0) = some none ∧ ((after (.mmagMemberPart 1) s).core 0).queue = [e] ∧
    ((after (.mmagMemberPart 1) s).block? 1).map Block.parts = some [] := by decide +kernel
/-- The group of two of above with collective 5 in flight; this one is member 1 and folds it. -/
def collState (now : Nat) : State :=
  { dieAt 0 0 now with ctxs := [{ labCtx with groups := [{ group with colls := [⟨5, some ⟨1, 0, 0x4000, none, ⟨0, 0, 5, 1, 1, false, 0, 0, 0, []⟩⟩, 3, [], 0⟩] }] }] }
/-- The group after an event. -/
def group0 (i : Instr) (s : State) : Option Group := ((after i s).ctx? 0).bind fun c => c.group? 0
theorem test_heartbeat :
    (group0 (.collHeartbeat 0 0) (collState 225000)).map Group.heard = some [225000, 225000] ∧
    (group0 (.collHeartbeat 0 0) (collState 224999)).map Group.heard = some [0, 0] := by decide +kernel
/-- Collective 7, which nothing has begun, has member 1 as its folder. -/
theorem test_contribution :
    let x : Contribution := ⟨0, 0, 7, 0, 1, false, 0, 0, 0, [1, 0, 0, 0]⟩
    group.folder 7 = some 1 ∧ group.has 0 = true ∧
    (group0 (.collContribution x) (collState 0)).map (fun g => g.colls.map Collective.seq) = some [5, 7] := by decide +kernel
theorem test_result :
    let s := withBlock (fun b => { b with colls := b.colls.set 0 (some ⟨0, 5, none, 0, []⟩) }) (collState 0)
    ((after (.collResult ⟨0, 0, 5, 0, 2, 3, 0, 1, []⟩) s).block? 1).map (fun b => b.colls.getD 0 none) = some (some ⟨0, 5, some 0x20000, 0, []⟩) ∧
    (group0 (.collResult ⟨0, 0, 5, 0, 2, 3, 0, 1, []⟩) s).map Group.colls = some [] := by decide +kernel
theorem test_group_timeout :
    (collState 2250000).ctxs.all (fun c => c.groups.all fun g => g.silent 0 2250000) = true ∧
    (group0 (.groupTimeout 0 0 0) (collState 2250000)).map Group.live = some 2 ∧
    (group0 (.groupTimeout 0 0 0) (collState 2249999)).map Group.live = some 3 := by decide +kernel
theorem test_spare :
    let s := withCtx (fun c => { c with groups := [{ group with live := 2 }] }) idle
    (group0 (.spareAdmission 0 0 0 9) s).map (fun g => (g.live, g.season, g.spares)) = some (2, 1, [(0, 9)]) ∧
    (group0 (.collContribution ⟨0, 0, 7, 1, 1, false, 0, 0, 0, []⟩) (withCtx (fun c => { c with groups := [{ group with live := 2, spares := [(0, 9)] }] }) idle)).map
      (fun g => (g.live, g.season, g.nodes, g.spares)) = some (3, 2, [9, 1], []) := by decide +kernel

/-! ## Commands (R368, R369) -/

/-- The state above with command 0 at HEAD of the device queue and of the queue of context 0. -/
def commanded (s : State) : State :=
  { s with mgmt := [⟨.device, 0x300000, 8, 0x304000, 0, 1, false, none⟩, ⟨.context 0, 0x310000, 8, 0x314000, 0, 1, false, none⟩] }
/-- A command on the device queue and on that of context 0. -/
def dev (a0 a1 a2 a3 a4 a5 : DWord) : Cmd := ⟨.device, 0, a0, a1, a2, a3, a4, a5⟩
def own (a0 a1 a2 a3 a4 a5 : DWord) : Cmd := ⟨.context 0, 0, a0, a1, a2, a3, a4, a5⟩
/-- HEAD as written, STATUS and DETAIL of the command that was performed. -/
def replyOf (t : State) : Nat × Nat × Nat :=
  let at_ := if t.readNum 0x304008 4 = 1 then 0x300000 else 0x310000
  (t.readNum (at_ + 0x4008) 4, t.readNum (at_ + 0x38) 1, t.readNum (at_ + 0x39) 3)
/-- The reply: a state and a queue that meet the first clause, with STATUS 5 and DETAIL 6. -/
theorem test_reply :
    let m : MgmtQueue := ⟨.device, 0x300000, 8, 0x304000, 0, 1, false, none⟩
    Memory.wf (commanded idle).mem = true ∧ (commanded idle).mgmtQueue .device = some m ∧ m.head = (dev 0 0 0 0 0 0).index ∧
    m.base + m.head % 2 ^ m.log2 * 64 + 0x3C ≤ m.watch + 8 ∧ replyOf ((commanded idle).reply m 5 6) = (1, 5, 6) := by decide +kernel
theorem test_bad_command : replyOf (after (.badCommandRecord .device 0) (commanded idle)) = (1, 1, 0) := by decide +kernel
theorem test_ctx_destroy : let t := after (.ctxDestroy (dev 0 0 0 0 0 0)) (commanded idle)
    onlyArgs (dev 0 0 0 0 0 0) 1 = true ∧ t.ctxs = [] ∧ t.blocks = [] ∧ replyOf t = (1, 0, 0) := by decide +kernel
theorem test_fence_core : let t := after (.fenceCore (dev 5 0 0 0 0 0)) (commanded idle)
    (t.core 5).cond = .fenced ∧ (t.core 7).cond = .serving ∧ replyOf t = (1, 0, 0) := by decide +kernel
theorem test_release : let t := after (.release (dev 2 7 0 0 0 0)) { commanded idle with frozenNodes := [3, 7] }
    t.frozenNodes = [3] ∧ replyOf t = (1, 0, 0) := by decide +kernel
theorem test_bank_read : let t := after (.bankRead (dev 4 0x320000 0 0 0 0)) { commanded idle with banks := [⟨0, 4, 0x1234, 0x40⟩] }
    t.readNum 0x320000 8 = 0x1234 ∧ t.readNum 0x320008 8 = 0x40 ∧ replyOf t = (1, 0, 0) := by decide +kernel
/-- KEY_BIND asks opaque functions whether the blob is the host's and what it unwraps to. -/
theorem test_keys :
    idle.keys = [] ∧ (idle.ctx? 0).isSome = true ∧ (after (.keyClear (dev 1023 0 0 0 0 0)) { commanded idle with keys := [⟨1023, 0, 5⟩] }).keys = [] ∧
    replyOf (after (.keyBind (dev 1024 0 0 0 0 0)) (commanded idle)) = (1, 2, 0) := by decide +kernel
theorem test_set_window : let t := after (.setWindow (dev 63 (-1) (-1) (-1) (-1) (-1))) (commanded idle)
    t.windows = [⟨63, 0xFFF00F000FFF0001, 0x00FFFFFFFFFFFFFF, 0x01FFFFFFFFFFFFFF, 0x01FFFFFFFFFFFFFF, 0x01FFFFFFFFFFFFFF⟩] ∧ replyOf t = (1, 0, 0) ∧
    replyOf (after (.setWindow (dev 64 0 0 0 0 0)) (commanded idle)) = (1, 2, 0) := by decide +kernel
theorem test_queue_create : let t := after (.queueCreate (own 0x3000 4 0x4000 0 0 0)) (commanded idle)
    wdcfgOf 0 = some 0x3200FA ∧ (t.ctx? 0).map Ctx.queues = some [⟨0, 0x3000, 4, 0x4000, 0x3200FA, 0, 0, false, 0⟩] ∧ replyOf t = (1, 0, 0) := by
  decide +kernel
theorem test_queue_reset :
    let s := withCtx (fun c => { c with queues := c.queues.map fun q => { q with error := true } }) (queued 0 0 (commanded idle))
    queue0 (.queueReset (own 0 0 0 0 0 0)) s = some ⟨0, 0x3000, 4, 0x4000, 0x3200FA, 0, 0, false, 0⟩ ∧
    replyOf (after (.queueReset (own 0 0 0 0 0 0)) s) = (1, 0, 0) := by decide +kernel
/-- The node of above named 7. -/
def named7 : State := withNode (fun n => { n with record := { n.record with nodeid := 7 } }) (commanded idle)
theorem test_cancel : let s := withBlock (fun b => { b with started := false }) named7
    ((s.ctx? 0).bind fun c => c.named 7).isSome = true ∧ (after (.cancel (own 7 0 0 0 0 0)) s).blocks = [] ∧
    replyOf (after (.cancel (own 7 0 0 0 0 0)) s) = (1, 0, 0) := by decide +kernel
theorem test_resume : let s := withNode (fun n => { n with state := .suspended }) named7
    ((s.ctx? 0).bind fun c => c.named 7).map Node.state = some .suspended ∧ ((after (.resume (own 7 0 0 0 0 0)) s).node? 0 0).map Node.state = some .running ∧
    replyOf (after (.resume (own 7 0 0 0 0 0)) s) = (1, 0, 0) := by decide +kernel
theorem test_fail : let s := withBlock (fun b => { b with state := .halted }) named7
    (s.blocksNow.filter fun b => b.ctx = 0 && b.node = 0 && b.index = 0 && b.state = .halted).length = 1 ∧
    ((after (.fail (own 7 0 0 0 0 0)) s).block? 1).map Block.state = some (.ended (.failed 8 0)) ∧ replyOf (after (.fail (own 7 0 0 0 0 0)) s) = (1, 0, 0) := by decide +kernel
theorem test_ctx_read : let s := withCtx (fun c => { c with saved := named7.blocks }) named7
    ((s.ctx? 0).bind fun c => c.saved.find? fun b => b.node = 0 && b.index = 0).isSome = true ∧
    replyOf (after (.ctxRead (own 7 0 0x1000 16 0 0)) s) = (1, 0, 0) := by decide +kernel
theorem test_switch_out : let s := commanded { idle with blocks := [] }
    ((s.ctx? 0).bind s.switchOut).isSome = true ∧ ((after (.switchOut (own 0 0 0 0 0 0)) s).ctx? 0).map Ctx.state = some .out ∧
    replyOf (after (.switchOut (own 0 0 0 0 0 0)) s) = (1, 0, 0) := by decide +kernel
/-- The context is switched out. -/
def out : State := withCtx (fun c => { c with state := .out }) (commanded { idle with blocks := [] })
theorem test_restore : ((after (.restore (own 0 0 0 0 0 0)) out).ctx? 0).map Ctx.state = some .running ∧ .placementDecision ∈ (after (.restore (own 0 0 0 0 0 0)) out).agenda := by
  decide +kernel
theorem test_migrate : (after (.migrate (own 5 0 0 0 0 0)) out).ctxs = [] ∧ out.node = 0 := by decide +kernel
theorem test_set_xlate : let t := after (.setXlate (own (-1) 0 (-1) (-1) 9 0)) (commanded idle)
    idle.heapFits 0 0 0 9 = true ∧ (t.ctx? 0).map (fun c => (c.ptroot, c.heapbase, c.heapoff)) = some (0x000FFFFFFFFFF000, 0x01FFFFFFFFE00000, 9) ∧
    replyOf t = (1, 0, 0) := by decide +kernel
theorem test_fault_answer : let s := withCtx (fun c => { c with faults := [⟨4, 0x5000, 3, .threads 1 0 1, none⟩] }) (commanded idle)
    replyOf (after (.faultAnswer (own 4 0 0 0 0 0)) s) = (1, 0, 0) ∧ ((after (.faultAnswer (own 4 0 0 0 0 0)) s).ctx? 0).map Ctx.faults = some [] ∧
    replyOf (after (.faultAnswer (own 4 4 0 0 0 0)) s) = (1, 2, 0) := by decide +kernel
/-- Group 0 of two members, this one member 1. -/
theorem test_group_create : let t := after (.groupCreate (own 7 0x20100 0x1000 0x2000 0x3000 0)) (commanded idle)
    idle.mapped labCtx 0x1000 4 = true ∧ idle.mapped labCtx 0x2000 576 = true ∧ idle.mapped labCtx 0x3000 2048 = true ∧
    ((t.ctx? 0).bind fun c => c.group? 0).map (fun g => (g.nmem, g.self, g.live)) = some (2, 1, 3) ∧ t.readNum 0x202000 8 = 0x100000007 ∧ replyOf t = (1, 0, 0) := by
  decide +kernel
/-- A code object at 0x1000 with 32 bytes of code, 4 KiB of scratch and one role of one warp; its HDRCRC computed by hand. -/
def objectMem : List Host.Cell :=
  [(0x00, 0x4E563348, 4), (0x04, 1, 2), (0x06, 0x100, 2), (0x08, 32, 4), (0x10, 4096, 4), (0x15, 1, 1), (0x17, 16, 1), (0x18, 32, 1), (0x1A, 1, 1),
    (0x20, 0x18001, 8), (0xFC, 0x36E250CD, 4)].foldl (fun m x => placeNum m (0x201000 + x.1) x.2.1 x.2.2) idle.mem
def objectAt : State := { commanded { idle with blocks := [] } with mem := objectMem }
theorem test_witness_object : objectAt.objectFault labCtx 0x1000 = none ∧ labCtx.insideObject 0x1000 = false ∧ (labCtx.object? 0).isSome = true := by decide +kernel
theorem test_load_object : let t := after (.loadObject (own 0x1000 0 0 0 0 0)) objectAt
    (t.ctx? 0).map (fun c => c.objects.map fun o => (o.addr, o.size, o.current)) = some [(0, 288, 0), (0x1000, 288, 0)] := by decide +kernel
theorem test_update_object : let t := after (.updateObject (own 0 0x1000 0 0 0 0)) objectAt
    (labCtx.object? 0).map CodeObj.nextTag = some (some 1) ∧ (t.ctx? 0).map (fun c => c.objects.map fun o => (o.addr, o.current)) = some [(0, 1)] := by
  decide +kernel

/-! ## CTX_CREATE (R325, R347, R370) -/

/-- Page tables at physical address 0: cell 0 points at the table itself, cells 1 to 31 are leaves of 2 MiB; a grant of core 0 at
0x8000 and an empty list of nodes; a region descriptor at 0x9000: cellar at 2 MiB, attic at 50 MiB, no save region, suspect list at
52 MiB. -/
def creatingMem : List Host.Cell :=
  [(0x8000, 1, 1), (0x8100, 0xFFFF, 2), (0x9000, 0x200000, 8), (0x9008, 0x3200000, 8), (0x9010, 1, 4), (0x9028, 0x3410000, 8), (0x9030, 4096, 4)].foldl
    (fun m x => placeNum m x.1 x.2.1 x.2.2) ((0, 1) :: (List.range 31).map fun i => (8 * i + 8, 0x43))
def creating : State := { commanded idle with mem := creatingMem }
/-- Its context. -/
def newCtx : Ctx :=
  let grant := creating.grantOf (creating.readNum 0x8000 36)
  let feat := creating.featuresFor grant 1
  { Ctx.make 1 grant feat 2048 (Regions.of (creating.readPas 0x9000 64) (48 * 196608 * (feat.cores + 4 * feat.dies))) 0x700000
      (creating.nodesFrom 0x8100 2048) with slotSets := creating.slotSetsOf grant }
theorem creating_cells : creating.readNum 0 8 = 1 ∧ ∀ i : Fin 32, 1 ≤ i.1 → creating.readNum (8 * i.1) 8 = 0x43 := by decide +kernel
theorem walk_table (va n : Nat) (h : creating.readNum (8 * bits va (12 + 9 * (n + 1)) 9) 8 = 1) :
    creating.walk va (n + 2) 0 = creating.walk va (n + 1) 0 := by
  rw [State.walk]
  simp only [Nat.zero_add, h]
  simp [show ∀ a, creating.poisoned a = false from fun _ => rfl, bit, bits, Nat.testBit, Nat.shiftRight_eq_div_pow, show entryReserved 1 = false from rfl]
theorem walk_leaf (va : Nat) (h : creating.readNum (8 * bits va 21 9) 8 = 0x43) :
    (match creating.walk va 2 0 with | .ok l => !l.heap | _ => false) = true := by
  rw [State.walk]
  simp only [Nat.zero_add, Nat.reduceAdd, Nat.reduceMul, h]
  simp [show ∀ a, creating.poisoned a = false from fun _ => rfl, bit, bits, Nat.testBit, Nat.shiftRight_eq_div_pow, show entryReserved 0x43 = false from rfl,
    State.leafFor, State.leafOfEntry]
theorem creating_walk (va : Nat) (h : 0x200000 ≤ va) (h2 : va < 0x4000000) : (match creating.xlat newCtx va with | .ok l => !l.heap | _ => false) = true := by
  have b : bits va (12 + 9 * 4) 9 = 0 ∧ bits va (12 + 9 * 3) 9 = 0 ∧ bits va (12 + 9 * 2) 9 = 0 := by
    simp only [bits, Nat.shiftRight_eq_div_pow]; omega
  have b2 : bits va 21 9 = va / 0x200000 := by rw [bits, Nat.shiftRight_eq_div_pow]; omega
  have c0 : creating.readNum 0 8 = 1 := creating_cells.1
  have c1 : creating.readNum (8 * (va / 0x200000)) 8 = 0x43 := creating_cells.2 ⟨va / 0x200000, by omega⟩ (by simp; omega)
  obtain ⟨b5, b4, b3⟩ := b
  rw [State.xlat, if_neg (by omega), if_neg (by rw [show newCtx.inHeap va = false from rfl]; simp),
    show bits newCtx.ptroot.toNat 12 40 * 4096 = 0 from rfl, walk_table va 3 (by rw [b5]; exact c0), walk_table va 2 (by rw [b4]; exact c0),
    walk_table va 1 (by rw [b3]; exact c0)]
  exact walk_leaf va (by rw [b2]; exact c1)
theorem chunks_inside (lo hi : Nat) (hh : hi ≤ 2 ^ 64) : ∀ fuel va n, lo ≤ va → va + n ≤ hi → ∀ p ∈ chunks va fuel n, lo ≤ p.1 ∧ p.1 < hi := by
  intro fuel
  induction fuel with
  | zero => intro va n _ _ p hp; simp [chunks] at hp
  | succ k ih =>
    intro va n h1 h2 p hp
    rw [chunks] at hp
    split at hp
    · simp at hp
    · rename_i hn
      have hv : va % 2 ^ 64 = va := Nat.mod_eq_of_lt (by omega)
      simp only [hv, List.mem_cons] at hp
      rcases hp with rfl | hp
      · exact ⟨h1, by omega⟩
      · exact ih _ _ (by omega) (by omega) p hp
theorem creating_mapped (va n : Nat) (h : 0x200000 ≤ va) (h2 : va + n ≤ 0x4000000) : creating.leafed newCtx va n = true := by
  simp only [State.leafed, List.all_eq_true]
  intro p hp
  obtain ⟨h3, h4⟩ := chunks_inside 0x200000 0x4000000 (by omega) _ _ _ h h2 p hp
  exact creating_walk p.1 h3 h4
theorem new_regions : newCtx.regions = ⟨0x200000, 47185920, 0x3200000, 1, 0, 0, 0x3410000, 4096⟩ := by decide +kernel
theorem test_witness_ctx_create :
    creating.freeCtx = some 1 ∧ slackOf 0 = some 2048 ∧ creating.grantOf (creating.readNum 0x8000 36) ≠ [] ∧
    creating.regionsOk newCtx (creating.readPas 0x9000 64) = true := by
  refine ⟨by decide +kernel, by decide +kernel, by decide +kernel, ?_⟩
  have h : (fieldAt (creating.readPas 0x9000 64) 0x14 4 = 0 && fieldAt (creating.readPas 0x9000 64) 0x34 12 = 0 && 1 ≤ newCtx.regions.atticN && newCtx.regions.atticN ≤ 65536 && newCtx.regions.saveSz % 65536 = 0 &&
    newCtx.regions.suspectSz != 0 && newCtx.regions.suspectSz % 4096 = 0 && apart newCtx.regions.ranges) = true := by decide +kernel
  rw [State.regionsOk, h, new_regions]
  simp [Regions.ranges, State.mappedAt, creating_mapped]

/-! ## Further clauses of the statements -/

/-- A saturating sum that is clamped sets SAT, one that is not does not (R188). -/
theorem test_sat : flagsAfter (.iadd (F 6 10 20 0 1)) (ops 0x7FFFFFFF 1 0) = 0x20 ∧ flagsAfter (.isub (F 6 10 20 0 2)) (ops 1 2 0) = 0x20 ∧
    flagsAfter (.iadd (F 6 10 20 0 1)) (ops 1 1 0) = 0 ∧ flagsAfter (.iabs (F 6 10 0 0 1)) (ops 0x80000000 0 0) = 0x20 ∧
    flagsAfter (.idot4 (F 6 10 20 30 4)) (ops 0xFFFFFFFF 0xFFFFFFFF 0xFFFFFFFF) = 0x20 := by decide +kernel
/-- The write-back of a warp that is not the issuing one. -/
theorem test_writeback_other :
    let t := (after (.fsqrt (F 6 10 0 0 0)) (ops 0x40800000 0 0)).checkin
    t.blk.id ≠ 1 ∧ (t.checkin.checkout 1 0 Issue.idle).blk.id = 1 ∧ (t.checkin.checkout 1 0 Issue.idle).wp.pending.length = 1 ∧
    ((after (.longLatencyWriteback 1 0) t).block? 1).bind (fun b => (b.warp? 0).map fun w => w.val 6 0) = some 0x40000000 := by decide +kernel
/-- FENCE with a shoot-down of its warp in progress waits; PIN at 0x1001 traps. -/
theorem test_fence_waits :
    let s := { mem with shootdowns := [⟨0, some (mem.blk.id, mem.wp.idx), 0, 0, 4096, 0, [5]⟩] }
    s.shooting = true ∧ ((after (.fence (F 0 0 0 0 0x10)) s).wp.thread 0).status = .waiting .retry ∧
    (let p := handled (reg 10 (.u 0x1001) (reg 21 (.u 0x1000) few))
     p.uniPair 10 % 4096 ≠ 0 ∧ (after (.pin (F 6 10 21 0 0)) p).wp.trap.cause = 8 ∧ (after (.unsealR (F 0 10 21 0 0)) p).wp.trap.addr = 0x1001) := by decide +kernel
/-- Every thread names lane 0 alone: the lowest one that does not name itself is lane 1. -/
theorem test_mask_self :
    let s := handled (reg 30 (.u 1) lab)
    let f := F 6 10 20 30 0
    Mask.has (s.en f) 1 = true ∧ Mask.has (s.membersOf f 1) 1 = false ∧ Mask.has (s.membersOf f 0) 0 = true ∧
    (after (.elect f) s).wp.trap.cause = 7 ∧ (after (.elect f) s).wp.trap.addr = 1 := by decide +kernel
/-- A gang of one names itself as its partner; the barrier of above has POISON set in one state. -/
theorem test_witness_partner :
    let b := bar.blkNow
    (bar.wp.rv 30).shape = 0 ∧ bar.uni 30 < bar.blk.header.gang ∧ bar.partner? (bar.uni 30) = some b ∧ bar.block? b.id = some b ∧
    b.pbwaits = [] ∧ b.scrConsumed (bar.uni 10) 8 = none ∧
    (let s := handled { bar with blk := bar.blk.writeScr 0x80 (bytesOf (0x00010001 + 2 ^ 57) 8) }
     s.blk.barrier 0x80 / 2 ^ 57 % 2 = 1 ∧ (after (.pbwait (F 0 10 20 0 0)) (reg 20 (.u 1) s)).wp.trap.cause = 0x11 ∧
     (after (.pbwait (F 6 10 20 0 1)) (reg 20 (.u 1) s)).wp.val 6 0 = 1) := by decide +kernel
/-- A copy that runs, which CPYWAIT waits for, and one that failed with code 2 and KIND 3. -/
theorem test_cpy_failed :
    let c (st : CopyStatus) : State := handled { lab with blk := { lab.blk with copies := lab.blk.copies.set 0 (some ⟨0, true, 0, true, 512, 256, none, st, none, false, 0, []⟩) } }
    ((after (.cpywait (F 6 0 20 0 0)) (c .running)).wp.thread 3).status = .waiting .copy ∧
    (after (.cpyq (F 6 0 20 0 0)) (c (.failed 2 3))).wp.pending.map (fun p => p.dests) = [[(6, .u 0x302), (7, .u 256)]] ∧
    (after (.cpywait (F 6 0 20 0 1)) (c (.failed 2 3))).wp.val 6 0 = 0x302 ∧ (after (.cpywait (F 6 0 20 0 0)) (c (.failed 2 3))).wp.trap.cause = 0x12 ∧
    (after (.cpywait (F 6 0 20 0 0)) (c (.failed 2 3))).wp.trap.addr = 0x30200000100 := by decide +kernel
/-- LAUNCH with no status register of a record that is not good: LAUNCH_FAIL behind the instruction. -/
theorem test_launch_fails :
    let t := after (.launch (F 511 10 0 0 0)) (handled launcher)
    recordGood (launcher.loadVa labCtx 0x1000 128) 0 = false ∧ t.wp.trap.cause = 0x19 ∧ t.wp.trap.addr = 0x10000 ∧ t.wp.trap.pc = 8 := by decide +kernel
/-- Two threads launch the good record. -/
theorem test_launch_two :
    let s := { reg 10 (.u 0x1000) few with mem := Tab.setMany 0 few.mem 0x201000 goodRecord }
    let t := after (.launch (F 6 10 0 0 0)) s
    (∀ l, l < 2 → s.laneCause labCtx ⟨s.launchAddr (F 6 10 0 0 0), 128, 128, true, false, true⟩ l = .fine) ∧ t.wp.val 6 0 = 0 ∧ t.wp.val 6 1 = 0 := by
  decide +kernel
/-- Registers of the context: SRSEED, CTXCFG and BPA2. -/
theorem test_context_registers :
    let t (n : Word) : Option Ctx := (after (.csrw (FI 0 10 0 0 n)) (reg 10 (.u 0xFFFFFFFF) (reg 11 (.u 0xFFFFFFFF) lab))).ctx? 0
    (t 0x11).map Ctx.srseed = some 0xFFFFFFFF ∧ (t 0x12).map Ctx.ctxcfg = some 3 ∧
    (t 0x1A).map (fun c => c.bpa.getD 2 0) = some 0xE1FFFFFFFFFFFFFF := by decide +kernel
/-- An image of zeros has a bad header; an entry with VALID and a length code of 3 is no good entry; both are refused with their SUB. -/
theorem test_dictionary_refused :
    dict.dictPoisoned 1 = false ∧ (match imageCheck (dict.loadVa labCtx (dict.imageAddr (F 6 10 0 0 1)) 6208) with | .error x => x == (0, 1) | .ok _ => false) = true ∧
    (after (.dload (F 6 10 0 0 1)) dict).wp.val 6 0 = 0x10001 ∧
    (let s := reg 10 (.u 5) (reg 25 (.u 0x10000) dict)
     let e : BitVec 192 := BitVec.ofNat 192 (2 ^ 176)
     entryValid e = true ∧ (entryFault e).isSome = true ∧
     (after (.dpatch (F 6 10 20 0 1)) s).wp.val 6 0 = dictStatus 5 ((entryFault e).getD 0)) := by decide +kernel
/-- DPATCH in F128 reads its entry at EXT. -/
theorem test_dpatch_memory :
    let s := { reg 10 (.u 5) dict with mem := placeNum dict.mem 0x201000 7 8 }
    let f : Fields := { F 6 10 0 0 1 with x := .ext 0x1000 }
    f.isF128 = true ∧ s.laneCause labCtx ⟨fun _ => 0x1000, 24, 8, true, false, true⟩ 0 = .fine ∧ Tab.get 0 ((after (.dpatch f) s).dict 1) 5 = 7 := by
  decide +kernel
/-- MWAIT with one OSREL of the warp outstanding: N 1 goes on, and covers nothing. -/
theorem test_mwait_outstanding :
    let s := { (after (.osrel (F 0 0 20 0 0)) eng) with iss := eng.iss, wp := eng.wp }
    (s.outstanding s.blk.id s.wp.idx).length = 1 ∧ s.blk.uncov.length = 1 ∧ (after (.mwait (F 0 0 0 0 1)) s).blk.uncov.length = 1 := by decide +kernel
/-- A header flit begins a packet, which a data flit joins. -/
theorem test_packet (h : BitVec 256) : joinFlit [] h = [[h]] ∨ flitType h ≠ 1 := by
  by_cases hh : flitType h = 1
  · left; simp [joinFlit, hh]
  · exact .inr hh
/-- A page asked for that is pinned is refused; that of above has one translation, which no region holds. -/
theorem test_migrate_pinned :
    let r : MigrateReq := ⟨0, 0x1234, 2, 0x600000, false, false, none⟩
    let s := { idle with pins := [⟨0, 0, 0x200000 / 128⟩] }
    pageOf 0x200047 2 = (0x200000, 0x200000) ∧ idle.translations 0x200000 0x200000 = [(0, 0, 0x4000)] ∧
    idle.keptPage 0x200000 (0, 0, 0x4000) = false ∧ s.pinnedIn 0x200000 0x200000 = true ∧
    (after (.pageMigrateRequest r) s).pageReplies = [(0, 0x1000, 5)] ∧ (after (.pageMigrateRequest r) s).mem = idle.mem := by decide +kernel
/-- No operation stores to the range of the shoot-down of above. -/
theorem test_witness_ack : idle.usesRange 5 0 0 4096 = false ∧ idle.migrations = [] := by decide +kernel
/-- The arguments of KEY_BIND: a free slot, a context, and no further argument. -/
theorem test_witness_keys : onlyArgs (dev 5 0 0x1000 0 0 0) 3 = true ∧ (commanded idle).keys = [] ∧ ((commanded idle).ctx? 0).isSome = true := by
  decide +kernel
/-- The context of the tests has level 0, which every package has; one of a level above the package's own is not taken back. -/
theorem test_migrate_level (n : Nat) : labCtx.feat.level ≤ n ∧ ((out.ctx? 0).map fun (c : Ctx) => c.feat.level) = some labCtx.feat.level ∧
    ((withCtx (fun c => { c with feat := { c.feat with level := Config.featureLevel + 1 } }) out).ctx? 0).map (fun (c : Ctx) => c.feat.level) =
      some (Config.featureLevel + 1) :=
  ⟨Nat.zero_le n, by decide +kernel, rfl⟩
/-- CPY and COLL with a barrier at 0x40, and with a destination that is no multiple of 256. -/
theorem test_with_barrier :
    let f : Fields := ⟨7, false, 0, 0xC0, 6, 11, 12, 30, .ext 0x8000004000000000⟩
    let s := reg 12 (.u 0x100) cpy
    let t := after (.cpy f) s
    f.isF128 = true ∧ f.ext.getLsbD 63 = true ∧ f.e 55 32 = 0x40 ∧ 0x48 ≤ s.blk.header.scratch ∧ s.blk.pbwaits = [] ∧
    (t.blk.copies.getD 0 none).map Copy.bar = some (some 0x40) ∧ t.blk.barrier 0x40 / 2 ^ 32 % 2 ^ 24 = 0x100 ∧
    (let bad := handled (reg 11 (.u 0x101) s)
     (after (.cpy f) bad).wp.trap.cause = 8 ∧ (after (.cpy f) bad).wp.trap.addr = 0x101) ∧
    (let g : Fields := ⟨7, false, 0, 0x08, 6, 10, 20, 30, .ext 0x8000004000000003⟩
     (lab.collArgs g).bar = some 0x40 ∧ pcOf (.coll g) lab 9 = 8 ∧
     (after (.coll g) (handled (reg 10 (.u 0x80) lab))).wp.trap.addr = 0x80) := by decide +kernel
/-- OSLOAD of an image from generic memory, 64 bytes a row at stride 16. -/
theorem test_osload_generic :
    let f := FI 0 10 0 0x20 16
    let s := reg 10 (.u 0x1000) eng
    f.b 2 = false ∧ (match s.osloadCheck f labCtx 0x1000 with | .ok x => x == (16, 2, none) | .error _ => false) = true ∧
    ((after (.osload f) s).core 0).queue.map EngineEntry.op = [.osload 0 false 0x1000 16 false 2 none] := by decide +kernel
/-- ACCGROW of 0, beyond ACCMAX, of more than is free, and behind an older block's wait. -/
theorem test_accgrow_answers :
    let said (n : Word) (mod : BitVec 8) (s : State) : Word := (after (.accgrow (FI 6 0 0 mod n)) s).wp.val 6 0
    let other : Block := { eng.blk with id := 2, index := 5, tiles := List.replicate 10 TileCell.zero }
    let full : State := { eng with blocks := eng.blocks ++ [other] }
    let old : State := { eng with blk := { eng.blk with age := 1 }
                                  blocks := eng.blocks.map (fun b => { b with age := 1 }) ++ [{ eng.blk with id := 2, age := 0 }]
                                  cores := setAt eng.cores 0 fun c => { c with tileWaits := [⟨2, 1, 0, 1, 6⟩] } }
    said 0 0 (reg 6 (.u 9) eng) = 0 ∧ said 15 0 eng = 3 ∧ full.freeTiles 0 < 5 ∧ said 5 0 full = 1 ∧
    old.olderWaits old.blk = true ∧ said 1 1 old = 2 := by decide +kernel
/-- ACCMV `.rt` of four registers into columns 60 to 63 of tile 0, and `.tr` of them into v6 to v9. -/
theorem test_accmv_direct :
    let s := reg 10 (.u 1) (reg 11 (.u 2) (reg 12 (.u 3) (reg 13 (.u 4) eng)))
    let t := after (.accmv (F 0 10 0 0 (0x40 + 60))) s
    s.namedRows 0 = 0 ∧ Tab.wf zeroRow (s.blk.tile 0).cells = true ∧ 0 < s.blk.tiles.length ∧
    ((t.blk.tile 0).row 9).drop 59 = [0, 1, 2, 3, 4] ∧ (F 6 0 0 0 0x80).m 7 6 = 2 ∧
    (let u := { eng with blk := { eng.blk with tiles := [(TileCell.zero.setRow 0 (List.replicate 64 0x3F800000))] } }
     (after (.accmv (F 6 0 0 0 0x80)) u).wp.val 6 0 = 0x3F803F80 ∧ (after (.accmv (F 6 0 0 0 0x80)) u).wp.val 9 1 = 0) := by decide +kernel
/-- MMA with an arrive at 0x40, and ACCST of generic memory. -/
theorem test_engine_forms :
    let f : Fields := ⟨7, false, 0, 0, 1, 0, 1, 0, .ext 0x8000004000000000⟩
    let g := FI 0 0 10 0 0
    let s := reg 10 (.u 0x1000) eng
    f.e 63 63 = 1 ∧ f.e 55 32 % 8 = 0 ∧ eng.blk.mmaCheck 1 0 (slotB f) (f.m 2 0) (f.b 3) (f.b 4) = none ∧
    ((after (.mma f) eng).core 0).queue.map (fun e => e.op.arrive) = [some 0x40] ∧
    g.b 3 = false ∧ s.check labCtx .store 0x1000 (accstBytes (g.m 7 5)) 1 = none ∧ ((after (.accst g) s).core 0).queue.length = 1 := by decide +kernel
/-- A fall of the thermal step while a rise is due; VIGILCFG with DRAIN 0 keeps its reset value. -/
theorem test_rise_first :
    let s := after .powerStepRise (after (.thermalStepRise 0) (dieAt 1 1 2250000))
    ((later (.thermalStepFall 0) 8 s).die 0).thermal = 2 ∧ ((later .powerStepFall 8 s).die 0).power = 2 ∧
    vigilcfgOf 0x00000F11 = 0x1400F11 ∧ vigilcfgOf 0x6406420 = 0x6406420 := by decide +kernel
/-- A contribution of a season before its member index was taken over is refused; a broadcast whose root is no member is PARTIAL. -/
theorem test_old_season :
    let s := withCtx (fun c => { c with groups := [{ group with season := 2, since := [2, 1] }] }) idle
    let x (season : Nat) : Contribution := ⟨0, 0, 7, 0, season, false, 0, 0, 0, []⟩
    (group0 (.collContribution (x 1)) s).map (fun g => g.colls.length) = some 0 ∧
    (group0 (.collContribution (x 2)) s).map (fun g => g.colls.length) = some 1 ∧
    (group.fold 0 ⟨7, none, 1, [⟨0, 0, 7, 0, 1, false, 1, 0, 5, []⟩], 0⟩).code = 1 := by decide +kernel
/-- R189 and R196: FCMP raises IV for a signalling NaN, and for a quiet one with an ordering alone. -/
theorem test_fcmp_flags :
    flagsAfter (.fcmp (F 0 10 20 7 0)) (ops 0x7F800001 0 0) = 0x10 ∧ flagsAfter (.fcmp (F 0 10 20 7 0)) (ops 0x7FC00000 0 0) = 0 ∧
    flagsAfter (.fcmp (F 0 10 20 7 2)) (ops 0x7FC00000 0 0) = 0x10 := by decide +kernel
/-- R168 and R169: infinity minus infinity in lanes 0 and 1 sets IV. -/
theorem test_sum_flags :
    let s := four (reg 10 (RegVal.lanes fun l => if l = 0 then 0x7F800000 else 0xFF800000) lab)
    (F 6 10 0 0 0x88).m 3 0 = 8 ∧ (F 6 10 0 0 0x88).b 7 = true ∧ flagsAfter (.redux (F 6 10 0 0 0x88)) s = 0x10 ∧
    flagsAfter (.scan (F 6 10 0 0 0x98)) s = 0x10 ∧ flagsAfter (.redux (F 6 10 0 0 0x80)) s = 0 := by decide +kernel
/-- The predicate forms of VOTE write one predicate; v6, FPSTAT and the others stay. -/
theorem test_vote_frame :
    let s := preds (fun l => if l < 3 then 8 else 0) (four (reg 6 (.u 9) lab))
    let t := after (.vote (F 2 3 0 0 0x80)) s
    t.wp.rv 6 = .u 9 ∧ t.wp.pred 3 2 = true ∧ t.wp.pred 3 3 = false ∧ t.wp.pred 2 3 = true ∧ t.wp.fpstat = 0 := by decide +kernel
/-- R211 and R11: a load through a leaf that is sealed and names a key marks a register of any values, in a V row. -/
theorem test_stray_load :
    let s := { mem with mem := placeNum mem.mem 0x4000 (2 ^ 54 + 2 ^ 40 + 0x200047) 8, keys := [⟨1, 0, 0⟩] }
    let f := FI 6 0 0 1 4
    s.strays labCtx ⟨s.addr { f with vb := 20 }, 4, 1, true, false, true⟩ 1 = true ∧
    (after (.ld { f with vb := 20 }) s).wp.pending.map (fun p => p.dests.map fun d => RegVal.shape d.2) = [[2]] := by decide +kernel
/-- The leaves of the loads and atomics of above are none that R211 forbids, no byte there is one that software must not write, and
the banks of LDC are sound. -/
theorem test_witness_sound :
    mem.strays labCtx ⟨mem.addr (F 6 0 20 0 4), 4, 1, true, false, true⟩ 3 = false ∧ mem.offends labCtx 0x1000 (bytesOf 7 4) = false ∧
    (mem.bankBad false).1 = [] ∧ (mem.bankBad true).1 = [] := by decide +kernel
/-- UNSEAL keeps the L2's line of the range that is pinned, and drops the other and the L1's. -/
theorem test_unseal_pinned :
    let s0 := reg 21 (.u 0x1000) few
    let line (level pa : Nat) : CacheLine := ⟨level, 0, 0, pa / 128, false, 0, none, 15, 0⟩
    let s := { (after (.sealR (F 0 10 21 0 0)) s0) with
      iss := s0.iss, wp := s0.wp, caches := [line 1 0x200000, line 0 0x200000, line 1 0x200080], pins := [⟨0, 0, 0x200000 / 128⟩] }
    ((after (.unsealR (F 0 10 21 0 2)) s).caches.map fun x => (x.level, x.line * 128)) = [(1, 0x200000)] := by decide +kernel
/-- DSWITCH makes the threads of the block's other warp stale too. -/
theorem test_stale_block :
    let s := { dict with blk := { dict.blk with warps := [dict.wp, { dict.wp with idx := 1 }] } }
    let t := after (.dswitch (F 0 0 0 0 1)) s
    t.blkNow.warps.length = 2 ∧ t.blkNow.warps.all (fun w => (w.thread 5).stale) = true := by decide +kernel
/-- LOAD_OBJECT waits for the shoot-down of a core that has translations; then it replies. -/
theorem test_load_object_waits :
    let j := own 0x1000 0 0 0 0 0
    let s := { objectAt with cores := setAt objectAt.cores 5 fun c => { c with tlb := [⟨0, 0, 0x200000⟩] } }
    let held (d : List Shootdown) : State := { objectAt with
      shootdowns := d, mgmt := objectAt.mgmt.map fun m => { m with hold := some (3, .loadObject j) } }
    let hold (t : State) := (t.mgmtQueue j.queue).map MgmtQueue.hold
    s.tlbCores 0 = [5] ∧ objectAt.tlbCores 0 = [] ∧ hold (after (.loadObject j) s) = some (some (0, .loadObject j)) ∧
    (held [⟨3, none, 0, 0, 4096, 0, [5]⟩]).shootLasts 3 = true ∧ (held []).shootLasts 3 = false ∧
    hold (after (.loadObject j) (held [])) = some none ∧ replyOf (after (.loadObject j) (held [])) = (1, 0, 0) := by decide +kernel
/-- MWAIT with both an OSREL of the warp performed and one outstanding: N 1 covers the first. -/
theorem test_mwait_covers :
    let s1 := { (after (.osrel (F 0 0 20 0 0)) eng) with iss := eng.iss, wp := eng.wp }
    let s2 := reg 20 (.u 0) { s1 with cores := setAt s1.cores 0 fun c => { c with queue := [] } }
    let s := { (after (.osrel (F 0 0 20 0 0)) s2) with iss := eng.iss, wp := eng.wp }
    s.blk.uncov.length = 2 ∧ (s.outstanding s.blk.id s.wp.idx).length = 1 ∧ (after (.mwait (F 0 0 0 0 1)) s).blk.uncov.length = 1 := by
  decide +kernel
/-- CSRW of PROGIDX keeps its RO fields at 0. -/
theorem test_progidx :
    let t := after (.csrw (FI 0 10 0 0 8)) (reg 10 (.u 0xFFFFFFFF) (reg 11 (.u 0xFFFFFFFF) lab))
    t.wp.progIdx = 0x8000FFFF00000003 ∧ t.wp.rvalid = false := by decide +kernel
/-- A trap of SEAL at its base where the length alone is wrong. -/
theorem test_seal_length :
    let t := after (.sealR (F 0 10 21 0 0)) (handled (reg 10 (.u 0x1000) (reg 21 (.u 0x1001) few)))
    t.wp.trap.cause = 8 ∧ t.wp.trap.addr = 0x1000 := by decide +kernel
/-- No spare waits in the groups of the tests, and the block of a COLL is among the blocks. -/
theorem test_witness_coll : group.spares = [] ∧ lab.block? lab.blk.id = some lab.blkNow := by decide +kernel
/-- A page of the context's regions is held, and keeps its leaf. -/
theorem test_unmap_held :
    let s := withCtx (fun c => { c with regions := { c.regions with save := 0, saveSz := 4096 } }) { idle with blocks := [] }
    labCtx.holdsPage 0 (pageBytes 2) = false ∧ ((s.ctx? 0).map fun c => c.holdsPage 0 (pageBytes 2)) = some true ∧
    (after (.unmap 0 0 4096) s).readNum 0x4000 8 = 0x200047 := by decide +kernel
/-- LAUNCH is after a release at `.pod`: a dirty line of the RDC goes home. -/
theorem test_launch_release :
    let line : CacheLine := ⟨2, 0, 0, (2 ^ 38 + 0x100) / 128, false, 0, none, 15, 3⟩
    let t := after (.launch (F 6 10 0 0 1)) { launcher with caches := [line] }
    (t.caches.filter fun x => x.level == 2 && x.dirty != 0).length = 0 := by decide +kernel

/-! ## The step, the invariants and the encodings -/

/-- The step from a state issues an instruction of a group, with no obstacle. -/
def issues (s : State) : Bool :=
  match s.settle.choose with
  | (some (.group g), u) =>
    let v0 := (u.checkout g.blk g.warp { Issue.idle with lanes := g.mask, pc := g.pc }).offer
    match v0.ctx? v0.blk.ctx with
    | some c =>
      let v := (v0.noteIssue g v0.blk.core).noteFetch g c
      match v.fetch c v.blk g.pc with
      | .word w len => match decodeWord w with
        | .ok i _ =>
          let v1 : State := { v with iss := issueOf g.mask g.pc w len }
          let j := v1.performed i
          let v2 : State := { v1 with wp := v.wp.noted v.turn j, iss := { v1.iss with named := touchesOf j } }
          (v.wp.thread (Mask.low g.mask)).owed.isNone && (v.breakAt c).isNone && !(v.armed v.blk 4) &&
            (v2.wp.spilledOf (if v2.enabled j then valuesOf j else [])).isEmpty
        | _ => false
      | _ => false
    | none => false
  | _ => false
/-- `exit` placed after reset. -/
def exiting : State := State.reset.withFetchWord 64 0x1C01D
/-- R68: the step of a placed NOP issues it: the PC of every thread is past it. -/
theorem test_step : exiting.powered = true ∧ issues exiting = true ∧
    (match step (State.reset.withFetchWord 64 0x1C005) with
      | .next t => t.blocks.map fun b => b.warps.map fun w => ((w.thread 0).pc, (w.thread 127).pc)
      | _ => []) = [[(8, 8)]] := by decide +kernel
/-- The first event of the agenda is chosen; with power off nothing but device reset is performed. -/
theorem test_step_event :
    (match ({ idle with agenda := [.placementDecision] }).settle.choose with | (some (.head .placementDecision []), _) => true | _ => false) = true ∧
    (match step { idle with dies := idle.dies.map fun d => { d with powered := false } } with | .fault .powerRemoved => true | _ => false) = true ∧
    (match step { idle with dies := idle.dies.map fun d => { d with powered := false }, agenda := [.placementDecision, .deviceReset ⟨false, [], [], 0, some 0, []⟩] } with
      | .next t => t.powered
      | _ => false) = true := by decide +kernel
/-- An event that is due: nothing waits, and a port has sent nothing for 1 µs. -/
theorem test_step_due :
    (match (portAt Port.reset 2250).settle.choose with | (some (.event _), _) => true | _ => false) = true := by decide +kernel
theorem test_reset_inv : State.reset.MemInv ∧ exiting.MemInv := by unfold State.MemInv; decide +kernel
/-- R68-R75: a well-formed instruction of each length, and a word that decodes. -/
theorem test_round_trip :
    (Instr.iadd (F 6 10 20 0 0)).wellFormed = true ∧ (encode (.iadd (F 6 10 20 0 0))).map Prod.snd = some 8 ∧
    (encode (.iadd (FI 6 10 0 0 5))).map Prod.snd = some 12 ∧ (Instr.dload { F 6 0 0 0 1 with x := .ext 0x1000 }).wellFormed = true ∧
    (encode (.dload { F 6 0 0 0 1 with x := .ext 0x1000 })).map Prod.snd = some 16 ∧ (encode (.dx 3 0x40)).map Prod.snd = some 4 ∧
    (match decodeWord 0x00014150A029C071 with | .ok _ 8 => true | _ => false) = true := by decide +kernel

end Sys2Proof.Tests
end

section
/-! PROOFS. Memory and scratch: a read after a write (R4, R229, R230). -/
namespace Sys2Proof.Machine

/-- A write to a scratch window changes its bytes as one write of consecutive keys. -/
@[simp] theorem Block.writeScr_scratch (b : Block) (off : Nat) (bs : List Byte) :
    (b.writeScr off bs).scratch = Tab.setMany 0 b.scratch off bs := rfl
/-- What a write to a scratch window leaves to read (R230); the window must be canonical, as memory must in
`State.readPa_writePa`. -/
theorem Block.get_scratch_writeScr {b : Block} (h : Tab.wf (0 : Byte) b.scratch = true) (off a : Nat) (bs : List Byte) :
    Tab.get 0 (b.writeScr off bs).scratch a =
      if off ≤ a ∧ a < off + bs.length then bs.getD (a - off) 0 else Tab.get 0 b.scratch a := by
  rw [Block.writeScr_scratch, Tab.get_setMany h]

/-- Settles O24: memory and a scratch window are sparse tables in canonical form, and either write sets consecutive keys
of one. -/
theorem writeThenRead : Obligations.WriteThenRead := by
  unfold Obligations.WriteThenRead
  constructor
  case left =>
    intro s pa a bs canonical
    exact State.readPa_writePa canonical pa a bs
  case right =>
    intro b off a bs canonical
    exact Block.get_scratch_writeScr canonical off a bs

end Sys2Proof.Machine
end

section
/-! PROOFS. The events of launch queues, deliveries, priority and placement (R29, R33, R38-R41, R57, R58): what each does to its context
in the case its rule speaks of, and the statement GraphEvents. -/
namespace Sys2Proof.Machine

/-! ## Queues of a context -/

theorem Ctx.queue?_id {c : Ctx} {q : Nat} {x : LaunchQ} (h : c.queue? q = some x) : x.id = q := find?_name h
/-- The queue that was changed, as it is then found. -/
theorem State.queue_modQueue_same {s : State} {ctx q : Nat} {x : LaunchQ} (f : LaunchQ → LaunchQ) (hf : ∀ x, (f x).id = x.id)
    (hx : ((s.ctx? ctx).bind fun y => y.queue? q) = some x) :
    (((s.modQueue ctx q f).ctx? ctx).bind fun y => y.queue? q) = some (f x) := by
  rw [State.queue_modQueue s ctx q ctx q f hf, if_pos ⟨rfl, rfl⟩, hx, Option.map_some]
/-- Stores of the device change no context. -/
theorem Writes.ctx? {s t : State} (h : Writes s t) (ctx : Nat) : t.ctx? ctx = s.ctx? ctx := by
  rw [h]; rfl
theorem State.storeNum_writes (s : State) (c : Ctx) (va x n : Nat) : Writes s (s.storeNum c va x n) := s.storeVa_writes c va _
/-- Changing the event ring of a context leaves its queues. -/
theorem State.queue_modRing (s : State) (id ctx q : Nat) (g : EventRing → EventRing) :
    (((s.modCtx id fun c => { c with ring := g c.ring }).ctx? ctx).bind fun y => y.queue? q) =
      (s.ctx? ctx).bind fun y => y.queue? q := by
  rw [State.ctx?_modCtx s id ctx (fun c => { c with ring := g c.ring }) fun _ => rfl]
  split
  · cases s.ctx? ctx <;> rfl
  · rfl

/-! ## Nodes of a context -/

/-- A change of a node that is found. -/
theorem State.node?_modNode_same {s : State} {ctx key : Nat} {n : Node} (f : Node → Node) (hf : ∀ n, (f n).key = n.key)
    (hn : s.node? ctx key = some n) : (s.modNode ctx key f).node? ctx key = some (f n) := by
  rw [State.node?_modNode s ctx key ctx key f hf, if_pos ⟨rfl, rfl⟩, hn, Option.map_some]

/-! ## Events posted -/

theorem State.ringWrite_eq {s t : State} {c : Ctx} {e : Event} (h : s.ringWrite c e = some t) :
    ∃ (u : State) (g : EventRing → EventRing), Writes s u ∧ t = u.modCtx c.id fun c => { c with ring := g c.ring } := by
  simp only [State.ringWrite, Option.ite_none_right_eq_some, Option.some.injEq] at h
  obtain ⟨-, rfl⟩ := h
  exact ⟨_, fun r => { r with tail := (c.ring.tail + 1) % 2 ^ 32 },
    (s.storeVa_writes c _ _).trans (State.storeNum_writes _ c _ _ _), rfl⟩
/-- Posting an event writes memory and changes the ring of one context (R371), whether the ring has room, the event is held or
it is lost. -/
theorem State.post_eq (s : State) (ctx code nodeid : Nat) (a b : DWord) (die : Nat) : s.post ctx code nodeid a b die = s ∨
    ∃ (u : State) (id : Nat) (g : EventRing → EventRing), Writes s u ∧ s.post ctx code nodeid a b die = u.modCtx id fun c => { c with ring := g c.ring } := by
  unfold State.post
  split
  · exact .inl rfl
  next c _ =>
    refine .inr ?_
    dsimp only
    split
    next t ht =>
      rw [Option.ite_none_right_eq_some] at ht
      obtain ⟨u, g, hw, rfl⟩ := State.ringWrite_eq ht.2
      exact ⟨u, c.id, g, hw, rfl⟩
    · split
      · exact ⟨s, ctx, fun r => { r with held := r.held ++ [⟨code, nodeid, a, b, BitVec.ofNat 64 (s.die die).clk⟩] }, .refl s, rfl⟩
      · exact ⟨_, ctx, fun r => { r with lost := (c.ring.lost + 1) % 2 ^ 32 }, s.storeNum_writes c _ _ _, rfl⟩
theorem State.post_queue (s : State) (ctx code nodeid : Nat) (a b : DWord) (die i q : Nat) :
    (((s.post ctx code nodeid a b die).ctx? i).bind fun y => y.queue? q) = (s.ctx? i).bind fun y => y.queue? q := by
  obtain h | ⟨u, id, g, hw, h⟩ := s.post_eq ctx code nodeid a b die
  · rw [h]
  · rw [h, State.queue_modRing, hw.ctx?]

/-! ## TAIL read again (R29) -/

/-- TAIL as it stands in the watched line of a queue. -/
def State.tailOf (s : State) (c : Ctx) (x : LaunchQ) : Nat := ofBytes (s.loadVa c x.watch 4)
/-- A TAIL that has moved, by no more than the ring holds, is kept, and the record at HEAD is to be taken. -/
theorem exec_tailReread_moved {s : State} {ctx q : Nat} {c : Ctx} {x : LaunchQ} (hc : s.ctx? ctx = some c) (hx : c.queue? q = some x)
    (running : c.state = .running) (moved : s.tailOf c x ≠ x.tail)
    (near : (s.tailOf c x + 2 ^ 32 - x.head) % 2 ^ 32 ≤ 2 ^ x.log2) :
    exec (.tailReread (.launch ctx q)) s =
      .next ((s.modQueue ctx q fun y => { y with tail := s.tailOf c x }).push (.recordTake ctx q)) := by
  have reread : s.rereadLaunch c x = (s.modQueue c.id x.id fun y => { y with tail := s.tailOf c x }).push (.recordTake c.id x.id) := by
    unfold State.tailOf at *
    simp only [State.rereadLaunch, running, moved, Nat.not_lt.mpr near, bne_self_eq_false, decide_false, Bool.or_self,
      Bool.false_eq_true, Bool.not_false, if_false, if_true]
  change execTailReread (.launch ctx q) s = _
  simp only [execTailReread, hc, hx, reread, State.ctx?_id hc, Ctx.queue?_id hx]

/-! ## The record at HEAD taken (R33) -/

/-- The record at HEAD of a queue: no bytes where it cannot be read. -/
def State.recordAt (s : State) (c : Ctx) (x : LaunchQ) : List Byte :=
  let va := x.base + x.head % 2 ^ x.log2 * 128
  if s.canRead c va 128 then s.loadVa c va 128 else []
/-- HEAD of a queue moved past a record; another take follows while records are left. -/
def State.headMoved (s : State) (ctx q : Nat) (c : Ctx) (x : LaunchQ) : State :=
  let head := (x.head + 1) % 2 ^ 32
  let s1 := (s.modQueue ctx q fun y => { y with head := head }).storeNum c (x.watch + 8) head 4
  if head = x.tail then s1 else s1.push (.recordTake ctx q)
theorem State.headMoved_queue {s : State} {ctx q : Nat} {c : Ctx} {x : LaunchQ} (hc : s.ctx? ctx = some c) (hx : c.queue? q = some x) :
    (((s.headMoved ctx q c x).ctx? ctx).bind fun y => y.queue? q) = some { x with head := (x.head + 1) % 2 ^ 32 } := by
  have ctx_eq : (s.headMoved ctx q c x).ctx? ctx = (s.modQueue ctx q fun y => { y with head := (x.head + 1) % 2 ^ 32 }).ctx? ctx := by
    unfold State.headMoved
    dsimp only
    split
    · exact (State.storeNum_writes _ c _ _ _).ctx? ctx
    · exact (State.storeNum_writes _ c _ _ _).ctx? ctx
  rw [ctx_eq]
  exact State.queue_modQueue_same _ (fun _ => rfl) (by rw [hc]; exact hx)
/-- The take of a record that nothing holds back: HEAD moves, and the record is taken when step 1 of R33 finds it good; else it is
counted in the queue and posted as an event. -/
theorem exec_recordTake_taken {s : State} {ctx q : Nat} {c : Ctx} {x : LaunchQ} (hc : s.ctx? ctx = some c) (hx : c.queue? q = some x)
    (running : c.state = .running) (sound : x.error = false) (more : x.head ≠ x.tail) (room : c.tableFull = false)
    (attic : (c.judgedRetained (Record.of (s.recordAt c x)) && c.atticFull) = false) :
    exec (.recordTake ctx q) s = .next (
      if recordGood (s.recordAt c x) (x.head % 2 ^ 16) then
        (s.headMoved ctx q c x).takeRecord ctx (s.recordAt c x) (some q) x.wdcfg 0
      else ((s.headMoved ctx q c x).modQueue ctx q fun y => { y with bad := y.bad + 1 }).post ctx 0x02 0 (BitVec.ofNat 64 q)
        (BitVec.ofNat 64 x.head) 0) := by
  change execRecordTake ctx q s = _
  unfold State.recordAt at *
  simp only [execRecordTake, State.headMoved, hc, hx, running, sound, more, room, attic, bne_self_eq_false, Bool.or_self,
    decide_false, Bool.false_eq_true, if_false, bne_iff_ne, ite_not]

/-! ## Deliveries (R38) -/

/-- A waiting node after one delivery. -/
def Node.delivered (n : Node) (fail : Bool) : Node :=
  { n with count := n.count - 1, failures := n.failures + if fail then 1 else 0 }
/-- A node with deliveries left to wait for waits on. -/
theorem State.testCount_waits {s : State} {ctx key : Nat} {n : Node} (hn : s.node? ctx key = some n) (left : n.count ≠ 0) :
    s.testCount ctx key = s := by
  simp [State.testCount, hn, left]
/-- A delivery that is not a waiting node's last one counts it down. -/
theorem State.makeDelivery_waiting {s : State} {c : Ctx} {d : Delivery} {n : Node} (named : c.named d.dest = some n)
    (hn : s.node? c.id n.key = some n) (waits : n.state = .waiting) (left : 1 < n.count) :
    s.makeDelivery c d = s.modNode c.id n.key fun n => n.delivered d.fail := by
  have after : (s.modNode c.id n.key fun n => n.delivered d.fail).node? c.id n.key = some (n.delivered d.fail) :=
    State.node?_modNode_same _ (fun _ => rfl) hn
  have : (n.delivered d.fail).count ≠ 0 := Nat.sub_ne_zero_of_lt left
  simp only [State.makeDelivery, named, if_pos waits]
  exact State.testCount_waits after this
/-- The delivery `d` is no longer to be made. -/
def State.undelay (s : State) (ctx : Nat) (d : Delivery) : State := s.modCtx ctx fun c => { c with delayed := c.delayed.erase d }
theorem State.node?_undelay (s : State) (ctx i key : Nat) (d : Delivery) : (s.undelay ctx d).node? i key = s.node? i key := by
  rw [State.undelay, State.node?, State.ctx?_modCtx s ctx i (fun c => { c with delayed := c.delayed.erase d }) fun _ => rfl, State.node?]
  split
  · cases s.ctx? i <;> rfl
  · rfl
theorem exec_delayedDelivery_waiting {s : State} {ctx : Nat} {c : Ctx} {d : Delivery} {n : Node} (hc : s.ctx? ctx = some c)
    (found : s.nextDelivery c = some d) (dest : s.destOf c d ≠ 0) (named : c.named (s.destOf c d) = some n)
    (hn : s.node? ctx n.key = some n) (waits : n.state = .waiting) (left : 1 < n.count) :
    exec (.delayedDelivery ctx) s =
      .next (if c.delayed.length > 1 then
          ((s.undelay ctx d).modNode ctx n.key fun n => n.delivered d.fail).push (.delayedDelivery ctx)
        else (s.undelay ctx d).modNode ctx n.key fun n => n.delivered d.fail) := by
  have id_eq := State.ctx?_id hc
  have made : (s.undelay ctx d).makeDelivery c { d with dest := s.destOf c d } =
      (s.undelay ctx d).modNode ctx n.key fun n => n.delivered d.fail := by
    subst id_eq
    exact State.makeDelivery_waiting named (by rw [State.node?_undelay, hn]) waits left
  change execDelayedDelivery ctx s = _
  rw [State.undelay] at made ⊢
  simp only [execDelayedDelivery, hc, found, if_neg dest, made]

/-! ## Ageing and starvation (R41, R58) -/

theorem Node.key_age_ (n : Node) (now : Nat) : (n.age_ now).key = n.key := by
  unfold Node.age_; split <;> rfl
theorem Node.age_eq_of_offered {n : Node} (now : Nat) (h : n.state = .ready ∨ n.state = .running) :
    n.age_ now = { n with aged := min 7 ((now - n.readyClk) / 2250000) } := by
  have : (decide (n.state = .ready) || decide (n.state = .running)) = true := by simpa using h
  rw [Node.age_, if_pos this, Config.cyclesPerMs]
/-- What BLOCK_STARVED makes of a node. -/
def Ctx.starve (c : Ctx) (now : Nat) (n : Node) : Node := if c.starves n now then { n with starved := true } else n
theorem Ctx.starve_key (c : Ctx) (now : Nat) (n : Node) : (c.starve now n).key = n.key := by
  unfold Ctx.starve; split <;> rfl
/-- A node whose block has been passed over for 1 ms is starved, whether it was before or becomes so now. -/
theorem Ctx.starve_passed {c : Ctx} {now : Nat} {n : Node} (offered : n.state = .ready ∨ n.state = .running) (passed : n.passed = true)
    (waits : c.hasNext n = true) (since : n.nextClk + 2250000 ≤ now) : c.starve now n = { n with starved := true } := by
  unfold Ctx.starve
  cases starved : n.starved
  case false =>
    rw [if_pos]
    simp [Ctx.starves, Config.cyclesPerMs, offered, passed, waits, since, starved]
  case true =>
    rw [if_neg (by simp [Ctx.starves, starved]), ← starved]
theorem exec_blockStarved {s : State} {ctx : Nat} {c : Ctx} (hc : s.ctx? ctx = some c) (key : Nat) :
    exec (.blockStarved ctx key) s = .next (s.modNode ctx key (c.starve s.now)) := by
  change execBlockStarved ctx key s = _
  simp only [execBlockStarved, hc]
  rfl

/-! ## Placement (R57) -/

/-- Every node's age brought up to date, as a placement decision does first. -/
def State.aged (s : State) : State :=
  { s with ctxs := s.ctxs.map fun c => { c with nodes := c.nodes.map fun n => n.age_ s.now } }
theorem exec_placementDecision {s : State} (fits : s.aged.unplaceable = []) : exec .placementDecision s =
    .next ((s.aged.alternate (s.aged.tryOrder.filterMap s.aged.placing)).elim s.aged s.aged.place) := by
  change execPlacementDecision s = _
  unfold State.aged at *
  simp only [execPlacementDecision, fits, List.foldl_nil]
  split
  next nothing => rw [nothing]; rfl
  next p chosen => rw [chosen]; rfl
/-- The placement that is made is one of those that can be made. -/
theorem State.mem_of_alternate {s : State} {ps : List Placing} {p : Placing} (h : s.alternate ps = some p) : p ∈ ps := by
  cases ps with
  | nil => cases h
  | cons first rest =>
    dsimp only [State.alternate] at h
    split at h
    next q hq =>
      cases h
      exact List.mem_cons_of_mem _ (List.mem_of_find?_eq_some hq)
    next => cases h; exact List.mem_cons_self
/-- A placement that can be made is one of a context that there is. -/
theorem State.ctx?_of_placing {s : State} {x : Nat × Node} {p : Placing} (h : s.placing x = some p) : ∃ c, s.ctx? p.ctx = some c := by
  unfold State.placing at h
  split at h
  · cases h
  next c hc =>
    split at h
    · cases h
    · split at h
      · cases h
      · obtain ⟨cores, -, rfl⟩ := Option.map_eq_some_iff.mp h
        exact ⟨c, hc⟩
/-- A placement is remembered by the priority and the order of its node, and by its context on each of its cores; and another
decision follows. -/
theorem State.place_remembers {s : State} {p : Placing} {c : Ctx} (hc : s.ctx? p.ctx = some c) :
    (p.node.priority, p.node.readyAt) ∈ (s.place p).lastNode ∧ (∀ k ∈ p.cores, (k, p.ctx) ∈ (s.place p).lastPlaced) ∧
    .placementDecision ∈ (s.place p).agenda := by
  simp only [State.place, hc, State.push]
  refine ⟨List.mem_append_right _ List.mem_cons_self, fun k hk => ?_, List.mem_append_right _ List.mem_cons_self⟩
  exact List.mem_append_right _ (List.mem_map_of_mem hk)

/-! ## The clauses of the statement -/

theorem completes_tailReread {s : State} {ctx q : Nat} {c : Ctx} {x : LaunchQ} (hc : s.ctx? ctx = some c) (hx : c.queue? q = some x)
    (running : c.state = .running) (moved : s.tailOf c x ≠ x.tail)
    (near : (s.tailOf c x + 2 ^ 32 - x.head) % 2 ^ 32 ≤ 2 ^ x.log2) :
    Completes (.tailReread (.launch ctx q)) s fun t =>
      ((t.ctx? ctx).bind fun y => y.queue? q) = some { x with tail := s.tailOf c x } ∧
      t = { s with ctxs := t.ctxs, agenda := s.agenda ++ [.recordTake ctx q] } := by
  refine ⟨_, exec_tailReread_moved hc hx running moved near, ?_, rfl⟩
  rw [State.push_ctx?]
  exact State.queue_modQueue_same _ (fun _ => rfl) (by rw [hc]; exact hx)
theorem completes_recordTake_bad {s : State} {ctx q : Nat} {c : Ctx} {x : LaunchQ} (hc : s.ctx? ctx = some c) (hx : c.queue? q = some x)
    (running : c.state = .running) (sound : x.error = false) (more : x.head ≠ x.tail) (room : c.tableFull = false)
    (attic : (c.judgedRetained (Record.of (s.recordAt c x)) && c.atticFull) = false)
    (bad : recordGood (s.recordAt c x) (x.head % 2 ^ 16) = false) :
    Completes (.recordTake ctx q) s fun t =>
      ((t.ctx? ctx).bind fun y => y.queue? q) = some { x with head := (x.head + 1) % 2 ^ 32, bad := x.bad + 1 } := by
  refine ⟨_, exec_recordTake_taken hc hx running sound more room attic, ?_⟩
  simp only [bad, Bool.false_eq_true, if_false, State.post_queue]
  exact State.queue_modQueue_same (fun y => { y with bad := y.bad + 1 }) (fun _ => rfl) (State.headMoved_queue hc hx)
theorem completes_delayedDelivery {s : State} {ctx : Nat} {c : Ctx} {d : Delivery} {n : Node} (hc : s.ctx? ctx = some c)
    (found : s.nextDelivery c = some d) (dest : s.destOf c d ≠ 0) (named : c.named (s.destOf c d) = some n)
    (hn : s.node? ctx n.key = some n) (waits : n.state = .waiting) (left : 1 < n.count) :
    Completes (.delayedDelivery ctx) s fun t => t.node? ctx n.key = some (n.delivered d.fail) ∧
      (t.ctx? ctx).map Ctx.delayed = some (c.delayed.erase d) ∧ t = { s with ctxs := t.ctxs, agenda := t.agenda } := by
  have counted : ((s.undelay ctx d).modNode ctx n.key fun n => n.delivered d.fail).node? ctx n.key = some (n.delivered d.fail) :=
    State.node?_modNode_same _ (fun _ => rfl) (by rw [State.node?_undelay, hn])
  have erased : (((s.undelay ctx d).modNode ctx n.key fun n => n.delivered d.fail).ctx? ctx).map Ctx.delayed =
      some (c.delayed.erase d) := by
    rw [State.ctx?_modNode, if_pos rfl, State.undelay,
      State.ctx?_modCtx s ctx ctx (fun c => { c with delayed := c.delayed.erase d }) fun _ => rfl, if_pos rfl, hc]
    rfl
  refine ⟨_, exec_delayedDelivery_waiting hc found dest named hn waits left, ?_⟩
  split
  · exact ⟨counted, erased, rfl⟩
  · exact ⟨counted, erased, rfl⟩
theorem completes_priorityAging {s : State} {ctx key : Nat} {n : Node} (hn : s.node? ctx key = some n)
    (offered : n.state = .ready ∨ n.state = .running) :
    Completes (.priorityAging ctx key) s fun t =>
      t.node? ctx key = some { n with aged := min 7 ((s.now - n.readyClk) / 2250000) } ∧
      t = { s with ctxs := t.ctxs, agenda := s.agenda ++ [.placementDecision] } := by
  refine ⟨(s.modNode ctx key fun n => n.age_ s.now).push .placementDecision, rfl, ?_, rfl⟩
  rw [State.push_node?, State.node?_modNode_same _ (fun n => n.key_age_ s.now) hn, Node.age_eq_of_offered s.now offered]
theorem completes_blockStarved {s : State} {ctx key : Nat} {c : Ctx} {n : Node} (hc : s.ctx? ctx = some c)
    (hn : s.node? ctx key = some n) (offered : n.state = .ready ∨ n.state = .running) (passed : n.passed = true)
    (waits : c.hasNext n = true) (since : n.nextClk + 2250000 ≤ s.now) :
    Completes (.blockStarved ctx key) s fun t =>
      t.node? ctx key = some { n with starved := true } ∧ t = { s with ctxs := t.ctxs } := by
  refine ⟨_, exec_blockStarved hc key, ?_, rfl⟩
  rw [State.node?_modNode_same _ (c.starve_key s.now) hn, Ctx.starve_passed offered passed waits since]
theorem completes_placementDecision_idle {s : State} (fits : s.aged.unplaceable = [])
    (none_fits : s.aged.tryOrder.filterMap s.aged.placing = []) : Completes .placementDecision s fun t => t = s.aged := by
  refine ⟨_, exec_placementDecision fits, ?_⟩
  rw [none_fits]; rfl
theorem completes_placementDecision {s : State} {p : Placing} (fits : s.aged.unplaceable = [])
    (chosen : s.aged.alternate (s.aged.tryOrder.filterMap s.aged.placing) = some p) :
    Completes .placementDecision s fun t => (p.node.priority, p.node.readyAt) ∈ t.lastNode ∧
      (∀ k ∈ p.cores, (k, p.ctx) ∈ t.lastPlaced) ∧ .placementDecision ∈ t.agenda := by
  obtain ⟨x, -, placing⟩ := List.mem_filterMap.mp (State.mem_of_alternate chosen)
  obtain ⟨c, hc⟩ := State.ctx?_of_placing placing
  refine ⟨_, exec_placementDecision fits, ?_⟩
  rw [chosen]
  exact State.place_remembers hc

/-- Settles O47: each event by the lemma for its clause. Die 0 takes the records of queues (log 158), and TAIL of a watched line that
does not translate reads as 0 (log 157): the model's choices. -/
theorem graphEvents : Obligations.GraphEvents := by
  unfold Obligations.GraphEvents
  intro s ctx c hc
  refine ⟨fun q x hx running => ⟨?tail, fun sound more room attic => ⟨?good, ?bad⟩⟩, ?delivery, ?node, ?placement⟩
  case tail => exact completes_tailReread hc hx running
  case good =>
    intro good
    exact ⟨_, exec_recordTake_taken hc hx running sound more room attic, if_pos good⟩
  case bad => exact completes_recordTake_bad hc hx running sound more room attic
  case delivery =>
    intro d n found dest named hn waits left
    exact completes_delayedDelivery hc found dest named hn waits left
  case node =>
    intro key n hn offered
    exact ⟨completes_priorityAging hn offered, completes_blockStarved hc hn offered⟩
  case placement =>
    intro s0 ps fits
    exact ⟨completes_placementDecision_idle fits, fun p chosen => completes_placementDecision fits chosen⟩

end Sys2Proof.Machine
end

section
/-! PROOFS. Stores to scratch windows (R66, R229, R230): what a write to a window does to the blocks of the state while no thread waits
at a barrier, what several writes in a row do, and the statement ScratchStores. -/
namespace Sys2Proof.Machine

/-! ## Blocks after a change of one -/

/-- A block with other warps. -/
def Block.withWarps (b : Block) (ws : List Warp) : Block := { b with warps := ws }
section
variable (s : State) (id : Nat) {f : Block → Block} (hf : ∀ b, (f b).id = b.id)
  (hw : ∀ b ws, f (b.withWarps ws) = (f b).withWarps ws)

include hf in
theorem State.blk_id_modBlk : (s.modBlk id f).blk.id = s.blk.id := by
  unfold State.modBlk
  split
  · exact hf s.blk
  · rfl
include hw in
/-- A change of blocks that leaves warps alone, as the issuing block then stands. -/
theorem State.blkNow_modBlk : (s.modBlk id f).blkNow = if id = s.blk.id then f s.blkNow else s.blkNow := by
  have same : f s.blk = (f s.blk).withWarps s.blk.warps := hw s.blk s.blk.warps
  have warps : (f s.blk).warps = s.blk.warps := (congrArg Block.warps same).trans rfl
  unfold State.modBlk
  split
  · refine Eq.trans ?_ (hw s.blk _).symm
    rw [← warps]
    rfl
  · rfl
include hf hw in
/-- A change of blocks by name that keeps names and leaves warps alone changes the blocks as they stand, the issuing one among them. -/
theorem State.blocksNow_modBlk : (s.modBlk id f).blocksNow = s.blocksNow.map fun b => if b.id = id then f b else b := by
  rw [State.blocksNow, s.blk_id_modBlk id hf, s.blkNow_modBlk id hw, State.blocksNow, List.map_map]
  have name : s.blkNow.id = s.blk.id := rfl
  by_cases own : id = s.blk.id
  · have blocks : (s.modBlk id f).blocks = s.blocks := by rw [State.modBlk, if_pos own]
    rw [blocks]
    refine List.map_congr_left fun b _ => ?_
    by_cases issues : b.id = s.blk.id
    · simp [issues, own, name]
    · simp [issues, own]
  · have blocks : (s.modBlk id f).blocks = s.blocks.map fun b => if b.id = id then f b else b := by rw [State.modBlk, if_neg own]
    rw [blocks, List.map_map]
    refine List.map_congr_left fun b _ => ?_
    by_cases named : b.id = id
    · simp [named, own, hf]
    · by_cases issues : b.id = s.blk.id
      · simp [issues, own, Ne.symm own, name]
      · simp [named, issues]
include hf hw in
/-- A block after such a change, be either of them the issuing one. -/
theorem State.block?_modBlk_frame (q : Nat) : (s.modBlk id f).block? q = if q = id then (s.block? q).map f else s.block? q := by
  rw [State.block?, s.blocksNow_modBlk id hf hw]
  exact find?_named Block.id s.blocksNow id q f hf
end

/-! ## One write to a window -/

/-- A block with bytes written to its scratch window, and what an engine read may still miss noted. -/
def Block.storeScr (b : Block) (turn off : Nat) (bs : List Byte) : Block := (b.markLate turn off bs.length).writeScr off bs
/-- No thread waits at a barrier of any block. -/
def State.NoWaits (s : State) : Prop := ∀ b ∈ s.blocksNow, b.pbwaits = []
theorem State.NoWaits.block? {s : State} (h : s.NoWaits) {id : Nat} {b : Block} (hb : s.block? id = some b) : b.pbwaits = [] :=
  h b (List.mem_of_find?_eq_some hb)
/-- With no thread waiting, a write to a window changes its block alone. -/
theorem State.writeScr_eq {s : State} (h : s.NoWaits) (id off : Nat) (bs : List Byte) :
    s.writeScr id off bs = s.modBlk id fun b => b.storeScr s.turn off bs := by
  have waits : ((s.block? id).map fun b => b.pbwaits.map PbWait.off).getD [] = [] := by
    cases hb : s.block? id with
    | none => rfl
    | some b => simp [h.block? hb]
  simp only [State.writeScr, waits, List.filter_nil, List.foldl_nil]
  rfl
theorem State.blocksNow_writeScr {s : State} (h : s.NoWaits) (id off : Nat) (bs : List Byte) :
    (s.writeScr id off bs).blocksNow = s.blocksNow.map fun b => if b.id = id then b.storeScr s.turn off bs else b := by
  rw [State.writeScr_eq h]
  exact s.blocksNow_modBlk (f := fun b => b.storeScr s.turn off bs) id (fun _ => rfl) fun _ _ => rfl
theorem State.block?_writeScr {s : State} (h : s.NoWaits) (id off q : Nat) (bs : List Byte) :
    (s.writeScr id off bs).block? q = if q = id then (s.block? q).map fun b => b.storeScr s.turn off bs else s.block? q := by
  rw [State.writeScr_eq h]
  exact s.block?_modBlk_frame (f := fun b => b.storeScr s.turn off bs) id (fun _ => rfl) (fun _ _ => rfl) q
theorem State.NoWaits.writeScr {s : State} (h : s.NoWaits) (id off : Nat) (bs : List Byte) : (s.writeScr id off bs).NoWaits := by
  intro b hb
  rw [State.blocksNow_writeScr h] at hb
  obtain ⟨b, mem, rfl⟩ := List.mem_map.mp hb
  split
  · exact h b mem
  · exact h b mem

/-! ## Writes to windows, one for each of some lanes -/

section
variable {s : State} (off : Nat → Nat) (bs : Nat → List Byte) (ls : List Nat)

/-- What engine reads may still miss has no part in the bytes written. -/
theorem Block.foldl_writeScr_late (b : Block) (late : Tab (List Late)) (settled : Nat) :
    ls.foldl (fun b l => b.writeScr (off l) (bs l)) { b with scrLate := late, scrSettled := settled } =
      { ls.foldl (fun b l => b.writeScr (off l) (bs l)) b with scrLate := late, scrSettled := settled } := by
  induction ls generalizing b with
  | nil => rfl
  | cons l ls ih => exact ih (b.writeScr (off l) (bs l))
/-- Writes to the window of the issuing block. -/
theorem State.foldl_writeScr_own (h : s.NoWaits) : ∃ late settled,
    ls.foldl (fun t l => t.writeScr s.blk.id (off l) (bs l)) s =
      { s with blk := { ls.foldl (fun b l => b.writeScr (off l) (bs l)) s.blk with scrLate := late, scrSettled := settled } } := by
  induction ls generalizing s with
  | nil => exact ⟨s.blk.scrLate, s.blk.scrSettled, rfl⟩
  | cons l ls ih =>
    have first : s.writeScr s.blk.id (off l) (bs l) = { s with blk := s.blk.storeScr s.turn (off l) (bs l) } := by
      rw [State.writeScr_eq h, State.modBlk, if_pos rfl]
    obtain ⟨late, settled, rest⟩ := ih (h.writeScr s.blk.id (off l) (bs l))
    rw [first] at rest
    refine ⟨late, settled, ?_⟩
    rw [List.foldl_cons, List.foldl_cons, first]
    refine rest.trans ?_
    exact congrArg (fun b : Block => { s with blk := { b with scrLate := late, scrSettled := settled } })
      (Block.foldl_writeScr_late off bs ls (s.blk.writeScr (off l) (bs l)) _ _)
variable (id : Nat → Nat)
/-- Writes to windows change blocks, and nothing else. -/
theorem State.foldl_writeScr_frame (h : s.NoWaits) : ∃ blk blocks,
    ls.foldl (fun t l => t.writeScr (id l) (off l) (bs l)) s = { s with blk := blk, blocks := blocks } := by
  induction ls generalizing s with
  | nil => exact ⟨s.blk, s.blocks, rfl⟩
  | cons l ls ih =>
    have first : ∃ blk blocks, s.writeScr (id l) (off l) (bs l) = { s with blk := blk, blocks := blocks } := by
      rw [State.writeScr_eq h, State.modBlk]
      split
      · exact ⟨_, s.blocks, rfl⟩
      · exact ⟨s.blk, _, rfl⟩
    obtain ⟨blk, blocks, first⟩ := first
    obtain ⟨blk', blocks', rest⟩ := ih (h.writeScr (id l) (off l) (bs l))
    exact ⟨blk', blocks', by rw [List.foldl_cons, rest, first]⟩
/-- The window of each block takes the writes that name it. -/
theorem State.scratch_foldl_writeScr (h : s.NoWaits) (q : Nat) :
    ((ls.foldl (fun t l => t.writeScr (id l) (off l) (bs l)) s).block? q).map Block.scratch =
      (s.block? q).map fun y => ((ls.filter fun l => id l = q).foldl (fun b l => b.writeScr (off l) (bs l)) y).scratch := by
  induction ls generalizing s with
  | nil => rfl
  | cons l ls ih =>
    rw [List.foldl_cons, ih (h.writeScr (id l) (off l) (bs l)), State.block?_writeScr h]
    by_cases named : id l = q
    · rw [if_pos named.symm, List.filter_cons_of_pos (by simpa using named), Option.map_map]
      refine congrArg (fun g => (s.block? q).map g) (funext fun y => ?_)
      exact (congrArg Block.scratch (Block.foldl_writeScr_late off bs _ (y.writeScr (off l) (bs l)) _ _)).trans rfl
    · rw [if_neg (Ne.symm named), List.filter_cons_of_neg (by simpa using named)]
end

/-! ## An access every lane of which is performed -/

theorem causesOf_fine {en : Mask} {g : Nat → Cause} (fine : ∀ l, l < 128 → Mask.has en l = true → g l = .fine) {l : Nat}
    (hl : l < 128) : (causesOf en g).at l = .fine := by
  rw [causesOf, Lanes.at_of _ _ hl]
  split
  next enabled => exact fine l hl enabled
  next => rfl
/-- When no lane has a cause to stop or park, the enabled lanes perform the access, and the group goes on. -/
theorem State.dealCauses_fine {s : State} {en : Mask} (kind : Nat) {cs : Lanes Cause} (k : State → Mask → State) (some : en ≠ 0)
    (fine : ∀ l, l < 128 → cs.at l = .fine) : s.dealCauses en kind cs k = (k s en).goOn := by
  have none_of (p : Cause → Bool) (hp : p .fine = false) : maskOf (fun l => p (cs.at l)) = 0 :=
    Mask.ext fun l hl => by rw [Mask.has_maskOf _ _ hl, fine l hl, hp]; simp [Mask.has]
  have whole : en &&& ~~~(0 : Mask) = en := BitVec.and_allOnes
  simp only [State.dealCauses, none_of Cause.stops rfl, none_of Cause.parks rfl, whole, some, bne_self_eq_false,
    Bool.false_eq_true, if_false, if_true]
/-- A group that stands whole at its instruction goes on whole. -/
theorem State.goOn_advances {s : State} (stands : ∀ l, l < 128 → Mask.has s.iss.lanes l = true →
    (s.wp.thread l).status = .eligible ∧ (s.wp.thread l).pc = s.iss.pc) : Advances s s.goOn := by
  have whole : (maskOf fun l => Mask.has s.iss.lanes l && (s.wp.thread l).status = .eligible && (s.wp.thread l).pc = s.iss.pc) =
      s.iss.lanes := by
    refine Mask.ext fun l hl => ?_
    rw [Mask.has_maskOf _ _ hl]
    cases issues : Mask.has s.iss.lanes l with
    | false => rfl
    | true => simp [stands l hl issues]
  have advances : s.goOn = s.advance := by rw [State.goOn, whole]; rfl
  rw [advances]
  exact s.advance_advances
theorem Mask.low_has {m : Mask} (h : m ≠ 0) : Mask.low m < 128 ∧ Mask.has m (Mask.low m) = true := by
  have mem : Mask.low m ∈ Mask.lanes m := by
    cases lanes : Mask.lanes m with
    | cons l ls => simp [Mask.low, lanes]
    | nil =>
      refine absurd (Mask.ext fun l hl => ?_) h
      cases has : Mask.has m l with
      | false => simp [Mask.has]
      | true => exact absurd (Mask.mem_lanes.mpr ⟨hl, has⟩) (by simp [lanes])
  exact Mask.mem_lanes.mp mem

/-! ## STS and STX -/

/-- A release changes caches alone. -/
theorem State.before_eq (s : State) (core ord : Nat) : ∃ caches, s.before core ord = { s with caches := caches } := by
  unfold State.before
  split
  · exact ⟨s.caches, rfl⟩
  · exact ⟨_, rfl⟩
/-- The lanes that store: the lowest alone when the operands are uniform (R229). -/
def State.storing (s : State) (f : Fields) (gang : Bool) : List Nat :=
  if allU ([s.wp.rv f.vb.toNat] ++ if gang then [s.rvC f] else []) && s.datumU (sizeOf f) f.va.toNat then [Mask.low (s.en f)]
  else Mask.lanes (s.en f)
theorem State.storing_own (s : State) (f : Fields) : s.storing f false =
    if (s.wp.rv f.vb.toNat).shape = 0 && true && s.datumU (sizeOf f) f.va.toNat then [Mask.low (s.en f)] else Mask.lanes (s.en f) := by
  simp [State.storing, allU]
theorem State.storing_gang (s : State) (f : Fields) : s.storing f true =
    if (s.wp.rv f.vb.toNat).shape = 0 && (s.wp.rv f.vc.toNat).shape = 0 && s.datumU (sizeOf f) f.va.toNat then [Mask.low (s.en f)]
    else Mask.lanes (s.en f) := by
  simp [State.storing, allU, State.rvC]
/-- A window after one lane's store. -/
def State.writeLane (s : State) (f : Fields) (b : Block) (l : Nat) : Block :=
  b.writeScr (s.offs f l) (s.storeBytes (sizeOf f) f.va.toNat l)
/-- The state after the stores of STS or STX, before the group goes on. -/
def State.scrStored (s : State) (f : Fields) (gang : Bool) : State :=
  (s.storing f gang).foldl (fun t l => t.writeScr (s.window f gang l).1.id (s.offs f l) (s.storeBytes (sizeOf f) f.va.toNat l))
    (s.before s.blk.core (ordOf f))
/-- Whether a lane's store to scratch is performed (R230). -/
def State.scrFine (s : State) (f : Fields) (gang : Bool) (l : Nat) : Prop :=
  (s.window f gang l).1.scrCause (s.window f gang l).2 (s.offs f l) (sizeBytes (sizeOf f)) (needOf f) false = .fine
theorem State.storeScr_fine {s : State} {f : Fields} {c : Ctx} {gang : Bool} (plain : Plain s f c)
    (fine : ∀ l, l < 128 → Mask.has (s.en f) l = true → s.scrFine f gang l) : s.storeScr f gang = (s.scrStored f gang).goOn := by
  obtain ⟨low, lowest⟩ := Mask.low_has plain.some
  have ready (k : State → State) : s.whenStored k = k s := by simp [State.whenStored, plain.single]
  simp only [State.storeScr, if_neg plain.some, ready, ite_self, State.lostFirst, plain.whole]
  refine State.dealCauses_fine 1 _ plain.some fun l hl => causesOf_fine (fun l hl enabled => ?_) hl
  generalize allU _ = uniform
  cases uniform with
  | true => exact fine _ low lowest
  | false => exact fine l hl enabled
/-- STS changes the scratch window of its block, but for caches that a release writes back. -/
theorem State.scrStored_own {s : State} (f : Fields) (idle : s.NoWaits) : ∃ caches late settled, s.scrStored f false =
    { s with caches := caches
             blk := { (s.storing f false).foldl (s.writeLane f) s.blk with scrLate := late, scrSettled := settled } } := by
  obtain ⟨caches, released⟩ := s.before_eq s.blk.core (ordOf f)
  unfold State.scrStored
  rw [released]
  exact ⟨caches, State.foldl_writeScr_own (s := { s with caches := caches }) _ _ _ idle⟩
/-- STX changes caches and blocks, and the scratch window of each block by the stores of the lanes whose partner it is. -/
theorem State.scrStored_gang {s : State} (f : Fields) (idle : s.NoWaits) :
    (∃ caches blk blocks, s.scrStored f true = { s with caches := caches, blk := blk, blocks := blocks }) ∧
    ∀ q, ((s.scrStored f true).block? q).map Block.scratch = (s.block? q).map fun y =>
      (((s.storing f true).filter fun l => (s.window f true l).1.id = q).foldl (s.writeLane f) y).scratch := by
  obtain ⟨caches, released⟩ := s.before_eq s.blk.core (ordOf f)
  unfold State.scrStored
  rw [released]
  exact ⟨⟨caches, State.foldl_writeScr_frame (s := { s with caches := caches }) _ _ _ _ idle⟩,
    State.scratch_foldl_writeScr (s := { s with caches := caches }) _ _ _ _ idle⟩
/-- The issuing warp has no part in scratch windows. -/
theorem State.scratch_withWp (s : State) (w : Warp) (q : Nat) :
    (({ s with wp := w } : State).block? q).map Block.scratch = (s.block? q).map Block.scratch := by
  simp only [State.block?, State.blocksNow, List.find?_map, Option.map_map]
  congr 1
  · funext b
    dsimp only [Function.comp_apply]
    split
    · rfl
    · rfl
  · congr 1
    funext b
    dsimp only [Function.comp_apply]
    split
    · rfl
    · rfl
theorem completes_sts {s : State} {f : Fields} {c : Ctx} (plain : Plain s f c) (idle : s.NoWaits)
    (fine : ∀ l, l < 128 → Mask.has (s.en f) l = true → s.scrFine f false l) : Completes (.sts f) s fun t => ∃ u,
      u = { s with caches := u.caches
                   blk := { (s.storing f false).foldl (s.writeLane f) s.blk with
                     scrLate := u.blk.scrLate, scrSettled := u.blk.scrSettled } } ∧
      Advances u t := by
  obtain ⟨caches, late, settled, stored⟩ := State.scrStored_own f idle
  refine ⟨(s.scrStored f false).goOn, congrArg Host.Outcome.next (State.storeScr_fine plain fine), s.scrStored f false, ?_, ?_⟩
  · rw [stored]
  · rw [stored]; exact State.goOn_advances plain.stands
theorem completes_stx {s : State} {f : Fields} {c : Ctx} (plain : Plain s f c) (idle : s.NoWaits)
    (fine : ∀ l, l < 128 → Mask.has (s.en f) l = true → s.scrFine f true l) : Completes (.stx f) s fun t =>
      (∀ q y, s.block? q = some y → (t.block? q).map Block.scratch =
        some (((s.storing f true).filter fun l => (s.window f true l).1.id = q).foldl (s.writeLane f) y).scratch) ∧
      t.mem = s.mem ∧ t.wp.regs = s.wp.regs ∧ t.ctxs = s.ctxs ∧
      ∀ k, k < 128 → t.wp.thread k = if Mask.has s.iss.lanes k then { s.wp.thread k with pc := s.nextPc } else s.wp.thread k := by
  obtain ⟨⟨caches, blk, blocks, stored⟩, scratch⟩ := State.scrStored_gang f idle
  have goes : Advances (s.scrStored f true) (s.scrStored f true).goOn := by
    rw [stored]; exact State.goOn_advances plain.stands
  refine ⟨(s.scrStored f true).goOn, congrArg Host.Outcome.next (State.storeScr_fine plain fine), fun q y hy => ?_, ?_⟩
  · rw [State.goOn, State.advanceLanes, State.scratch_withWp, scratch, hy]; rfl
  · rw [stored] at goes ⊢
    exact ⟨rfl, rfl, rfl, goes.pcs⟩

/-- Settles O27: the checks of every lane pass (R230), so the lanes write their windows one after another (R229) and the group goes
on; a lane of STX writes the window of the partner it names (R66). -/
theorem scratchStores : Obligations.ScratchStores := by
  unfold Obligations.ScratchStores
  intro f s c plain idle _
  dsimp only
  constructor
  case left =>
    intro fine
    have done := completes_sts plain idle fine
    rw [s.storing_own] at done
    exact done
  case right =>
    intro fine
    have done := completes_stx plain idle fun l hl enabled => by
      obtain ⟨inside, sound⟩ := fine l hl enabled
      rw [State.scrFine, inside]
      exact sound
    rw [s.storing_gang] at done
    exact done

end Sys2Proof.Machine
end

section
/-! PROOFS. Errors detected and vigils (R63, R333-R335, R341): what a bank records, what an event of a vigil does to its core, and the
statement HealthEvents. -/
namespace Sys2Proof.Machine

/-! ## Error banks -/

/-- The first error a bank records (R335): a count of one, and nothing overwritten. -/
theorem Bank.record_empty (kind index sev : Nat) (poisoned : Bool) (ctx source syndrome addr : Nat) :
    (Bank.mk kind index 0 0).record sev poisoned ctx source syndrome addr = ⟨kind, index,
      BitVec.ofNat 64 (sev * 2 ^ 62 + (if poisoned then 1 else 0) * 2 ^ 60 + 2 ^ 52 + ctx % 4096 * 2 ^ 40 + source % 256 * 2 ^ 32 +
        index % 65536 * 2 ^ 16 + syndrome % 65536), BitVec.ofNat 64 (addr % 2 ^ 57)⟩ := by
  cases poisoned with
  | false => simp [Bank.record, bits]
  | true => simp [Bank.record, bits]
/-- An error of a unit that has no bank yet. -/
theorem State.logBank_new {s : State} {kind index : Nat} (fresh : ∀ b ∈ s.banks, ¬ (b.kind = kind ∧ b.index = index)) (sev : Nat)
    (poisoned : Bool) (ctx source syndrome addr : Nat) : s.logBank kind index sev poisoned ctx source syndrome addr =
      { s with banks := s.banks ++ [(Bank.mk kind index 0 0).record sev poisoned ctx source syndrome addr] } := by
  have absent : (s.banks.any fun b => b.kind = kind && b.index = index) = false := by simpa using fresh
  rw [State.logBank, if_neg (by rw [absent]; decide)]
theorem Bank.record_name (b : Bank) (sev : Nat) (poisoned : Bool) (ctx source syndrome addr : Nat) :
    (b.record sev poisoned ctx source syndrome addr).kind = b.kind ∧
    (b.record sev poisoned ctx source syndrome addr).index = b.index := by
  unfold Bank.record
  dsimp only
  split
  · exact ⟨rfl, rfl⟩
  · exact ⟨rfl, rfl⟩
/-- Recording an error changes the banks alone, and its unit then has one. -/
theorem State.logBank_eq (s : State) (kind index sev : Nat) (poisoned : Bool) (ctx source syndrome addr : Nat) :
    ∃ banks, s.logBank kind index sev poisoned ctx source syndrome addr = { s with banks := banks } ∧
      ∃ b ∈ banks, b.kind = kind ∧ b.index = index := by
  unfold State.logBank
  split
  next held =>
    obtain ⟨b, mem, named⟩ := List.any_eq_true.mp held
    refine ⟨_, rfl, _, List.mem_map_of_mem mem, ?_⟩
    rw [if_pos named]
    obtain ⟨kind_eq, index_eq⟩ : b.kind = kind ∧ b.index = index := by simpa using named
    obtain ⟨same_kind, same_index⟩ := b.record_name sev poisoned ctx source syndrome addr
    exact ⟨same_kind.trans kind_eq, same_index.trans index_eq⟩
  next => exact ⟨_, rfl, _, List.mem_append_right _ List.mem_cons_self, Bank.record_name _ sev poisoned ctx source syndrome addr⟩
theorem mem_insertNat (x y : Nat) (xs : List Nat) : y ∈ insertNat x xs ↔ y = x ∨ y ∈ xs := by
  induction xs with
  | nil => simp [insertNat]
  | cons z zs ih =>
    unfold insertNat
    split
    · simp
    · split
      next _ same => simp [same]
      next => simp only [List.mem_cons, ih]; exact or_left_comm
theorem State.logError_memory {s : State} {e : ErrorEvent} {pa : Nat}
    (fresh : ∀ b ∈ s.banks, ¬ (b.kind = e.bankKind ∧ b.index = e.unit)) (inMemory : e.target = .memory pa) (sev : Severity) :
    s.logError e sev = { s with banks := s.banks ++ [⟨e.bankKind, e.unit,
      BitVec.ofNat 64 (sevCode sev * 2 ^ 62 + (if sev = .ue then 1 else 0) * 2 ^ 60 + 2 ^ 52 + e.ctx.getD 0xFFF % 4096 * 2 ^ 40 +
        e.source % 256 * 2 ^ 32 + e.unit % 65536 * 2 ^ 16 + e.syndrome % 65536), BitVec.ofNat 64 (e.addr % 2 ^ 57)⟩] } := by
  have poisons : errPoisons e.target = true := by rw [inMemory]; rfl
  rw [State.logError, State.logBank_new fresh, Bank.record_empty, poisons, Bool.and_true]
  simp only [decide_eq_true_eq]
/-- An error found in memory is recorded, and poisons its granule when it is not corrected. -/
theorem exec_errorDetected_memory (s : State) {e : ErrorEvent} {pa : Nat} (inMemory : e.target = .memory pa) :
    (e.sev = .ce → exec (.errorDetected e) s = .next (s.logError e .ce)) ∧
    (e.sev = .ue → exec (.errorDetected e) s = .next ((s.logError e .ue).setPoison pa)) := by
  refine ⟨fun corrected => ?_, fun uncorrected => ?_⟩
  · change execErrorDetected e s = _
    simp only [execErrorDetected, inMemory, corrected]
  · change execErrorDetected e s = _
    simp only [execErrorDetected, inMemory, uncorrected, State.poisonTarget]

/-! ## A vigil begins (R341) -/

/-- The die after core `k` stopped taking blocks for its vigil: the almanac stands behind it. -/
def State.vigilBegun (s : State) (d k : Nat) : State :=
  { s.modCore k fun c => { c with vigil := .draining s.now } with
    dies := setAt s.dies d fun x => { x with almanac := (k % 96 + 1) % 96 } }
theorem exec_vigilBegin {s : State} {d k : Nat} (on : s.vigilcfg.getLsbD 0 = true) (up : 6 ≤ s.boot) (cool : (s.die d).step < 6)
    (room : s.inVigil d < s.perDie) (next : s.nextVigil d = some k) :
    exec (.vigilBegin d) s = .next ((s.vigilBegun d k).settleVigil k) := by
  change execVigilBegin d s = _
  simp only [execVigilBegin, on, next, Nat.not_lt.mpr up, Nat.not_le.mpr cool, Nat.not_le.mpr room, decide_false,
    Bool.not_true, Bool.or_self, Bool.false_eq_true, if_false]
  rfl
theorem State.vigilBegun_core {s : State} {k : Nat} (d : Nat) (h : k < s.cores.length) :
    ((s.vigilBegun d k).core k).vigil = .draining s.now :=
  congrArg Core.vigil (s.core_modCore_same (fun c => { c with vigil := .draining s.now }) h)
theorem State.vigilBegun_length (s : State) (d k : Nat) : (s.vigilBegun d k).cores.length = s.cores.length :=
  List.length_modify _ _ _
/-- The almanac has no part in the time. -/
theorem State.vigilBegun_now (s : State) (d k : Nat) : (s.vigilBegun d k).now = s.now := by
  change ((setAt s.dies d fun x => { x with almanac := (k % 96 + 1) % 96 }).getD 0 Die.reset).clk = _
  rw [getD_setAt]
  split
  · rfl
  · rfl
theorem State.settleVigil_busy {s : State} {k t : Nat} (drains : (s.core k).vigil = .draining t) (busy : ∃ b ∈ s.blocksNow, b.core = k) :
    s.settleVigil k = s := by
  have held : (s.blocksNow.any fun b => b.core = k) = true := by simpa using busy
  simp only [State.settleVigil, drains, held, if_true]
theorem State.settleVigil_empty {s : State} {k t : Nat} (drains : (s.core k).vigil = .draining t) (empty : ∀ b ∈ s.blocksNow, b.core ≠ k) :
    s.settleVigil k = s.modCore k fun c => { c with vigil := .scanning s.now } := by
  have free : (s.blocksNow.any fun b => b.core = k) = false := by simpa using empty
  simp only [State.settleVigil, drains, free, Bool.false_eq_true, if_false]

/-! ## The drain is over (R341) -/

theorem State.drainWait_eq (s : State) : s.drainWait = s.vigilcfg.toNat / 2 ^ 20 % 2 ^ 12 * 225000 := by
  rw [State.drainWait, bits, Nat.shiftRight_eq_div_pow]
theorem State.scanTime_eq (s : State) : s.scanTime = s.vigilcfg.toNat / 2 ^ 8 % 2 ^ 12 * 225000 := by
  rw [State.scanTime, bits, Nat.shiftRight_eq_div_pow]
theorem State.block?_isNone_of_mem {s : State} {b : Block} (h : b ∈ s.blocksNow) : (s.block? b.id).isNone = false := by
  rw [Option.isNone_eq_false_iff, State.block?, List.find?_isSome]
  exact ⟨b, h, by simp⟩
/-- The one block left on a core is pre-empted, where there is room to save it. -/
theorem exec_vigilDrainTimeout {s u : State} {k t : Nat} {b : Block} (drains : (s.core k).vigil = .draining t)
    (due : t + s.drainWait ≤ s.now) (left : s.blocksNow.filter (fun b => b.core = k) = [b])
    (saves : s.preemptUnit b false = some u) : exec (.vigilDrainTimeout k) s = .next u := by
  have mem : b ∈ s.blocksNow := (List.mem_filter.mp (left ▸ List.mem_cons_self)).1
  change execVigilDrainTimeout k s = _
  simp only [execVigilDrainTimeout, drains, Nat.not_lt.mpr due, left, List.foldl_cons, List.foldl_nil,
    State.block?_isNone_of_mem mem, saves, Option.getD_some, Bool.false_eq_true, if_false]

/-! ## A scan passes (R341, R342) -/

theorem foldl_cores {α : Type} (f : State → α → State) (h : ∀ s x, (f s x).cores = s.cores) (xs : List α) (s : State) :
    (xs.foldl f s).cores = s.cores := by
  induction xs generalizing s with
  | nil => rfl
  | cons x xs ih => exact (ih (f s x)).trans (h s x)
theorem Writes.cores {s t : State} (h : Writes s t) : t.cores = s.cores := by
  rw [h]; rfl
theorem Writes.banks {s t : State} (h : Writes s t) : t.banks = s.banks := by
  rw [h]; rfl
theorem Writes.ctxs {s t : State} (h : Writes s t) : t.ctxs = s.ctxs := by
  rw [h]; rfl
theorem State.writeDone_writes (s : State) (ctx key : Nat) : Writes s (s.writeDone ctx key) := by
  unfold State.writeDone
  split
  · exact s.storeVa_writes _ _ _
  · exact .refl s
theorem State.pump_cores (s : State) (ctx : Nat) : (s.pump ctx).cores = s.cores := by
  unfold State.pump
  split
  · rfl
  · refine foldl_cores _ (fun s q => ?_) _ _
    split
    · rfl
    · rfl
theorem State.retireNode_cores (s : State) (ctx key : Nat) (keep : Bool) : (s.retireNode ctx key keep).cores = s.cores :=
  State.pump_cores _ _
/-- Confirming a node touches no core. -/
theorem State.confirm_cores (s : State) (ctx key : Nat) : (s.confirm ctx key).cores = s.cores :=
  (State.retireNode_cores _ _ _ _).trans (State.writeDone_writes _ _ _).cores
/-- The state after every node whose runs the passed vigils cover has been confirmed. -/
def State.confirmCovered (s : State) : State :=
  s.ctxs.foldl (fun u c => (c.nodes.filter (s.confirmed c)).foldl (fun u n => u.confirm c.id n.key) u) s
theorem State.confirmCovered_cores (s : State) : s.confirmCovered.cores = s.cores := by
  unfold State.confirmCovered
  refine foldl_cores _ (fun u c => ?_) s.ctxs s
  refine foldl_cores _ (fun u n => ?_) _ u
  exact State.confirm_cores u c.id n.key
/-- A core after its vigil: it serves again, and has passed the vigil that began to scan at `t`. -/
def Core.passVigil (t : Nat) (c : Core) : Core := { c with vigil := .none, passed := t }
theorem exec_vigilScanComplete_pass {s : State} {k t : Nat} (scans : (s.core k).vigil = .scanning t) (due : t + s.scanTime ≤ s.now)
    (pattern : Nat) : exec (.vigilScanComplete k true pattern) s =
      .next ((s.modCore k (Core.passVigil t)).confirmCovered.push .placementDecision) := by
  change execVigilScanComplete k true pattern s = _
  simp only [execVigilScanComplete, scans, Nat.not_lt.mpr due, if_false, if_true]
  rfl
/-- A core that passes its scan is in no vigil and has passed the one that began with it. -/
theorem completes_vigilScan_pass {s : State} {k t : Nat} (scans : (s.core k).vigil = .scanning t) (held : k < s.cores.length)
    (due : t + s.scanTime ≤ s.now) (pattern : Nat) :
    Completes (.vigilScanComplete k true pattern) s fun u => (u.core k).vigil = .none ∧ (u.core k).passed = t := by
  refine ⟨_, exec_vigilScanComplete_pass scans due pattern, ?_⟩
  have core : (s.modCore k (Core.passVigil t)).confirmCovered.core k = (s.core k).passVigil t := by
    rw [State.core, State.confirmCovered_cores]
    exact s.core_modCore_same _ held
  exact ⟨congrArg Core.vigil core, congrArg Core.passed core⟩

/-! ## A core is fenced (R63) -/

/-- HEALTH, and memory where it is reported, are all that an update of HEALTH changes. -/
theorem State.setHealth_writes (s : State) (least : Nat) : ∃ w, Writes { s with health := w } (s.setHealth least) := by
  unfold State.setHealth
  dsimp only
  split
  · exact ⟨_, .refl _⟩
  · split
    · exact ⟨_, State.writeKey_writes _ _ _ _ _⟩
    · exact ⟨_, .refl _⟩
theorem State.unseat_empty {s : State} {k : Nat} (empty : ∀ b ∈ s.blocksNow, b.core ≠ k) : s.unseat k = s := by
  have none_there : (s.blocksNow.filter fun b => b.core = k && (b.header.gang > 1 || b.copy != .single) &&
      (b.state = .prologue || b.state = .filled)) = [] := by
    rw [List.filter_eq_nil_iff]
    intro b mem
    simp [empty b mem]
  rw [State.unseat, none_there]
  rfl
/-- The state after a spare, where one is left, has replaced a core. -/
def State.replaced (s : State) (k : Nat) : State := match s.spareFor k with | some j => s.enableSpare k j | none => s
/-- The spare that replaces a fenced core is another core. -/
theorem State.replaced_frame {s : State} {k : Nat} (fenced : (s.core k).cond = .fenced) :
    (s.replaced k).core k = s.core k ∧ (s.replaced k).banks = s.banks ∧ (s.ctxs = [] → (s.replaced k).ctxs = []) := by
  unfold State.replaced
  split
  next j found =>
    have spare : (s.core j).cond = .spare := by
      have test := List.find?_some found
      simp only [Bool.and_eq_true, decide_eq_true_eq] at test
      exact test.2
    have other : k ≠ j := by
      rintro rfl
      rw [fenced] at spare
      cases spare
    refine ⟨s.core_modCore_ne _ other, rfl, fun noCtx => ?_⟩
    simp only [State.enableSpare, State.modCore, noCtx, List.map_nil]
  next => exact ⟨rfl, rfl, fun noCtx => noCtx⟩
/-- A core that has been fenced. -/
def Core.stopped (c : Core) : Core := { c with cond := .fenced, vigil := .none }
/-- A core that serves and holds no block is fenced; banks stay as they are. -/
theorem State.fence_empty {s : State} {k : Nat} (serves : (s.core k).cond = .serving) (held : k < s.cores.length)
    (empty : ∀ b ∈ s.blocksNow, b.core ≠ k) :
    ((s.fence k).core k).cond = .fenced ∧ ((s.fence k).core k).vigil = .none ∧ (s.fence k).banks = s.banks ∧
      (s.ctxs = [] → (s.fence k).ctxs = []) := by
  have core_eq : (s.modCore k Core.stopped).core k = (s.core k).stopped := s.core_modCore_same _ held
  have fenced : s.fence k = ((s.modCore k Core.stopped).replaced k).updateHealth.push .placementDecision := by
    have left : (s.modCore k Core.stopped).unseat k = s.modCore k Core.stopped := State.unseat_empty empty
    unfold Core.stopped at left
    simp only [State.fence, serves]
    rw [left]
    rfl
  obtain ⟨core, banks, ctxs⟩ := State.replaced_frame (s := s.modCore k Core.stopped) (k := k) (by rw [core_eq]; rfl)
  obtain ⟨w, writes⟩ := ((s.modCore k Core.stopped).replaced k).setHealth_writes 0
  have health : (((s.modCore k Core.stopped).replaced k).updateHealth.push .placementDecision).core k = (s.core k).stopped :=
    (congrArg (fun cs : List Core => cs.getD k (Core.reset false)) writes.cores).trans (core.trans core_eq)
  rw [fenced, health]
  exact ⟨rfl, rfl, writes.banks.trans banks, fun noCtx => writes.ctxs.trans (ctxs noCtx)⟩
/-- A core that fails its scan is fenced, and the failure is recorded in its bank. -/
theorem completes_vigilScan_fail {s : State} {k t : Nat} (scans : (s.core k).vigil = .scanning t) (held : k < s.cores.length)
    (due : t + s.scanTime ≤ s.now) (serves : (s.core k).cond = .serving) (empty : ∀ b ∈ s.blocksNow, b.core ≠ k) (noCtx : s.ctxs = [])
    (pattern : Nat) : Completes (.vigilScanComplete k false pattern) s fun u =>
      (u.core k).cond = .fenced ∧ (u.core k).vigil = .none ∧ ∃ b ∈ u.banks, b.kind = 0 ∧ b.index = k := by
  obtain ⟨banks, logged, bank⟩ := s.logBank_eq 0 k 2 false 0xFFF 10 pattern 0
  obtain ⟨fenced, vigil, same, ctxs⟩ := State.fence_empty (s := { s with banks := banks }) serves held empty
  have nodes : (({ s with banks := banks } : State).fence k).allNodes = [] := by rw [State.allNodes, ctxs noCtx]; rfl
  have executes : exec (.vigilScanComplete k false pattern) s = execVigilScanComplete k false pattern s := rfl
  simp only [execVigilScanComplete, scans, Nat.not_lt.mpr due, logged, nodes, List.foldl_nil, Bool.false_eq_true, if_false] at executes
  refine ⟨_, executes, fenced, vigil, ?_⟩
  rw [same]
  exact bank

/-! ## The statement -/

/-- Settles O50: the first error of a unit fills an empty bank (R335), and each event of a vigil by the lemma for its clause (R341). -/
theorem healthEvents : Obligations.HealthEvents := by
  unfold Obligations.HealthEvents
  intro s
  refine ⟨fun e fresh pa inMemory => ⟨fun corrected => ?ce, fun uncorrected => ?ue⟩,
    fun d k on up cool room next held => ⟨fun busy => ?busy, fun empty => ?empty⟩,
    fun k t b u drains due left saves => ?drain, fun k t scans held due => ⟨fun p => ?pass, fun p serves empty noCtx => ?fail⟩⟩
  case ce =>
    refine ⟨_, (exec_errorDetected_memory s inMemory).1 corrected, ?_⟩
    exact State.logError_memory fresh inMemory .ce
  case ue =>
    refine ⟨_, (exec_errorDetected_memory s inMemory).2 uncorrected, ?_⟩
    rw [State.logError_memory fresh inMemory .ue]
    exact ⟨rfl, fun g => mem_insertNat _ g _, rfl⟩
  case busy =>
    have drains := s.vigilBegun_core d held
    refine ⟨_, exec_vigilBegin on up cool room next, ?_⟩
    rw [State.settleVigil_busy drains busy]
    exact ⟨drains, rfl⟩
  case empty =>
    have drains := s.vigilBegun_core d held
    refine ⟨_, exec_vigilBegin on up cool room next, ?_⟩
    have scans := (s.vigilBegun d k).core_modCore_same (fun c => { c with vigil := .scanning s.now })
      ((s.vigilBegun_length d k).symm ▸ held)
    rw [State.settleVigil_empty drains empty, State.vigilBegun_now]
    exact ⟨congrArg Core.vigil scans, rfl⟩
  case drain =>
    exact ⟨u, exec_vigilDrainTimeout drains (by rw [State.drainWait_eq]; exact due) left saves, rfl⟩
  case pass => exact completes_vigilScan_pass scans held (by rw [State.scanTime_eq]; exact due) p
  case fail => exact completes_vigilScan_fail scans held (by rw [State.scanTime_eq]; exact due) serves empty noCtx p

end Sys2Proof.Machine
end

section
/-! PROOFS. The round trips of the encoding (R68, R69, R71, R72, R75): the opcode and fields of an instruction fix its word, and the word
fixes them; the bytes of a word read back as the word, whatever follows them. -/
namespace Sys2Proof

/-! ## The opcode and fields of an instruction -/

theorem Instr.ofOp_of_isa {i : Instr} {op : Nat} {f : Fields} (h : i.isa = some (op, f)) : op < 256 ∧ Instr.ofOp op f = some i := by
  cases i <;> cases h <;> exact ⟨by decide, rfl⟩
theorem Instr.isa_of_ofOp {i : Instr} {op : Nat} {f : Fields} (h : Instr.ofOp op f = some i) : i.isa = some (op, f) := by
  unfold Instr.ofOp at h
  split at h <;> cases h <;> rfl
/-- A major opcode's instruction is well formed when its fields pass steps 4 to 9 of R75. -/
theorem Instr.wellFormed_of_isa {i : Instr} {op : Nat} {f : Fields} (h : i.isa = some (op, f)) :
    i.wellFormed = decide (illegalSub op f = none) := by
  cases i <;> cases h <;> rfl
theorem encode_of_isa {i : Instr} {op : Nat} {f : Fields} (h : i.isa = some (op, f)) : encode i = some (encodeF op f) := by
  cases i <;> cases h <;> rfl
/-- Beside the major opcodes the short forms and the fill word have an encoding, and no event has one. -/
theorem encode_of_isa_none {i : Instr} (h : i.isa = none) : (∃ p e, i = .dx p e) ∨ i = .fillWord ∨ encode i = none := by
  cases i with
  | dx p e => exact .inl ⟨p, e, rfl⟩
  | fillWord => exact .inr (.inl rfl)
  | _ => cases h <;> exact .inr (.inr rfl)

/-! ## The bytes of a word -/

theorem toNat_byteOf (w k : Nat) : (byteOf w k).toNat = w / 2 ^ (8 * k) % 2 ^ 8 := by
  rw [byteOf, BitVec.toNat_ofNat, Nat.shiftRight_eq_div_pow]
theorem byteOf_succ (w k : Nat) : byteOf w (k + 1) = byteOf (w / 2 ^ 8) k :=
  BitVec.eq_of_toNat_eq (by rw [toNat_byteOf, toNat_byteOf, Nat.div_div_eq_div_mul, ← Nat.pow_add, Nat.mul_succ, Nat.add_comm])
/-- The first byte of memory stands lowest in the word (R4). -/
theorem toNat_wordOfBytes_cons (b : Byte) (bs : List Byte) :
    (wordOfBytes (b :: bs)).toNat = (b.toNat + 2 ^ 8 * (wordOfBytes bs).toNat) % 2 ^ 128 := by
  have hb := b.isLt
  have hd : wordOfBytes (b :: bs) = (wordOfBytes bs <<< 8) + b.setWidth 128 := by
    refine (BitVec.add_eq_or_of_and_eq_zero _ _ (BitVec.eq_of_getLsbD_eq fun k hk => ?_)).symm
    by_cases h : k < 8
    · simp [h]
    · simp [BitVec.getLsbD_of_ge b k (by omega)]
  rw [hd, BitVec.toNat_add, BitVec.toNat_shiftLeft, BitVec.toNat_setWidth, Nat.shiftLeft_eq]
  omega
/-- The bytes of a word, whatever follows them, read back as the word. -/
theorem wordOfBytes_bytes (n w : Nat) (hn : n ≤ 16) (tail : List Byte) :
    (wordOfBytes ((List.range n).map (byteOf w) ++ tail)).toNat % 2 ^ (8 * n) = w % 2 ^ (8 * n) := by
  induction n generalizing w with
  | zero => simp [Nat.mod_one]
  | succ n ih =>
    have ih := ih (w / 2 ^ 8) (by omega)
    have e : (List.range (n + 1)).map (byteOf w) = byteOf w 0 :: (List.range n).map (byteOf (w / 2 ^ 8)) := by
      rw [List.range_succ_eq_map, List.map_cons, List.map_map]
      exact congrArg _ (List.map_congr_left fun k _ => byteOf_succ w k)
    have hp : (2 : Nat) ^ (8 * (n + 1)) = 2 ^ 8 * 2 ^ (8 * n) := by
      rw [← Nat.pow_add, Nat.mul_succ, Nat.add_comm]
    rw [e, List.cons_append, toNat_wordOfBytes_cons, Nat.mod_mod_of_dvd _ (Nat.pow_dvd_pow 2 (by omega)), toNat_byteOf, hp]
    generalize (wordOfBytes _).toNat = x at ih ⊢
    rw [Nat.mod_mul, Nat.mod_mul, show (w / 2 ^ (8 * 0) % 2 ^ 8 + 2 ^ 8 * x) / 2 ^ 8 = x by omega, ih]
    omega

/-! ## The length of a word (R68) -/

theorem lengthOf_le (w : BitVec 128) : 4 ≤ lengthOf w ∧ lengthOf w ≤ 16 := by
  rw [lengthOf]; omega
theorem decodeF_length {w : BitVec 128} {i : Instr} {n : Nat} (h : decodeF w = .ok i n) : n = lengthOf w := by
  unfold decodeF at h
  dsimp only at h
  repeat' split at h
  all_goals cases h
  rfl
theorem decodeWord_length {w : BitVec 128} {i : Instr} {n : Nat} (h : decodeWord w = .ok i n) : n = lengthOf w := by
  unfold decodeWord at h
  dsimp only at h
  split at h
  · next hl => split at h <;> cases h <;> exact hl.symm
  · exact decodeF_length h

/-! ## From an instruction to its bytes and back -/

theorem Laws.RoundTrip.holds (i : Instr) : Laws.RoundTrip.Statement i := by
  rcases h : i.isa with _ | ⟨op, f⟩
  · rcases encode_of_isa_none h with ⟨p, e, rfl⟩ | rfl | h
    · exact Laws.RoundTrip.dx p e
    · exact Laws.RoundTrip.fillWord
    · exact Laws.RoundTrip.ofEvent h
  · obtain ⟨ho, hi⟩ := Instr.ofOp_of_isa h
    exact Laws.RoundTrip.ofIsa (Instr.wellFormed_of_isa h) (encode_of_isa h) ho hi
theorem placeFields_lt {op code : Nat} (ho : op < 256) (hc : code < 4) (f : Fields) : placeFields op f code < 2 ^ 64 := by
  have h1 := f.pg.isLt; have h2 := f.la.isLt; have h3 := f.mod.isLt; have h4 := f.vd.isLt; have h5 := f.va.isLt
  have h6 := f.vb.isLt; have h7 := f.vc.isLt; have h8 := f.pgn.toNat_lt
  simp only [placeFields]; omega
/-- A word that agrees with `w` on its first bytes decodes as its bytes do. -/
theorem decodeBytes_of_words {w : BitVec 128} {n : Nat} {i : Instr} (hn : n ≤ 16)
    (h : ∀ v : BitVec 128, v.toNat % 2 ^ (8 * n) = w.toNat % 2 ^ (8 * n) → decodeWord v = .ok i n) (tail : List Byte) :
    decodeBytes ((List.range n).map (byteOf w.toNat) ++ tail) = some (.ok i n) := by
  have ht : ((List.range n).map (byteOf w.toNat) ++ tail).take 16 = (List.range n).map (byteOf w.toNat) ++ tail.take (16 - n) := by
    rw [List.take_append, List.take_of_length_le (by simpa using hn), List.length_map, List.length_range]
  have hd := h _ (wordOfBytes_bytes n w.toNat hn (tail.take (16 - n)))
  have hl := decodeWord_length hd
  have h4 := lengthOf_le (wordOfBytes ((List.range n).map (byteOf w.toNat) ++ tail.take (16 - n)))
  rw [decodeBytes, ht, hd, if_neg]
  simp
  omega
theorem encodeF_length (op : Nat) (f : Fields) (ho : op < 256) :
    (encodeF op f).2 ≤ 16 ∧ (encodeF op f).1.toNat < 2 ^ (8 * (encodeF op f).2) := by
  have h1 := placeFields_lt ho (show 1 < 4 by omega) f
  have h2 := placeFields_lt ho (show 2 < 4 by omega) f
  have h3 := placeFields_lt ho (show 3 < 4 by omega) f
  unfold encodeF
  cases f.x with
  | none => simp only [BitVec.toNat_ofNat]; omega
  | imm v => have := v.isLt; simp only [BitVec.toNat_ofNat]; omega
  | ext v => have := v.isLt; simp only [BitVec.toNat_ofNat]; omega
/-- An encoding is no longer than 16 bytes, and stands in the bytes it says. -/
theorem encode_length {i : Instr} {w : BitVec 128} {n : Nat} (h : encode i = some (w, n)) : n ≤ 16 ∧ w.toNat < 2 ^ (8 * n) := by
  rcases hi : i.isa with _ | ⟨op, f⟩
  · rcases encode_of_isa_none hi with ⟨p, e, rfl⟩ | rfl | hn
    · cases h
      have h1 := p.isLt
      have h2 := e.isLt
      rw [BitVec.toNat_ofNat]
      omega
    · cases h; decide
    · rw [hn] at h; cases h
  · obtain ⟨ho, -⟩ := Instr.ofOp_of_isa hi
    rw [encode_of_isa hi] at h
    have hl := encodeF_length op f ho
    rwa [Option.some.inj h] at hl
/-- Settles O59: the word read back agrees with the encoding on its length, and each such word decodes to the instruction. -/
theorem encodingRoundTrip : Obligations.EncodingRoundTrip := by
  unfold Obligations.EncodingRoundTrip
  intro i w n tail hw he
  obtain ⟨hn, hb⟩ := encode_length he
  exact decodeBytes_of_words hn (fun v hv => Laws.RoundTrip.holds i hw w n v he (by rw [hv, Nat.mod_eq_of_lt hb])) tail

/-! ## From a word to its instruction and back -/

/-- What a word of a major opcode that decodes says: its opcode's instruction, which passes steps 4 to 9 of R75. -/
theorem decodeF_ok {v : BitVec 128} {i : Instr} {n : Nat} (h : decodeF v = .ok i n) :
    Instr.ofOp (wbits v 2 8).toNat (fieldsOf v n) = some i ∧ illegalSub (wbits v 2 8).toNat (fieldsOf v n) = none ∧
      wbits v 62 2 = 0 := by
  have hn := decodeF_length h
  unfold decodeF at h
  dsimp only at h
  rw [← hn] at h
  split at h
  · cases h
  · next j hj =>
    repeat' split at h
    all_goals cases h
    next hs hz => exact ⟨hj, hs, by simpa using hz⟩
/-- The fields of a word with its reserved bits zero, put back at their places, are its first 64 bits. -/
theorem placeFields_fieldsOf (v : BitVec 128) (n : Nat) (hz : wbits v 62 2 = 0) :
    placeFields (wbits v 2 8).toNat (fieldsOf v n) (v.toNat % 4) = v.toNat % 2 ^ 64 := by
  have hz : (wbits v 62 2).toNat = 0 := congrArg BitVec.toNat hz
  have hb : (v.getLsbD 17).toNat = v.toNat / 2 ^ 17 % 2 := by
    rw [getLsbD_eq_div]
    rcases Nat.mod_two_eq_zero_or_one (v.toNat / 2 ^ 17) with h | h <;> rw [h] <;> rfl
  rw [toNat_wbits] at hz
  simp only [placeFields, fieldsOf, toNat_wbits, hb]
  omega
/-- The encoding of a word's opcode and fields is the word, to its length. -/
theorem encodeF_fieldsOf (v : BitVec 128) (hl : lengthOf v ≠ 4) (hz : wbits v 62 2 = 0) :
    ∃ w, encodeF (wbits v 2 8).toNat (fieldsOf v (lengthOf v)) = (w, lengthOf v) ∧
      v.toNat % 2 ^ (8 * lengthOf v) = w.toNat := by
  have hp := placeFields_fieldsOf v (lengthOf v) hz
  have hv := v.isLt
  obtain hc | hc | hc : v.toNat % 4 = 1 ∨ v.toNat % 4 = 2 ∨ v.toNat % 4 = 3 := by rw [lengthOf] at hl; omega
  all_goals
    have hn : lengthOf v = 4 * (v.toNat % 4 + 1) := rfl
    rw [hc] at hn hp
    rw [hn] at hp ⊢
    refine ⟨_, rfl, ?_⟩
  · change _ = (BitVec.ofNat 128 (placeFields _ (fieldsOf v 8) 1)).toNat
    rw [hp, BitVec.toNat_ofNat]
    omega
  · change _ = (BitVec.ofNat 128 (placeFields _ (fieldsOf v 12) 2 + 2 ^ 64 * (wbits v 64 32).toNat)).toNat
    rw [hp, BitVec.toNat_ofNat, toNat_wbits]
    omega
  · change _ = (BitVec.ofNat 128 (placeFields _ (fieldsOf v 16) 3 + 2 ^ 64 * (wbits v 64 64).toNat)).toNat
    rw [hp, BitVec.toNat_ofNat, toNat_wbits]
    omega
/-- The round trip of the words of major opcodes. -/
theorem decodeF_roundTrip {v : BitVec 128} {i : Instr} {n : Nat} (hl : lengthOf v ≠ 4) (h : decodeF v = .ok i n) :
    i.wellFormed = true ∧ ∃ w, encode i = some (w, n) ∧ v.toNat % 2 ^ (8 * n) = w.toNat := by
  obtain rfl := decodeF_length h
  obtain ⟨hi, hs, hz⟩ := decodeF_ok h
  have hi := Instr.isa_of_ofOp hi
  obtain ⟨w, hw, hv⟩ := encodeF_fieldsOf v hl hz
  exact ⟨by rw [Instr.wellFormed_of_isa hi, hs]; rfl, w, by rw [encode_of_isa hi, hw], hv⟩
/-- The round trip of the short forms: a word that is not the fill word is a short form with something in its payload or index. -/
theorem dx_roundTrip {v : BitVec 128} (hl : lengthOf v = 4) (hv : wbits v 0 32 ≠ 0) :
    (Instr.dx (wbits v 10 22) (wbits v 2 8)).wellFormed = true ∧
      v.toNat % 2 ^ 32 = (BitVec.ofNat 128 (2 ^ 2 * (wbits v 2 8).toNat + 2 ^ 10 * (wbits v 10 22).toNat)).toNat := by
  rw [lengthOf] at hl
  constructor
  · change (!(wbits v 10 22 = 0 && wbits v 2 8 = 0)) = true
    rw [Bool.not_eq_true', Bool.and_eq_false_iff, decide_eq_false_iff_not, decide_eq_false_iff_not, ← Decidable.not_and_iff_not_or_not]
    rintro ⟨h1, h2⟩
    have h1 : (wbits v 10 22).toNat = 0 := congrArg BitVec.toNat h1
    have h2 : (wbits v 2 8).toNat = 0 := congrArg BitVec.toNat h2
    rw [toNat_wbits] at h1 h2
    exact hv (wbits_eq (by change _ = 0; omega))
  · rw [BitVec.toNat_ofNat, toNat_wbits, toNat_wbits]
    omega
/-- Settles O60, by the three kinds of words: the fill word, short forms and major opcodes. -/
theorem decodingRoundTrip : Obligations.DecodingRoundTrip := by
  unfold Obligations.DecodingRoundTrip
  intro v i n h
  by_cases hl : lengthOf v = 4
  · rw [decodeWord, if_pos hl] at h
    split at h
    · next hz =>
      cases h
      have hz := congrArg BitVec.toNat hz
      rw [toNat_wbits] at hz
      exact ⟨rfl, 0, rfl, by simpa using hz⟩
    · next hz =>
      cases h
      obtain ⟨hw, hv⟩ := dx_roundTrip hl hz
      exact ⟨hw, _, rfl, hv⟩
  · rw [decodeWord, if_neg hl] at h
    exact decodeF_roundTrip hl h

/-- Settles O58: the decoder's own answers to the nine words. -/
theorem decodeWords : Obligations.DecodeWords := by
  unfold Obligations.DecodeWords
  refine ⟨?_, ?_, ?_, ?_, ?_, ?_, ?_, ?_, ?_⟩ <;> decide +kernel

end Sys2Proof
end

section
/-! PROOFS. A step of the machine taken apart (R68, R75, R96, R126): the move chosen, the fetch of a group's instruction, and its
performance. -/
namespace Sys2Proof.Machine

/-! ## Outcomes -/

theorem andThen_andThen (o : Out) (k h : State → State) : andThen (andThen o k) h = andThen o fun s => h (k s) := by
  cases o <;> rfl

/-! ## Contexts and blocks at a fetch -/

/-- A walk that waits is all that a miss of a TLB changes (R212). -/
theorem State.missTlb_eq (s : State) (core : Nat) (c : Ctx) (vas : List Nat) : ∃ a, s.missTlb core c vas = { s with agenda := a } := by
  unfold State.missTlb
  induction vas generalizing s with
  | nil => exact ⟨s.agenda, rfl⟩
  | cons va vas ih =>
    rw [List.foldl_cons]
    dsimp only
    split
    · split
      · exact ih s
      · obtain ⟨a, h⟩ := ih (s.push (.pageWalk core c.id (va / 4096 * 4096)))
        exact ⟨a, h⟩
    · exact ih s
/-- That a group issues and fetches leaves the contexts and the issuing block alone. -/
theorem State.ctx?_noteFetch (s : State) (g : GroupRef) (core : Nat) (c : Ctx) :
    ((s.noteIssue g core).noteFetch g c).ctx? ((s.noteIssue g core).noteFetch g c).blk.ctx = s.ctx? s.blk.ctx := by
  rw [State.noteFetch]
  obtain ⟨a, h⟩ := (s.noteIssue g core).missTlb_eq (s.noteIssue g core).blk.core c [(s.noteIssue g core).blk.codeVa g.pc]
  rw [h]; rfl

/-! ## A decoded instruction -/

theorem State.withSpilled_none {s : State} {reads : List Nat} (h : s.wp.spilledOf reads = []) (writes : List Nat) (k : State → Out) :
    s.withSpilled reads writes k = k s := by
  unfold State.withSpilled; rw [h]
/-- With no soft error planted a decoded instruction runs (R351). -/
theorem State.issueInstr_unarmed {s : State} (h : s.armed s.blk 4 = false) (g : GroupRef) (i : Instr) : s.issueInstr g i = s.runInstr g i := by
  have ht : s.softTarget = none := by rw [State.softTarget, h]; rfl
  unfold State.issueInstr
  rw [ht]
/-- A group that owes no trap and meets no breakpoint performs what its word decodes to. -/
theorem State.issueHere_word {s : State} {g : GroupRef} {c : Ctx} {w : BitVec 128} {len n : Nat} {i : Instr}
    (owes : (s.wp.thread (Mask.low g.mask)).owed = none) (free : s.breakAt c = none) (fetched : s.fetch c s.blk g.pc = .word w len)
    (decoded : decodeWord w = .ok i n) (sound : s.armed s.blk 4 = false) :
    s.issueHere g c = State.runInstr { s with iss := issueOf g.mask g.pc w len } g i := by
  unfold State.issueHere
  rw [owes, free, fetched]
  dsimp only
  rw [decoded]
  exact State.issueInstr_unarmed (s := { s with iss := issueOf g.mask g.pc w len }) sound g i
theorem State.issueGroup_ctx {s u : State} {g : GroupRef} {c : Ctx}
    (out : (s.checkout g.blk g.warp { Issue.idle with lanes := g.mask, pc := g.pc }).offer = u) (h : u.ctx? u.blk.ctx = some c) :
    s.issueGroup g = andThen (((u.noteIssue g u.blk.core).noteFetch g c).issueHere g c) State.checkin := by
  unfold State.issueGroup
  rw [out]
  dsimp only
  rw [h]

/-! ## The move of a step -/

/-- A step with power makes the move it chooses, and time passes (R126). -/
theorem step_of_choose {s u : State} {m : Move} (on : s.powered = true) (h : s.settle.choose = (some m, u)) :
    step s = andThen (u.make m) State.tick := by
  rw [step, if_pos on, State.advanceStep, h]

/-- Settles O54: the move chosen is made, and a group's move is the run of the instruction its word decodes to. -/
theorem stepRunsDecoded : Obligations.StepRunsDecoded := by
  unfold Obligations.StepRunsDecoded
  refine fun s on => ⟨?_, fun i u h => step_of_choose on h, fun i rest u h => step_of_choose on h⟩
  intro g u c w len i n h v0 v home owes free fetched decoded sound v1 j v2 reads trace exempt after
  have hstep : step s = andThen (v2.withSpilled reads (v2.writesOf j) (exec i)) after := by
    rw [step_of_choose on h, State.make, State.issueGroup_ctx rfl ((State.ctx?_noteFetch v0 g v0.blk.core c).symm.trans home),
      State.issueHere_word owes free fetched decoded sound, State.runInstr, andThen_andThen, andThen_andThen]
  exact ⟨hstep, fun none => by rw [hstep, State.withSpilled_none none]⟩

end Sys2Proof.Machine
end

section
/-! PROOFS. Traps that enter their handler (R310-R312), NOP and YIELD (R151), and the transfers of control (R148, R152, R153). -/
namespace Sys2Proof.Machine

/-! ## A trap that enters its handler (R312) -/

/-- With no pending write of the group, completing its writes does nothing (R131). -/
theorem State.completeOf_settled {s : State} {m : Mask} (h : ∀ p ∈ s.wp.pending, (p.issuers ||| p.lanes) &&& m = 0) :
    s.completeOf m = s := by
  have hp : (s.wp.pending.partition fun p => (p.issuers ||| p.lanes) &&& m != 0) = ([], s.wp.pending) := by
    rw [List.partition_eq_filter_filter, List.filter_eq_nil_iff.2 fun p hp => by simp [h p hp],
      List.filter_eq_self.2 fun p hp => by simp [h p hp]]
  unfold State.completeOf
  rw [hp]; rfl
theorem Warp.thread_enterHandler (w : Warp) (r : TrapRec) (g : Mask) (l : Nat) (hl : l < 128) : (w.enterHandler r g).thread l =
    if Mask.has g l then { w.thread l with handler := true, status := .eligible, pc := (w.trapBase &&& ~~~(3 : DWord)).setWidth 57 }
    else w.thread l := Warp.thread_mapThreads w g _ l hl
/-- A trap of a group that can enter its handler enters it. -/
theorem State.trap_enters {s : State} (can : CanEnter s) (cause : Nat) (addr : DWord) (mask : Mask) :
    Enters s (s.trap cause addr mask) cause addr mask s.iss.pc := by
  obtain ⟨on, free, settled⟩ := can
  have h : s.trap cause addr mask =
      { s with wp := s.wp.enterHandler (s.report cause addr mask s.iss.pc) s.iss.lanes, iss := { s.iss with lanes := 0 } } := by
    have hn : ¬ (s.wp.handlers &&& s.iss.lanes != 0 || !s.wp.trapBase.getLsbD 0) = true := by
      rw [on, free]; simp
    have hf : ¬ (s.wp.handlers != 0) = true := by rw [free]; decide
    rw [State.trap, State.trapAt, State.completeOf_settled settled, State.deal, if_neg hn, if_neg hf]
  rw [h]
  exact ⟨rfl, fun l hl => Warp.thread_enterHandler _ _ _ l hl, rfl⟩

/-! ## NOP and YIELD (R151) -/

/-- A position that passes to another group changes only its core (R127). -/
theorem State.swapPosition_eq (s : State) (core pipe pos : Nat) :
    s.swapPosition core pipe pos = { s with cores := (s.swapPosition core pipe pos).cores } := by
  unfold State.swapPosition
  split <;> rfl
/-- Settles O17: each goes on, and YIELD passes its position on. -/
theorem nopAndYield : Obligations.NopAndYield := by
  unfold Obligations.NopAndYield
  refine fun f s => ⟨⟨_, rfl, s.advance_advances⟩, ⟨_, rfl, s.advance_advances⟩, ⟨_, rfl, s.advance, s.advance_advances, ?_⟩⟩
  unfold State.whenEnabled
  split
  · rfl
  · dsimp only
    split
    · exact State.swapPosition_eq _ _ _ _
    · rfl

/-! ## Targets and jumps (R148, R152) -/

/-- A jump takes the enabled threads to their targets and the others behind the instruction. -/
theorem State.jump_jumps (s : State) (en : Mask) (g : Nat → BitVec 57) : Jumps s (s.jump en g) en g :=
  ⟨fun l hl => Warp.thread_mapThreads s.wp s.iss.lanes _ l hl, rfl⟩
theorem State.badTarget_iff {s : State} {x : BitVec 57} :
    s.badTarget x = true ↔ x.toNat % 4 ≠ 0 ∨ s.blk.header.codeSize ≤ x.toNat := by
  simp [State.badTarget]
theorem Mask.eq_zero_iff {m : Mask} : m = 0 ↔ ∀ l, l < 128 → Mask.has m l = false := by
  refine ⟨fun h l _ => by simp [h, Mask.has], fun h => Mask.ext fun l hl => ?_⟩
  rw [h l hl]
  simp [Mask.has]
theorem Mask.ne_zero_of_has {m : Mask} {l : Nat} (h : Mask.has m l = true) : m ≠ 0 := by
  rintro rfl
  simp [Mask.has] at h
/-- With every target good, what checks them goes on. -/
theorem State.checkTargets_good {s : State} {en : Mask} {g : Nat → BitVec 57}
    (good : ∀ l, l < 128 → Mask.has en l = true → (g l).toNat % 4 = 0 ∧ (g l).toNat < s.blk.header.codeSize) (k : State → State) :
    s.checkTargets en g k = k s := by
  have h : s.badLanes en g = 0 := by
    refine Mask.eq_zero_iff.2 fun l hl => ?_
    rw [State.badLanes, Mask.has_maskOf _ _ hl]
    cases hen : Mask.has en l with
    | false => rfl
    | true =>
      obtain ⟨h4, hs⟩ := good l hl hen
      rw [Bool.true_and, Bool.eq_false_iff, ne_eq, State.badTarget_iff]
      omega
  simp [State.checkTargets, h]
/-- With a bad target of an enabled thread, what checks the targets is ILLEGAL for the threads at fault. -/
theorem State.checkTargets_bad {s : State} {en : Mask} {g : Nat → BitVec 57} {l : Nat} (hl : l < 128) (hen : Mask.has en l = true)
    (bad : (g l).toNat % 4 ≠ 0 ∨ s.blk.header.codeSize ≤ (g l).toNat) (k : State → State) :
    ∃ m, Mask.has m l = true ∧ s.checkTargets en g k = s.illegal 0x8 m := by
  have hb : Mask.has (s.badLanes en g) l = true := by
    rw [State.badLanes, Mask.has_maskOf _ _ hl, hen, State.badTarget_iff.2 bad]; rfl
  refine ⟨_, hb, ?_⟩
  rw [State.checkTargets, if_pos]
  simpa using Mask.ne_zero_of_has hb
theorem State.illegal_enters {s : State} (can : CanEnter s) (long : s.iss.d32 = none) (sub : Nat) (m : Mask) :
    Enters s (s.illegal sub m) 0x01 (BitVec.ofNat 64 (sub * 2 ^ 32)) m s.iss.pc := by
  have h : s.fetchDetail sub = BitVec.ofNat 64 (sub * 2 ^ 32) := by rw [State.fetchDetail, long]
  rw [← h]
  exact State.trap_enters can 0x01 (s.fetchDetail sub) m

/-! ## Calls and returns (R153) -/

/-- BRA and CALL go by the lane value of VB, or by IMM32 (R71). -/
theorem State.branchTo_eq (s : State) (f : Fields) : s.branchTo f = fun l => s.iss.pc + (s.opB f l).signExtend 57 := by
  funext l
  unfold State.branchTo State.rvB State.opB
  split <;> rfl
theorem State.targetA_eq (s : State) (f : Fields) : s.targetA f = fun l => (s.opA f l).setWidth 57 := rfl
/-- A return address holds the launch's tag above the PC behind the call (R24). -/
theorem State.returnAddr_eq (s : State) : s.returnAddr = BitVec.ofNat 64 (s.blk.tag % 16 * 2 ^ 60 + s.nextPc.toNat) := by
  have hp := s.nextPc.isLt
  have ht := Nat.mod_lt s.blk.tag (show 16 > 0 by omega)
  unfold State.returnAddr
  generalize s.blk.tag % 16 = tag at ht ⊢
  apply BitVec.eq_of_toNat_eq
  rw [BitVec.toNat_or, BitVec.toNat_ofNat, BitVec.toNat_ofNat, BitVec.toNat_setWidth,
    Nat.mod_eq_of_lt (a := tag * 2 ^ 60) (by omega), Nat.mod_eq_of_lt (a := s.nextPc.toNat) (by omega),
    Nat.mod_eq_of_lt (a := tag * 2 ^ 60 + _) (by omega), Nat.mul_comm, ← Nat.two_pow_add_eq_or_of_lt (i := 60) (by omega)]
/-- The jump of a call, behind what it wrote: the return address in both halves of its pair, nothing for the null destination. -/
theorem completes_call {s : State} {f : Fields} {g : Nat → BitVec 57}
    (good : ∀ l, l < 128 → Mask.has (s.en f) l = true → (g l).toNat % 4 = 0 ∧ (g l).toNat < s.blk.header.codeSize) :
    let ra : DWord := BitVec.ofNat 64 (s.blk.tag % 16 * 2 ^ 60 + s.nextPc.toNat)
    if f.vd.toNat = 511 then Jumps s (s.callTo f g) (s.en f) g
    else ∃ u v, Puts s u f.vd.toNat (s.en f) (fun _ => ra.setWidth 32) ∧
      Puts u v (f.vd.toNat + 1) (s.en f) (fun _ => (ra >>> 32).setWidth 32) ∧ Jumps v (s.callTo f g) (s.en f) g := by
  intro ra
  have hc : s.callTo f g = (s.writePair f.vd.toNat (s.en f) (.u (ra.setWidth 32)) (.u ((ra >>> 32).setWidth 32))).jump (s.en f) g := by
    rw [State.callTo, State.checkTargets_good good, State.returnAddr_eq]; rfl
  rw [hc, State.writePair]
  split
  · exact s.jump_jumps _ _
  · exact ⟨_, _, s.writeReg_puts _ _ _, State.writeReg_puts _ _ _ _, State.jump_jumps _ _ _⟩
/-- The pair of a return holds the launch's tag, and zero below it down to the PC (R24). -/
theorem tagged_iff (x : DWord) (tag : Nat) :
    (bits x.toNat 60 4 != tag % 16 || bits x.toNat 57 3 != 0) = false ↔ x.toNat / 2 ^ 57 = tag % 16 * 8 := by
  have := x.isLt
  simp only [bits, Nat.shiftRight_eq_div_pow, Bool.or_eq_false_iff, bne_eq_false_iff_eq]
  omega
/-- The enabled threads whose pair does not hold the launch's tag. -/
def State.untagged (s : State) (f : Fields) : Mask := maskOf fun l => Mask.has (s.en f) l &&
  (bits (s.wp.pair f.va.toNat l).toNat 60 4 != s.blk.tag % 16 || bits (s.wp.pair f.va.toNat l).toNat 57 3 != 0)
theorem State.has_untagged {s : State} {f : Fields} {l : Nat} (hl : l < 128) (hen : Mask.has (s.en f) l = true)
    (tag : (s.pairA f l).toNat / 2 ^ 57 ≠ s.blk.tag % 16 * 8) : Mask.has (s.untagged f) l = true := by
  rw [State.untagged, Mask.has_maskOf _ _ hl, hen, Bool.true_and, ← Bool.not_eq_false]
  exact fun h => tag ((tagged_iff _ _).1 h)
theorem State.untagged_eq_zero {s : State} {f : Fields} : s.untagged f = 0 ↔
    ∀ l, l < 128 → Mask.has (s.en f) l = true → (s.pairA f l).toNat / 2 ^ 57 = s.blk.tag % 16 * 8 := by
  rw [Mask.eq_zero_iff]
  refine forall_congr' fun l => forall_congr' fun hl => ?_
  rw [State.untagged, Mask.has_maskOf _ _ hl]
  cases Mask.has (s.en f) l with
  | false => exact ⟨fun _ h => absurd h Bool.false_ne_true, fun _ => rfl⟩
  | true =>
    rw [Bool.true_and, tagged_iff]
    exact ⟨fun h _ => h, fun h => h rfl⟩
theorem exec_bra (f : Fields) (s : State) : exec (.bra f) s =
    .next (s.checkTargets (s.en f) (s.branchTo f) fun t => t.jump (s.en f) (t.branchTo f)) := rfl
theorem exec_brx (f : Fields) (s : State) : exec (.brx f) s =
    .next (s.checkTargets (s.en f) (s.targetA f) fun t => t.jump (s.en f) (t.targetA f)) := rfl
theorem exec_call (f : Fields) (s : State) : exec (.call f) s = .next (s.callTo f (s.branchTo f)) := rfl
theorem exec_ret (f : Fields) (s : State) : exec (.ret f) s = .next (
    if s.untagged f != 0 then s.illegal 0x7 (s.untagged f)
    else s.checkTargets (s.en f) (fun l => (s.pairA f l).setWidth 57) fun t => t.jump (s.en f) fun l => (s.pairA f l).setWidth 57) := rfl
/-- Settles O18, by the check of the targets and, for RET, of the tag before it. -/
theorem branches : Obligations.Branches := by
  unfold Obligations.Branches
  intro f s en good relative register back ra calls
  have hrel : s.branchTo f = relative := s.branchTo_eq f
  have hreg : s.targetA f = register := s.targetA_eq f
  have hbra : exec (.bra f) s = .next (s.checkTargets en relative fun t => t.jump en (t.branchTo f)) := hrel ▸ exec_bra f s
  have hbrx : exec (.brx f) s = .next (s.checkTargets en register fun t => t.jump en (t.targetA f)) := hreg ▸ exec_brx f s
  have hcall : exec (.call f) s = .next (s.callTo f relative) := hrel ▸ exec_call f s
  have hret := exec_ret f s
  refine ⟨fun h => ⟨_, hbra, ?_⟩, fun h => ⟨_, hbrx, ?_⟩, fun h => ⟨_, hcall, completes_call h⟩, fun h => ⟨_, rfl, completes_call h⟩,
    fun h tag => ⟨_, hret, ?_⟩, ?_⟩
  · rw [State.checkTargets_good h, hrel]; exact s.jump_jumps _ _
  · rw [State.checkTargets_good h, hreg]; exact s.jump_jumps _ _
  · rw [State.untagged_eq_zero.2 tag, if_neg (by simp), State.checkTargets_good h]
    exact s.jump_jumps _ _
  · intro bad illegal can long l hl hen
    refine ⟨fun hb => ⟨_, hbra, ?_⟩, fun hb => ⟨_, hbrx, ?_⟩, fun tag => ⟨_, hret, s.untagged f, ?_, ?_⟩⟩
    · obtain ⟨m, hm, e⟩ := State.checkTargets_bad hl hen hb fun t => t.jump en (t.branchTo f)
      exact ⟨m, hm, e ▸ State.illegal_enters can long 8 m⟩
    · obtain ⟨m, hm, e⟩ := State.checkTargets_bad hl hen hb fun t => t.jump en (t.targetA f)
      exact ⟨m, hm, e ▸ State.illegal_enters can long 8 m⟩
    · exact State.has_untagged hl hen tag
    · rw [if_pos (by simpa using Mask.ne_zero_of_has (State.has_untagged hl hen tag))]
      exact State.illegal_enters can long 7 _

end Sys2Proof.Machine
end

section
/-! PROOFS. The unary functions and the write-back of pending instructions (R128, R129, R189, R197). -/
namespace Sys2Proof.Machine

/-! ## Values and flags of a float instruction -/

/-- The values of some shaped operands are those of lane 0 when all are U (R102). -/
theorem RegVal.at_of_uniform {a : RegVal} (h : a.shape = 0) (l : Nat) : a.at l = a.at 0 := by
  cases a with
  | u x => rfl
  | a b s => simp [RegVal.shape] at h
  | v row => simp [RegVal.shape] at h
theorem at_fpVal {u : Bool} {g : Nat → Nat × FpFlags} (same : u = true → ∀ l, g l = g 0) (l : Nat) (h : l < 128) :
    (fpVal u g).at l = BitVec.ofNat 32 (g l).1 := by
  cases u with
  | true => rw [same rfl l]; rfl
  | false => exact RegVal.at_lanes (fun l => fpWord (g l)) l h
theorem foldl_or_const {ls : List Nat} (x y : FpFlags) (h : ls ≠ []) : ls.foldl (fun a _ => a ||| y) x = x ||| y := by
  induction ls generalizing x with
  | nil => exact absurd rfl h
  | cons l ls ih =>
    rw [List.foldl_cons]
    by_cases hl : ls = []
    · rw [hl]; rfl
    · rw [ih _ hl, BitVec.or_assoc, BitVec.or_self]
theorem Mask.lanes_ne_nil {m : Mask} (h : m ≠ 0) : Mask.lanes m ≠ [] :=
  List.ne_nil_of_mem (Mask.mem_lanes.2 (Mask.low_has h))
/-- The one execution of a compact operation raises what its lanes raise (R189). -/
theorem fpFlags_eq {m : Mask} {u : Bool} {g : Nat → FpFlags} (same : u = true → ∀ l, g l = g 0) :
    fpFlags m u g = (Mask.lanes m).foldl (fun x l => x ||| g l) 0 := by
  unfold fpFlags
  split
  · next h => rw [h]; rfl
  · next h =>
    cases u with
    | true =>
      have hg : g = fun _ => g 0 := funext (same rfl)
      rw [hg, foldl_or_const 0 (g 0) (Mask.lanes_ne_nil h), if_pos rfl]
      exact (BitVec.zero_or).symm
    | false => rfl

/-! ## Marking pending (R128) -/

/-- What marking one destination pending does. -/
theorem State.pend_one (s : State) (f : Fields) (m : Mask) (x : RegVal) (fl : FpFlags) :
    if m = 0 then s.pend f.la.toNat false m [(f.vd.toNat, x)] fl = s
    else if f.vd.toNat = 511 then Raises s (s.pend f.la.toNat false m [(f.vd.toNat, x)] fl) fl
    else Pends s (s.pend f.la.toNat false m [(f.vd.toNat, x)] fl) f m false fl [(f.vd.toNat, x)] := by
  unfold State.pend
  by_cases hm : m = 0
  · rw [if_pos hm, if_pos hm]
  · rw [if_neg hm, if_neg hm]
    by_cases hd : f.vd.toNat = 511
    · rw [if_pos hd]
      simp only [hd]
      rfl
    · rw [if_neg hd]
      have hf : [(f.vd.toNat, x)].filter (fun p => p.1 != 511) = [(f.vd.toNat, x)] := by simp [hd]
      rw [hf]
      rfl
/-- A unary function of R197 pends with its values and flags. -/
theorem State.fp1_pends (s : State) (f : Fields) (k : Unary) (op : Nat) :
    let y (l : Nat) : Nat × FpFlags := k.apply op (f.m 2 0) (f.b 3) (s.opA f l).toNat
    let fl : FpFlags := (Mask.lanes (s.en f)).foldl (fun x l => x ||| (y l).2) 0
    ∃ (u : State) (x : RegVal), Advances u (s.fp1 f k op) ∧
      (∀ l, l < 128 → Mask.has (s.en f) l = true → x.at l = BitVec.ofNat 32 (y l).1) ∧
      if s.en f = 0 then u = s else if f.vd.toNat = 511 then Raises s u fl else Pends s u f (s.en f) false fl [(f.vd.toNat, x)] := by
  intro y fl
  have same : allU [s.rvA f] = true → ∀ l, y l = y 0 := by
    intro h l
    have hs : (s.rvA f).shape = 0 := by simpa [allU] using h
    change k.apply op _ _ ((s.rvA f).at l).toNat = k.apply op _ _ ((s.rvA f).at 0).toNat
    rw [RegVal.at_of_uniform hs l]
  have hfl : fpFlags (s.en f) (allU [s.rvA f]) (fun l => (y l).2) = fl := fpFlags_eq fun h l => by rw [same h l]
  have hfp : s.fp1 f k op =
      (s.pend f.la.toNat false (s.en f) [(f.vd.toNat, fpVal (allU [s.rvA f]) y)] fl).advance := by rw [← hfl]; rfl
  rw [hfp]
  exact ⟨_, fpVal (allU [s.rvA f]) y, State.advance_advances _, fun l hl _ => at_fpVal same l hl, s.pend_one f _ _ _⟩

/-! ## The write-back (R128) -/

/-- Registers written one after another (R105-R107). -/
theorem State.writeRegs_puts (s : State) (m : Mask) (ds : List (Nat × RegVal)) :
    PutsMany s (s.writeRegs m ds) m (ds.map fun d => (d.1, d.2.at)) := by
  induction ds generalizing s with
  | nil => rfl
  | cons d ds ih => exact ⟨_, s.writeReg_puts d.1 m d.2, ih _⟩
theorem State.completeOldest_cons {s : State} {p : Pending} {rest : List Pending} (h : s.wp.pending = p :: rest) :
    s.completeOldest = ((State.writeRegs { s with wp := { s.wp with pending := rest } } p.lanes p.dests).raise p.flags) := by
  unfold State.completeOldest
  rw [h]; rfl
/-- The oldest pending instruction's destinations are written, then its flags. -/
theorem State.completeOldest_puts {s : State} {p : Pending} {rest : List Pending} (h : s.wp.pending = p :: rest) :
    ∃ u, PutsMany { s with wp := { s.wp with pending := rest } } u p.lanes (p.dests.map fun d => (d.1, d.2.at)) ∧
      Raises u s.completeOldest p.flags := by
  rw [State.completeOldest_cons h]
  exact ⟨_, State.writeRegs_puts _ _ _, rfl⟩
/-- What is performed as the issuing warp leaves the issue as it was. -/
theorem State.withWarp_own (s : State) (iss : Issue) (k : State → State) :
    s.withWarp s.blk.id s.wp.idx iss k = { k { s with iss := iss } with iss := s.iss } := by
  rw [State.withWarp, if_pos (by simp)]
/-- What is performed as another warp: the issuing one is put back and taken out again. -/
theorem State.withWarp_other {s : State} {blk warp : Nat} (other : blk ≠ s.blk.id ∨ warp ≠ s.wp.idx) {iss : Issue}
    (found : (s.checkin.checkout blk warp iss).blk.id = blk) (k : State → State) :
    s.withWarp blk warp iss k = (k (s.checkin.checkout blk warp iss)).checkin.checkout s.blk.id s.wp.idx s.iss := by
  have hn : ¬ (blk = s.blk.id && warp = s.wp.idx) = true := by
    rw [Bool.and_eq_true, decide_eq_true_eq, decide_eq_true_eq]
    exact fun h => other.elim (fun hb => hb h.1) fun hw => hw h.2
  rw [State.withWarp, if_neg hn]
  dsimp only
  rw [found, if_neg (by simp)]
/-- Settles O16: what a unary function marks pending, and what the write-back makes of it. -/
theorem longLatencyFloat : Obligations.LongLatencyFloat := by
  unfold Obligations.LongLatencyFloat
  intro f s pends
  have unary (i : Instr) (k : Unary) (op : Nat) (h : exec i s = .next (s.fp1 f k op)) : pends i k op :=
    ⟨_, h, s.fp1_pends f k op⟩
  refine ⟨⟨unary _ _ _ rfl, unary _ _ _ rfl, unary _ _ _ rfl, unary _ _ _ rfl, unary _ _ _ rfl, unary _ _ _ rfl,
    unary _ _ _ rfl, unary _ _ _ rfl⟩, fun p rest => ⟨fun h => ?_, ?_⟩⟩
  · obtain ⟨u, hu, hr⟩ := State.completeOldest_puts (s := { s with iss := Issue.idle }) h
    exact ⟨_, rfl, u, _, hu, hr, s.withWarp_own _ _⟩
  · intro blk warp other w found _ h
    obtain ⟨u, hu, hr⟩ := State.completeOldest_puts (s := w) h
    exact ⟨_, rfl, u, _, hu, hr, State.withWarp_other other found _⟩

end Sys2Proof.Machine
end

section
/-! PROOFS. Dictionaries selected, synchronised and read (R83, R89-R91). -/
namespace Sys2Proof.Machine

/-! ## Stale threads (R83) -/

/-- The warp with every thread stale. -/
def Warp.staled (w : Warp) : Warp := w.mapThreads Mask.all fun _ t => { t with stale := true }
theorem Warp.thread_staled (w : Warp) {l : Nat} (hl : l < 128) : w.staled.thread l = { w.thread l with stale := true } := by
  rw [Warp.staled, Warp.thread_mapThreads _ _ _ _ hl, if_pos]
  rw [Mask.has, Mask.all, BitVec.getLsbD_allOnes, decide_eq_true hl]
/-- Every thread of the issuing block is stale, in every warp of it. -/
def State.AllStale (s : State) : Prop := ∀ w ∈ s.blkNow.warps, ∀ l, l < 128 → (w.thread l).stale = true
/-- The threads of the issuing block are those of its issuing warp and those of its warps as they are kept. -/
theorem State.allStale_of {s : State} (own : ∀ l, l < 128 → (s.wp.thread l).stale = true)
    (others : ∀ w ∈ s.blk.warps, ∀ l, l < 128 → (w.thread l).stale = true) : s.AllStale := by
  intro w hw
  obtain ⟨v, hv, rfl⟩ := List.mem_map.1 hw
  split
  · exact own
  · exact others v hv
/-- What a change of a dictionary does to its block: every thread is stale, and the idempotent region ends (R83, R322). -/
theorem State.dictChange_eq (s : State) : s.dictChange =
    { s with wp := { s.wp.staled with rvalid := false }, blk := { s.blk with warps := s.blk.warps.map Warp.staled } } := by
  rw [State.dictChange, State.modWarps, if_pos rfl]; rfl
theorem State.dictChange_others (s : State) : ∀ w ∈ s.dictChange.blk.warps, ∀ l, l < 128 → (w.thread l).stale = true := by
  intro w hw l hl
  rw [State.dictChange_eq] at hw
  obtain ⟨v, -, rfl⟩ := List.mem_map.1 hw
  rw [Warp.thread_staled v hl]
theorem State.dictChange_thread (s : State) {l : Nat} (hl : l < 128) :
    s.dictChange.wp.thread l = { s.wp.thread l with stale := true } := by
  rw [State.dictChange_eq]; exact s.wp.thread_staled hl

/-! ## DSWITCH and DSYNC (R89, R90) -/

theorem State.whenEnabled_some {s : State} {f : Fields} (some : s.en f ≠ 0) (k : State → State) : s.whenEnabled f k = k s := if_neg some
/-- The block with another dictionary selected, every thread of it stale. -/
def State.switched (s : State) (n : Nat) : State := State.dictChange { s with blk := { s.blk with active := n } }
theorem completes_dswitch {s : State} {f : Fields} (some : s.en f ≠ 0) :
    Completes (.dswitch f) s fun t => t.blk.active = f.m 1 0 ∧ t.wp.rvalid = false ∧ t.wp.regs = s.wp.regs ∧ t.mem = s.mem ∧
      (∀ w ∈ t.blkNow.warps, ∀ l, l < 128 → (w.thread l).stale = true) ∧
      ∀ l, l < 128 → t.wp.thread l = if Mask.has s.iss.lanes l then { s.wp.thread l with pc := s.nextPc, stale := true }
        else { s.wp.thread l with stale := true } := by
  have h : exec (.dswitch f) s = .next (s.switched (f.m 1 0)).advance := by
    change Host.Outcome.next _ = _
    rw [State.whenEnabled_some some]; rfl
  have hd := State.dictChange_eq { s with blk := { s.blk with active := f.m 1 0 } }
  have ht (l : Nat) (hl : l < 128) : (s.switched (f.m 1 0)).advance.wp.thread l =
      if Mask.has s.iss.lanes l then { s.wp.thread l with pc := s.nextPc, stale := true } else { s.wp.thread l with stale := true } := by
    rw [(State.advance_advances (s.switched (f.m 1 0))).pcs l hl, State.switched, State.dictChange_thread _ hl, hd]
    rfl
  refine ⟨_, h, ?_, ?_, ?_, ?_, State.allStale_of (fun l hl => ?_) ?_, ht⟩
  · rw [State.advance_blk, State.switched, hd]
  · rw [State.switched, hd]; rfl
  · rw [State.switched, hd]; rfl
  · rw [State.advance_mem, State.switched, hd]
  · rw [ht l hl]; split <;> rfl
  · exact State.dictChange_others _
theorem completes_dsync (s : State) (f : Fields) : Completes (.dsync f) s fun t => (∀ l, l < 128 → t.wp.thread l =
      if Mask.has (s.en f) l then { s.wp.thread l with stale := false, pc := (t.wp.thread l).pc } else
        { s.wp.thread l with pc := (t.wp.thread l).pc }) ∧
    (∀ l, l < 128 → (t.wp.thread l).pc = if Mask.has s.iss.lanes l then s.nextPc else (s.wp.thread l).pc) ∧
    t = { s with wp := { s.wp with threads := t.wp.threads } } := by
  have ht (l : Nat) (hl : l < 128) := (State.advance_advances
    { s with wp := s.wp.mapThreads (s.en f) fun _ t => { t with stale := false } }).pcs l hl
  refine ⟨_, rfl, fun l hl => ?_, fun l hl => ?_, rfl⟩
  · rw [ht l hl, Warp.thread_mapThreads _ _ _ _ hl]
    split <;> split <;> rfl
  · rw [ht l hl, Warp.thread_mapThreads _ _ _ _ hl]
    split <;> split <;> rfl

/-! ## DREAD (R91) -/

/-- Results written one after another are facts about the lanes' values. -/
theorem PutsMany.congr_map {s t : State} {m : Mask} {is : List Nat} {d : Nat → Nat} {g h : Nat → Nat → Word}
    (p : PutsMany s t m (is.map fun i => (d i, g i))) (e : ∀ i l, l < 128 → g i l = h i l) :
    PutsMany s t m (is.map fun i => (d i, h i)) := by
  induction is generalizing s with
  | nil => exact p
  | cons i is ih =>
    obtain ⟨u, hu, hr⟩ := p
    exact ⟨u, hu.congr (e i), ih hr⟩
theorem State.readDict_sound {s : State} {n : Nat} (sound : s.dictPoisoned n = false) (m : Mask) (k : State → State) :
    s.readDict n m k = k s := by
  rw [State.readDict, sound]; rfl
/-- The word `i` of an entry of a dictionary, by the number of the entry. -/
def dreadWord (d : Dict) (i : Nat) (x : Word) : Word := BitVec.ofNat 32 (bits (Tab.get 0 d (x.toNat % 256)).toNat (32 * i) 32)
theorem dreadWord_eq (d : Dict) (i : Nat) (x : Word) :
    dreadWord d i x = BitVec.ofNat 32 ((Tab.get 0 d (x.toNat % 256)).toNat / 2 ^ (32 * i)) :=
  BitVec.eq_of_toNat_eq (by simp [dreadWord, bits, Nat.shiftRight_eq_div_pow])
/-- The six registers DREAD writes, and what it writes in them. -/
def State.dreadRegs (s : State) (f : Fields) : List (Nat × RegVal) :=
  (List.range 6).map fun i => (f.vd.toNat + i, lift1 (dreadWord (s.dict (if f.b 2 then s.blk.active else f.m 1 0)) i) (s.rvA f))
theorem completes_dread {s : State} {f : Fields} (some : s.en f ≠ 0)
    (sound : s.dictPoisoned (if f.b 2 then s.blk.active else f.m 1 0) = false) :
    Completes (.dread f) s fun t => ∃ u, PutsMany s u (s.en f) ((List.range 6).map fun i => (f.vd.toNat + i, fun l =>
      BitVec.ofNat 32 ((Tab.get 0 (s.dict (if f.b 2 then s.blk.active else f.m 1 0)) ((s.opA f l).toNat % 256)).toNat / 2 ^ (32 * i)))) ∧
      Advances u t := by
  have h : exec (.dread f) s = .next (s.writeRegs (s.en f) (s.dreadRegs f)).advance := by
    change Host.Outcome.next _ = _
    rw [State.whenEnabled_some some, State.readDict_sound sound]; rfl
  refine ⟨_, h, _, ?_, State.advance_advances _⟩
  have hp := s.writeRegs_puts (s.en f) (s.dreadRegs f)
  rw [State.dreadRegs, List.map_map] at hp
  refine PutsMany.congr_map (d := fun i => f.vd.toNat + i) hp fun i l hl => ?_
  exact (at_lift1 _ _ _ hl).trans (dreadWord_eq _ _ _)
/-- Settles O37, instruction by instruction. -/
theorem dictionaryState : Obligations.DictionaryState := by
  unfold Obligations.DictionaryState
  exact fun f s some => ⟨completes_dswitch some, completes_dsync s f, completes_dread some⟩

end Sys2Proof.Machine
end

section
/-! PROOFS. Short forms (R72, R76, R80, R83): what DX does by its threads, its slot of the larder and its entry. -/
namespace Sys2Proof.Machine

/-! ## The dispatch of an expansion -/

/-- An expansion is performed as its instruction is. -/
theorem State.runExpansion_eq (s : State) {i : Instr} {op : Nat} {f : Fields} (h : i.isa = some (op, f)) : s.runExpansion i = exec i s := by
  cases i <;> cases h <;> rfl
theorem execLea_next (f : Fields) (s : State) : ∃ t, exec (.lea f) s = .next t := by
  change ∃ t, execLea f s = .next t
  unfold execLea
  split <;> exact ⟨_, rfl⟩
theorem execSread_next (f : Fields) (s : State) : ∃ t, exec (.sread f) s = .next t := by
  change ∃ t, execSread f s = .next t
  unfold execSread
  dsimp only
  split <;> exact ⟨_, rfl⟩
/-- An instruction of the map answers a next state. -/
theorem exec_next_of_isa {i : Instr} {op : Nat} {f : Fields} (h : i.isa = some (op, f)) (s : State) : ∃ t, exec i s = .next t := by
  cases i with
  | lea f => exact execLea_next f s
  | sread f => exact execSread_next f s
  | _ => cases h <;> exact ⟨_, rfl⟩

/-! ## The cases of DX -/

/-- A thread of the issuing group is stale (R83). -/
def State.groupStale (s : State) : Prop := ∃ l, l < 128 ∧ Mask.has s.iss.lanes l = true ∧ (s.wp.thread l).stale = true
theorem State.any_stale_iff {s : State} : (Mask.lanes s.iss.lanes).any (fun l => (s.wp.thread l).stale) = true ↔ s.groupStale := by
  simp [State.groupStale, Mask.mem_lanes, and_assoc]
/-- The issue of a short form before it is expanded (R76). -/
abbrev State.shortForm (s : State) (d : Word) : State :=
  { s with iss := { s.iss with d32 := some d, word := d.setWidth 128, exp := false } }
/-- The issue of a short form that is performed as its expansion (R76). -/
abbrev State.expanded (s : State) (d : Word) (x : BitVec 128) (named : List Nat) : State :=
  { s with iss := { s.iss with d32 := some d, word := x, exp := true, named := named } }
theorem State.expand_stale {s : State} (h : s.groupStale) (p : BitVec 22) (e : BitVec 8) : s.expand p e = .error (0x03, 0) := by
  rw [State.expand, if_pos (State.any_stale_iff.2 h)]
theorem State.expand_undefined {s : State} {p : BitVec 22} {e : BitVec 8} (fresh : ¬ s.groupStale)
    (invalid : entryValid (Tab.get 0 (s.dict s.blk.active) e.toNat) = false) : s.expand p e = .error (0x02, 0) := by
  rw [State.expand, if_neg (fun h => fresh (State.any_stale_iff.1 h))]
  dsimp only
  rw [invalid]; rfl
theorem State.expand_valid {s : State} {p : BitVec 22} {e : BitVec 8} {x : BitVec 128} (fresh : ¬ s.groupStale)
    (valid : entryValid (Tab.get 0 (s.dict s.blk.active) e.toNat) = true)
    (expands : expandEntry (Tab.get 0 (s.dict s.blk.active) e.toNat) p = some x) : s.expand p e = .ok x := by
  rw [State.expand, if_neg (fun h => fresh (State.any_stale_iff.1 h))]
  dsimp only
  rw [valid, expands]; rfl
/-- A group that reads no poisoned slot of the larder goes on to what its short form stands for. -/
theorem State.reads_sound {s : State} (sound : s.groupStale ∨ s.dictPoisoned s.blk.active = false) :
    ¬ (!(Mask.lanes s.iss.lanes).any (fun l => (s.wp.thread l).stale) && s.dictPoisoned s.blk.active) = true := by
  rcases sound with stale | sound
  · rw [State.any_stale_iff.2 stale]; exact Bool.false_ne_true
  · rw [sound, Bool.and_false]; exact Bool.false_ne_true
/-- A stale thread traps the group with DICT_ORDER (R83). -/
theorem execDx_stale {s : State} (h : s.groupStale) (p : BitVec 22) (e : BitVec 8) : exec (.dx p e) s =
    .next ((s.shortForm (dxWord p e)).trap 0x03 ((s.shortForm (dxWord p e)).fetchDetail 0) s.iss.lanes) := by
  change execDx p e s = _
  unfold execDx
  refine (if_neg (State.reads_sound (s := s.shortForm (dxWord p e)) (.inl h))).trans ?_
  rw [State.expand_stale (s := s.shortForm (dxWord p e)) h]
  rfl
/-- An undefined entry traps the group with DICT_UNDEF (R80). -/
theorem execDx_undefined {s : State} {p : BitVec 22} {e : BitVec 8} (fresh : ¬ s.groupStale) (sound : s.dictPoisoned s.blk.active = false)
    (invalid : entryValid (Tab.get 0 (s.dict s.blk.active) e.toNat) = false) : exec (.dx p e) s =
    .next ((s.shortForm (dxWord p e)).trap 0x02 ((s.shortForm (dxWord p e)).fetchDetail 0) s.iss.lanes) := by
  change execDx p e s = _
  unfold execDx
  refine (if_neg (State.reads_sound (s := s.shortForm (dxWord p e)) (.inr sound))).trans ?_
  rw [State.expand_undefined (s := s.shortForm (dxWord p e)) fresh invalid]
  rfl
/-- A valid entry that expands to an instruction is performed as that instruction (R80). -/
theorem execDx_expands {s : State} {p : BitVec 22} {e : BitVec 8} {x : BitVec 128} {j : Instr} {n : Nat} (fresh : ¬ s.groupStale)
    (sound : s.dictPoisoned s.blk.active = false) (valid : entryValid (Tab.get 0 (s.dict s.blk.active) e.toNat) = true)
    (expands : expandEntry (Tab.get 0 (s.dict s.blk.active) e.toNat) p = some x) (decoded : decodeF x = .ok j n) :
    exec (.dx p e) s = exec j (s.expanded (dxWord p e) x (touchesOf j)) := by
  obtain ⟨hop, -, -⟩ := decodeF_ok decoded
  rw [← State.runExpansion_eq _ (Instr.isa_of_ofOp hop)]
  change execDx p e s = _
  unfold execDx
  refine (if_neg (State.reads_sound (s := s.shortForm (dxWord p e)) (.inr sound))).trans ?_
  rw [State.expand_valid (s := s.shortForm (dxWord p e)) fresh valid expands]
  dsimp only
  rw [decoded]
/-- TRAPADDR of a fault of a short form: the short form, and the dictionary it was read in (R76). -/
theorem State.shortForm_detail (s : State) (d : Word) :
    (s.shortForm d).fetchDetail 0 = BitVec.ofNat 64 (s.blk.active % 4 * 2 ^ 38 + 2 ^ 36 + d.toNat) := by
  simp [State.fetchDetail]
theorem CanEnter.shortForm {s : State} (can : CanEnter s) (d : Word) : CanEnter (s.shortForm d) :=
  ⟨can.enabled, can.free, can.settled⟩
/-- Settles O43, by what the short form stands for. -/
theorem shortForms : Obligations.ShortForms := by
  unfold Obligations.ShortForms
  intro p e s d stale entry s1 detail
  have hdetail : (s.shortForm d).fetchDetail 0 = detail := s.shortForm_detail d
  refine ⟨fun x j n fresh sound valid expands decoded => ?_, fun can h => ?_, fun can fresh sound invalid => ?_⟩
  · obtain ⟨hop, -, -⟩ := decodeF_ok decoded
    obtain ⟨t, ht⟩ := exec_next_of_isa (Instr.isa_of_ofOp hop) (s.expanded d x (touchesOf j))
    exact ⟨t, (execDx_expands fresh sound valid expands decoded).trans ht, ht⟩
  · exact ⟨_, hdetail ▸ execDx_stale h p e, State.trap_enters (can.shortForm d) 0x03 detail s.iss.lanes⟩
  · exact ⟨_, hdetail ▸ execDx_undefined fresh sound invalid, State.trap_enters (can.shortForm d) 0x02 detail s.iss.lanes⟩

end Sys2Proof.Machine
end

section
/-! PROOFS. Dictionaries changed by DLOAD and DPATCH (R82, R87, R88, R92). -/
namespace Sys2Proof.Machine

/-! ## Uniform operands and one plain load (R86, R88) -/

theorem State.needU_uniform {s : State} (uniform : ∀ r, (s.wp.rv r).shape = 0) (rs : List Nat) (k : State → State) : s.needU rs k = k s := by
  have h : s.wp.firstNotU rs = none := by
    rw [Warp.firstNotU, List.filter_eq_nil_iff.2 fun r _ => by simp [uniform r]]; rfl
  unfold State.needU
  rw [h]
/-- The lines that a read fills are all that it changes (R218). -/
theorem State.fillFor_eq (s : State) (c : Ctx) (core va n : Nat) : ∃ x, s.fillFor c core va n = { s with caches := x } := by
  have fills (ps : List (Nat × Nat)) (key : Nat) (sealed : Bool) (s : State) : ∃ x,
      ps.foldl (fun s q => s.fill c.id core (s.keyName key) q.1 q.2 sealed) s = { s with caches := x } := by
    induction ps generalizing s with
    | nil => exact ⟨s.caches, rfl⟩
    | cons q ps ih => exact ih (s.fill c.id core (s.keyName key) q.1 q.2 sealed)
  unfold State.fillFor
  induction parts va n generalizing s with
  | nil => exact ⟨s.caches, rfl⟩
  | cons p ps ih =>
    rw [List.foldl_cons]
    split
    · next l _ =>
      obtain ⟨x, h⟩ := fills (linePieces l.pa p.2) l.key l.sealed s
      rw [h]
      exact ih { s with caches := x }
    · exact ih s
theorem State.forward_single {s : State} (single : s.blk.copy = .single) (x : Forward) : s.forward x = s := by
  rw [State.forward, single]; rfl
/-- An access of one address with no cause to stop asks for walks and is performed by every enabled thread (R212, R229). -/
theorem State.access_uniform {s : State} {f : Fields} {c : Ctx} (plain : Plain s f c) {a n need : Nat} {load store reads : Bool}
    (fine : ∀ l, l < 128 → Mask.has (s.en f) l = true → s.laneCause c ⟨fun _ => a, n, need, load, store, reads⟩ l = .fine)
    (k : State → Ctx → Mask → State) : ∃ is, s.access (s.en f) true ⟨fun _ => a, n, need, load, store, reads⟩ k =
      (k { s with agenda := is } c (s.en f)).goOn := by
  obtain ⟨some, -, whole, home, -, -⟩ := plain
  obtain ⟨is, hm⟩ := s.missTlb_eq s.blk.core c (([a] : List Nat).flatMap fun a => (parts a n).map Prod.fst)
  refine ⟨is, ?_⟩
  unfold State.access State.lostFirst
  rw [home, whole]
  simp only [if_true]
  refine (State.dealCauses_fine _ _ some fun l hl => causesOf_fine fine hl).trans ?_
  rw [← hm]
/-- A plain load with no cause to stop reads its bytes, fills caches, asks for walks, and goes on with `k` (R88, R212). -/
theorem State.plainLoad_fine {s : State} {f : Fields} {c : Ctx} {a n need : Nat} (plain : Plain s f c)
    (readable : ∀ l, l < 128 → Mask.has (s.en f) l = true → s.laneCause c ⟨fun _ => a, n, need, true, false, true⟩ l = .fine)
    (k : State → List Byte → State) : ∃ x is, s.plainLoad f a n need k = (k { s with caches := x, agenda := is } (s.loadVa c a n)).goOn := by
  have single := plain.single
  obtain ⟨is, ha⟩ := State.access_uniform plain readable fun t c _ =>
    k ((t.fillRange c a n).forward (.values (s.en f) (bytesWords (t.loadVa c a n)))) (t.loadVa c a n)
  obtain ⟨x, hf⟩ := State.fillFor_eq { s with agenda := is } c s.blk.core a n
  refine ⟨x, is, ?_⟩
  have ht : ¬ s.blk.copy = .trailing := by rw [single]; decide
  have hl : ¬ (s.blk.copy = .leading && s.pairBusy) = true := by rw [single]; exact Bool.false_ne_true
  unfold State.plainLoad
  rw [if_neg ht, if_neg hl]
  refine ha.trans ?_
  rw [State.fillRange, hf, State.forward_single (s := { s with caches := x, agenda := is }) single]
  rfl

/-! ## Warps that keep their threads -/

/-- The warps of the issuing block, as they are kept, have the threads they had. -/
def WarpsKeep (s t : State) : Prop := t.blk.warps.map Warp.threads = s.blk.warps.map Warp.threads
theorem WarpsKeep.refl (s : State) : WarpsKeep s s := rfl
theorem WarpsKeep.trans {s t u : State} (a : WarpsKeep s t) (b : WarpsKeep t u) : WarpsKeep s u := Eq.trans b a
theorem WarpsKeep.of_blk {s t : State} (h : t.blk = s.blk) : WarpsKeep s t := by rw [WarpsKeep, h]
theorem State.modBlk_keeps (s : State) (id : Nat) (g : Block → Block) (h : ∀ b, (g b).warps = b.warps) : WarpsKeep s (s.modBlk id g) := by
  unfold State.modBlk
  split
  · exact congrArg (List.map Warp.threads) (h s.blk)
  · exact .refl s
theorem State.useCellar_keeps (s : State) (b : Block) (w : Warp) (i : Nat) (read : Bool) : WarpsKeep s (s.useCellar b w i read) := by
  unfold State.useCellar
  split
  · exact .refl s
  · dsimp only
    split
    · exact s.modBlk_keeps _ _ fun _ => rfl
    · split
      · exact .refl s
      · split
        · exact .of_blk (by rw [s.storeVa_writes _ _ _]; rfl)
        · exact .refl s
theorem State.useOwnCellar_keeps (s : State) (i : Nat) (read : Bool) : WarpsKeep s (s.useOwnCellar i read) := s.useCellar_keeps _ _ _ _
theorem State.spillMark_keeps (s : State) (b w i : Nat) : WarpsKeep s (s.modWarp b w fun x => x.setSpilled i true) := by
  unfold State.modWarp
  split
  · split
    · exact .refl s
    · unfold WarpsKeep
      rw [List.map_map]
      refine List.map_congr_left fun v _ => ?_
      dsimp only [Function.comp]
      split <;> rfl
  · exact .refl s
theorem State.spill_keeps (s : State) (b w i : Nat) : WarpsKeep s (s.spill b w i) := by
  unfold State.spill
  dsimp only
  split
  · exact (s.spillMark_keeps b w i).trans (State.useCellar_keeps _ _ _ _ _)
  · exact s.spillMark_keeps b w i
theorem State.takeRow_keeps (s : State) (refill : Bool) : WarpsKeep s (s.takeRow refill).1 := by
  have spillOne : WarpsKeep s (match leastVictim (s.victims s.blk.core s.iss.named) with
      | some (_, b, w, r) => (s.spill b w r, true)
      | none => (s, false)).1 := by
    split
    · exact s.spill_keeps _ _ _
    · exact .refl s
  unfold State.takeRow
  dsimp only
  split
  · split
    · exact .refl s
    · exact spillOne
  · split
    · exact .refl s
    · split
      · exact .refl s
      · exact spillOne
theorem State.putRow_keeps (s : State) (d : Nat) (row : Row) : WarpsKeep s (s.putRow d row) := by
  unfold State.putRow
  dsimp only
  split
  · have h := s.takeRow_keeps false
    rcases ht : s.takeRow false with ⟨s1, won⟩
    rw [ht] at h
    cases won
    · simp only [Bool.false_eq_true, if_false]
      exact h.trans (State.useOwnCellar_keeps (s1.setRow d row true) d false)
    · exact h
  · split
    · have h := (s.useOwnCellar_keeps d true).trans ((s.useOwnCellar d true).takeRow_keeps true)
      rcases ht : (s.useOwnCellar d true).takeRow true with ⟨s1, won⟩
      rw [ht] at h
      cases won
      · simp only [Bool.false_eq_true, if_false]
        exact h.trans (State.useOwnCellar_keeps (s1.setRow d row true) d false)
      · exact h
    · exact .refl s
/-- Writing a register changes no thread of the block's warps (R105-R111). -/
theorem State.writeReg_keeps (s : State) (d : Nat) (m : Mask) (x : RegVal) : WarpsKeep s (s.writeReg d m x) := by
  unfold State.writeReg
  split
  · exact .refl s
  · split
    · exact .refl s
    · exact State.putRow_keeps { s with free := s.free + 1 } d (s.mergeRow d m x)

/-! ## A change of a dictionary of one block (R82) -/

/-- Slot `k` of the issuing block's core holds `y`, and every thread of the block is stale. -/
def State.rebound (s : State) (k : Nat) (y : LarderSlot) : State := (s.setLarder s.blk.core k (some y)).dictChange
theorem State.changeDict_own {s : State} {n k : Nat} {x : LarderSlot} (bound : s.blk.binds.getD n none = some k)
    (held : s.larderSlot s.blk.core k = some x) (alone : x.count = 1) (g : Dict → Dict) (keeps : Bool) (m : Mask) (h : State → State) :
    s.changeDict n g keeps m h = h (s.rebound k { x with modified := true, entries := g x.entries, poisoned := keeps && x.poisoned }) := by
  unfold State.changeDict
  rw [bound]
  simp only [Option.bind_some, held, Option.map_some, alone, if_true]
  rfl
theorem State.larderSlot_setLarder {s : State} {core k : Nat} {x : LarderSlot} (y : LarderSlot) (held : s.larderSlot core k = some x)
    (placed : core < s.cores.length) : (s.setLarder core k (some y)).larderSlot core k = some y := by
  rw [State.larderSlot, State.setLarder, State.core_modCore_same _ _ placed]
  have hk : k < (s.core core).larder.length := by
    refine Nat.lt_of_not_le fun h => ?_
    rw [State.larderSlot, List.getD_eq_getElem?_getD, List.getElem?_eq_none h] at held
    cases held
  rw [List.getD_eq_getElem?_getD, List.getElem?_set_self hk]
  rfl
theorem State.larderSlot_rebound {s : State} {k : Nat} {x : LarderSlot} (y : LarderSlot) (held : s.larderSlot s.blk.core k = some x)
    (placed : s.blk.core < s.cores.length) : (s.rebound k y).larderSlot s.blk.core k = some y := by
  rw [State.rebound, State.dictChange_eq]
  exact State.larderSlot_setLarder y held placed
theorem State.rebound_thread (s : State) (k : Nat) (y : LarderSlot) {l : Nat} (hl : l < 128) :
    (s.rebound k y).wp.thread l = { s.wp.thread l with stale := true } := State.dictChange_thread _ hl
theorem State.rebound_live (s : State) (k : Nat) (y : LarderSlot) : (s.rebound k y).wp.live = s.wp.live := by
  rw [State.rebound, State.dictChange_eq]
  exact Thread.live_mapThreads s.wp Mask.all _ fun _ _ => rfl

/-! ## What DLOAD and DPATCH answer (R87, R88, R92) -/

/-- Slot `k` holds `y`, the enabled threads read 0 from VD, every thread of the block is stale, and the group goes on. -/
def DictChanged (s t : State) (f : Fields) (k : Nat) (y : LarderSlot) : Prop :=
  t.larderSlot s.blk.core k = some y ∧
  (∀ l, l < 128 → Mask.has (s.en f) l = true → Mask.has s.wp.live l = true → t.wp.val f.vd.toNat l = 0) ∧
  (∀ w ∈ t.blkNow.warps, ∀ l, l < 128 → (w.thread l).stale = true) ∧
  ∀ l, l < 128 → t.wp.thread l = if Mask.has s.iss.lanes l then { s.wp.thread l with pc := s.nextPc, stale := true }
    else { s.wp.thread l with stale := true }
/-- No dictionary changes, the region ends, and VD takes the status word. -/
def DictRefused (s t : State) (f : Fields) (entry sub : Nat) : Prop :=
  ∃ u : State, u = { s with caches := u.caches, agenda := u.agenda, wp := { s.wp with rvalid := false } } ∧
    Results u t f.vd.toNat (s.en f) fun _ => dictStatus entry sub

section
variable {s : State} {f : Fields} {c : Ctx} {k : Nat} {x : LarderSlot}

/-- A register written by the issuing group: its threads stand where they stood. -/
theorem Puts.stands {u v : State} {d : Nat} {m : Mask} {g : Nat → Word} (p : Puts u v d m g)
    (h : ∀ l, l < 128 → Mask.has u.iss.lanes l = true → (u.wp.thread l).status = .eligible ∧ (u.wp.thread l).pc = u.iss.pc) :
    ∀ l, l < 128 → Mask.has v.iss.lanes l = true → (v.wp.thread l).status = .eligible ∧ (v.wp.thread l).pc = v.iss.pc := by
  have hi : v.iss = u.iss := by rw [p.rest]; rfl
  rw [hi, p.warp]
  exact h
/-- The end of a DLOAD or DPATCH that changed the slot. -/
theorem State.rebound_changed (plain : Plain s f c) (held : s.larderSlot s.blk.core k = some x) (placed : s.blk.core < s.cores.length)
    (dest : f.vd.toNat < 384) (y : LarderSlot) (cs : List CacheLine) (is : List Instr) {u : State}
    (hu : u = State.rebound { s with caches := cs, agenda := is } k y) :
    DictChanged s (u.writeReg f.vd.toNat (s.en f) (.u 0)).goOn f k y := by
  have thread (l : Nat) (hl : l < 128) : u.wp.thread l = { s.wp.thread l with stale := true } := by
    rw [hu]; exact State.rebound_thread _ _ _ hl
  have iss : u.iss = s.iss := by rw [hu, State.rebound, State.dictChange_eq]; rfl
  have p : Puts u _ f.vd.toNat (s.en f) _ := u.writeReg_puts f.vd.toNat (s.en f) (.u 0)
  generalize hv : u.writeReg f.vd.toNat (s.en f) (.u 0) = v at p
  have adv : Advances v v.goOn := State.goOn_advances (p.stands fun l hl hi => by
    rw [thread l hl, iss]; exact plain.stands l hl (by rwa [iss] at hi))
  have vthread (l : Nat) (hl : l < 128) : v.wp.thread l = { s.wp.thread l with stale := true } := by
    rw [p.warp]; exact thread l hl
  have viss : v.iss = s.iss := by rw [p.rest, ← iss]; rfl
  have tthread (l : Nat) (hl : l < 128) : v.goOn.wp.thread l = if Mask.has s.iss.lanes l then
      { s.wp.thread l with pc := s.nextPc, stale := true } else { s.wp.thread l with stale := true } := by
    rw [adv.pcs l hl, vthread l hl, State.nextPc, viss]; rfl
  refine ⟨?_, fun l hl hen live => ?_, ?_, tthread⟩
  · have hc : v.goOn.cores = u.cores := by rw [adv.frame, p.rest]; rfl
    have hs := State.larderSlot_rebound (s := { s with caches := cs, agenda := is }) y held placed
    rw [← hu] at hs
    rw [← hs, State.larderSlot, State.larderSlot, State.core, State.core, hc]
  · have hlive : u.wp.live = s.wp.live := by rw [hu]; exact State.rebound_live _ _ _
    have hval := p.value (by omega) l hl (by rw [hlive]; exact live)
    rw [if_pos hen] at hval
    rw [adv.frame]
    exact hval
  · refine State.allStale_of (fun l hl => ?_) fun w hw l hl => ?_
    · rw [tthread l hl]; split <;> rfl
    · have hk : v.goOn.blk.warps.map Warp.threads = u.blk.warps.map Warp.threads := by
        rw [adv.frame, ← hv]; exact u.writeReg_keeps _ _ _
      obtain ⟨w', hw', e⟩ := List.mem_map.1 (hk ▸ List.mem_map_of_mem hw)
      have hs : (w'.thread l).stale = true := by
        rw [hu] at hw'
        exact State.dictChange_others _ w' hw' l hl
      rwa [Warp.thread, e] at hs
/-- The end of a DLOAD or DPATCH that is refused. -/
theorem State.spoiled_refused (plain : Plain s f c) (entry sub : Nat) (cs : List CacheLine) (is : List Instr) :
    DictRefused s ((State.spoilRegion { s with caches := cs, agenda := is }).writeReg f.vd.toNat (s.en f)
      (.u (dictStatus entry sub))).goOn f entry sub := by
  have p : Puts (State.spoilRegion { s with caches := cs, agenda := is }) _ f.vd.toNat (s.en f) fun _ => dictStatus entry sub :=
    State.writeReg_puts _ f.vd.toNat (s.en f) (.u (dictStatus entry sub))
  exact ⟨_, rfl, _, p, State.goOn_advances (p.stands plain.stands)⟩

/-! ## DLOAD and DPATCH -/

/-- What DLOAD does with the bytes of its image (R88). -/
def State.loadImage (f : Fields) (s : State) (bs : List Byte) : State :=
  match imageCheck bs with
  | .error (entry, sub) => s.spoilRegion.writeReg f.vd.toNat (s.en f) (.u (dictStatus entry sub))
  | .ok d => s.changeDict (f.m 1 0) (fun _ => d) false (s.en f) fun s => s.writeReg f.vd.toNat (s.en f) (.u 0)
theorem exec_dload (some : s.en f ≠ 0) (uniform : ∀ r, (s.wp.rv r).shape = 0) :
    exec (.dload f) s = .next (s.plainLoad f (s.imageAddr f) 6208 64 (State.loadImage f)) := by
  change Host.Outcome.next _ = _
  rw [State.whenEnabled_some some, State.needU_uniform uniform]
  rfl
theorem exec_dpatch_load (some : s.en f ≠ 0) (uniform : ∀ r, (s.wp.rv r).shape = 0) (long : f.isF128 = true) :
    exec (.dpatch f) s = .next (s.plainLoad f (f.e 56 0) 24 8 fun s bs => s.patch f (entryOf bs)) := by
  change Host.Outcome.next _ = _
  rw [State.whenEnabled_some some, State.needU_uniform uniform, if_pos long]
/-- The six registers of an entry, the lowest word first (R92). -/
def State.entryRegs (s : State) (r : Nat) : BitVec 192 :=
  s.wp.val (r + 5) 0 ++ (s.wp.val (r + 4) 0 ++ (s.wp.val (r + 3) 0 ++ (s.wp.val (r + 2) 0 ++ (s.wp.val (r + 1) 0 ++ s.wp.val r 0))))
theorem ofBytes_wordBytes_cons (x : RegVal) (xs : List RegVal) :
    ofBytes (wordBytes (x :: xs)) = (x.at 0).toNat + 2 ^ 32 * ofBytes (wordBytes xs) := by
  have := (x.at 0).isLt
  simp only [wordBytes, List.flatMap_cons, bytesOf, List.cons_append, List.nil_append, ofBytes, BitVec.toNat_ofNat]
  omega
theorem toNat_append_eq {m n : Nat} (a : BitVec m) (b : BitVec n) : (a ++ b).toNat = b.toNat + 2 ^ n * a.toNat := by
  rw [BitVec.toNat_append, ← Nat.shiftLeft_add_eq_or_of_lt b.isLt, Nat.shiftLeft_eq, Nat.mul_comm, Nat.add_comm]
/-- The bytes of six registers as an entry. -/
theorem entryOf_wordBytes (s : State) (r : Nat) :
    entryOf (wordBytes ((List.range 6).map fun i => s.wp.rv (r + i))) = s.entryRegs r := by
  refine BitVec.eq_of_toNat_eq ?_
  have h (i : Nat) := (s.wp.val (r + i) 0).isLt
  have h0 := h 0; have h1 := h 1; have h2 := h 2; have h3 := h 3; have h4 := h 4; have h5 := h 5
  have hr : (List.range 6).map (fun i => s.wp.rv (r + i)) =
      [s.wp.rv (r + 0), s.wp.rv (r + 1), s.wp.rv (r + 2), s.wp.rv (r + 3), s.wp.rv (r + 4), s.wp.rv (r + 5)] := rfl
  rw [entryOf, BitVec.toNat_ofNat, hr, State.entryRegs]
  simp only [ofBytes_wordBytes_cons, toNat_append_eq, show ofBytes (wordBytes []) = 0 from rfl]
  change ((s.wp.val (r + 0) 0).toNat + 2 ^ 32 * ((s.wp.val (r + 1) 0).toNat + 2 ^ 32 * ((s.wp.val (r + 2) 0).toNat +
    2 ^ 32 * ((s.wp.val (r + 3) 0).toNat + 2 ^ 32 * ((s.wp.val (r + 4) 0).toNat + 2 ^ 32 * ((s.wp.val (r + 5) 0).toNat +
    2 ^ 32 * 0)))))) % 2 ^ 192 = _
  rw [Nat.add_zero] at h0 ⊢
  omega
theorem exec_dpatch_regs (some : s.en f ≠ 0) (uniform : ∀ r, (s.wp.rv r).shape = 0) (short : f.isF128 = false) :
    exec (.dpatch f) s = .next (s.patch f (s.entryRegs f.vb.toNat)).goOn := by
  change Host.Outcome.next _ = _
  rw [State.whenEnabled_some some, State.needU_uniform uniform, if_neg (by simp [short]), entryOf_wordBytes]

theorem State.en_rebound (s : State) (f : Fields) (k : Nat) (y : LarderSlot) : (s.rebound k y).en f = s.en f := by
  have hi : (s.rebound k y).iss = s.iss := by rw [State.rebound, State.dictChange_eq]; rfl
  refine Mask.ext fun l hl => ?_
  rw [State.en, State.en, Mask.has_maskOf _ _ hl, Mask.has_maskOf _ _ hl, hi, Warp.pred, Warp.pred, State.rebound_thread _ _ _ hl]
section
variable (plain : Plain s f c) (bound : s.blk.binds.getD (f.m 1 0) none = some k) (held : s.larderSlot s.blk.core k = some x)
  (alone : x.count = 1) (placed : s.blk.core < s.cores.length) (dest : f.vd.toNat < 384)
include plain bound held alone placed dest

/-- A change of the dictionary that MOD names, and then 0 in VD (R82, R87). -/
theorem State.changeDict_changed (g : Dict → Dict) (keeps : Bool) (cs : List CacheLine) (is : List Instr) (m : Mask) :
    DictChanged s (State.changeDict { s with caches := cs, agenda := is } (f.m 1 0) g keeps m fun s =>
        s.writeReg f.vd.toNat (s.en f) (.u 0)).goOn f k
      { x with modified := true, entries := g x.entries, poisoned := keeps && x.poisoned } := by
  rw [State.changeDict_own (s := { s with caches := cs, agenda := is }) bound held alone, State.en_rebound]
  exact State.rebound_changed plain held placed dest _ cs is rfl
/-- DPATCH of an entry, as R92 judges it. -/
theorem State.patch_answers (e : BitVec 192) (cs : List CacheLine) (is : List Instr) :
    ((entryValid e = true → entryFault e = none) → DictChanged s (State.patch { s with caches := cs, agenda := is } f e).goOn f k
      { x with modified := true, entries := Tab.set 0 x.entries (s.uni f.va.toNat % 256) e, poisoned := x.poisoned }) ∧
    (∀ sub, entryValid e = true → entryFault e = some sub →
      DictRefused s (State.patch { s with caches := cs, agenda := is } f e).goOn f (s.uni f.va.toNat % 256) sub) := by
  unfold State.patch
  refine ⟨fun sound => ?_, fun sub valid fault => ?_⟩
  · have h : (if entryValid e then entryFault e else none) = none := by
      split
      · next valid => exact sound valid
      · rfl
    rw [h]
    exact State.changeDict_changed plain bound held alone placed dest _ true cs is _
  · rw [if_pos valid, fault]
    exact State.spoiled_refused plain _ sub cs is
end
end

/-- Settles O38: the change or the refusal of the image or entry, from memory or from registers. -/
theorem dictionaryChanges : Obligations.DictionaryChanges := by
  unfold Obligations.DictionaryChanges
  intro f s c k x plain uniform bound held alone placed dest changed refused readable i patches
  refine ⟨fun fine => ?_, fun long fine => ?_, fun short => ?_⟩
  · obtain ⟨cs, is, h⟩ := State.plainLoad_fine plain fine (State.loadImage f)
    have he := (exec_dload plain.some uniform).trans (congrArg Host.Outcome.next h)
    refine ⟨fun d hd => ⟨_, he, ?_⟩, fun entry sub hd => ⟨_, he, ?_⟩⟩
    · rw [State.loadImage, hd]
      exact State.changeDict_changed plain bound held alone placed dest (fun _ => d) false cs is _
    · rw [State.loadImage, hd]
      exact State.spoiled_refused plain entry sub cs is
  · obtain ⟨cs, is, h⟩ := State.plainLoad_fine plain fine fun s bs => s.patch f (entryOf bs)
    have he := (exec_dpatch_load plain.some uniform long).trans (congrArg Host.Outcome.next h)
    obtain ⟨sound, faulty⟩ := State.patch_answers plain bound held alone placed dest (entryOf (s.loadVa c (f.e 56 0) 24)) cs is
    exact ⟨fun h => ⟨_, he, sound h⟩, fun sub valid fault => ⟨_, he, faulty sub valid fault⟩⟩
  · have he := exec_dpatch_regs plain.some uniform short
    obtain ⟨sound, faulty⟩ := State.patch_answers plain bound held alone placed dest (s.entryRegs f.vb.toNat) s.caches s.agenda
    exact ⟨fun h => ⟨_, he, sound h⟩, fun sub valid fault => ⟨_, he, faulty sub valid fault⟩⟩

end Sys2Proof.Machine
end

section
/-! PROOFS. The shape a write gives its destination, the shapes of results (R102, R103, R105), and ShapesOfResults. -/
namespace Sys2Proof.Machine

/-! ## The shape a write leaves (R105) -/

/-- The mask of a write holds every live lane (R105). -/
def State.fullWrite (s : State) (m : Mask) : Bool := s.wp.live &&& ~~~m = 0
/-- A row stands in its register, whatever was spilled for it, and every other register as before. -/
theorem State.rv_putRow (s : State) (d : Nat) (row : Row) (r : Nat) : (s.putRow d row).wp.rv r = if r = d then .v row else s.wp.rv r := by
  obtain ⟨u, spilled, before, after, -⟩ := s.putRow_cases d row
  rw [after.values, State.setRow, Warp.rv_set, before.values]
theorem State.rv_putCompact (s : State) (d : Nat) (x : RegVal) (r : Nat) : (s.putCompact d x).wp.rv r = if r = d then x else s.wp.rv r :=
  Warp.rv_set s.wp d r s.writes x false
theorem RegVal.compact_iff {x : RegVal} : x.compact = true ↔ x.shape ≠ 2 := by simp [RegVal.compact]
theorem RegVal.shape_of_not_compact {x : RegVal} (h : ¬ x.compact = true) : x.shape = 2 :=
  Decidable.not_not.1 (mt RegVal.compact_iff.2 h)
section
variable {s : State} {d : Nat} {m : Mask} (dest : d ≠ 511) (enabled : m ≠ 0)
include dest enabled

/-- A write of some lane to a register that is not the null destination. -/
theorem State.writeReg_eq (x : RegVal) : s.writeReg d m x =
    if s.fullWrite m && x.compact then s.putCompact d x else { s with free := s.free + 1 }.putRow d (s.mergeRow d m x) := by
  have h : ¬ (d = 511 || m = 0) = true := by rw [Bool.or_eq_true, decide_eq_true_eq, decide_eq_true_eq]; exact not_or.2 ⟨dest, enabled⟩
  rw [State.writeReg, if_neg h]
  rfl
/-- A full write of a compact value leaves it in the register as it is. -/
theorem State.writeReg_full_compact {x : RegVal} (full : s.fullWrite m = true) (compact : x.compact = true) :
    (s.writeReg d m x).wp.rv d = x := by
  rw [State.writeReg_eq dest enabled, if_pos (by rw [full, compact]; rfl), State.rv_putCompact, if_pos rfl]
/-- A full write gives the register the shape of the value, a partial one V. -/
theorem State.shape_writeReg (x : RegVal) :
    ((s.writeReg d m x).wp.rv d).shape = if s.fullWrite m then x.shape else 2 := by
  by_cases h : s.fullWrite m = true ∧ x.compact = true
  · rw [State.writeReg_full_compact dest enabled h.1 h.2, if_pos h.1]
  · have row : ((s.writeReg d m x).wp.rv d).shape = 2 := by
      rw [State.writeReg_eq dest enabled, if_neg (by rwa [Bool.and_eq_true]), State.rv_putRow, if_pos rfl]
      rfl
    rw [row]
    split
    · next full => exact (RegVal.shape_of_not_compact fun compact => h ⟨full, compact⟩).symm
    · rfl
end

/-! ## The shapes of sums, differences, products and left shifts (R103) -/

/-- What a compact value adds from lane to lane. -/
def RegVal.stride : RegVal → Option Word
  | .u _ => some 0
  | .a _ d => some d
  | .v _ => none
/-- The shape code of a result by its stride: a stride of 0 is U, none is V (R102). -/
def strideShape : Option Word → Nat
  | none => 2
  | some d => if d = 0 then 0 else 1
/-- The stride of a product: one source U, the other compact. -/
def RegVal.mulStride (a b : RegVal) : Option Word :=
  match a, b with
  | .u _, .u _ => some 0
  | .u x, .a _ d => some (x * d)
  | .a _ d, .u y => some (d * y)
  | _, _ => none
/-- The stride of a left shift: the amount U, and below 32 when the other source is A. -/
def RegVal.shlStride (a k : RegVal) : Option Word :=
  match a, k with
  | .u _, .u _ => some 0
  | .a _ d, .u k => if k.toNat < 32 then some (d <<< k.toNat) else none
  | _, _ => none

theorem RegVal.shape_affine (b d : Word) : (RegVal.affine b d).shape = strideShape (some d) := by
  change _ = if d = 0 then 0 else 1
  unfold RegVal.affine
  split
  · rfl
  · rfl
theorem RegVal.shape_add (a b : RegVal) :
    (a.add b).shape = strideShape (a.stride.bind fun x => b.stride.map fun y => x + y) := by
  cases a with
  | u x =>
    cases b with
    | u y => rfl
    | a q e => exact (RegVal.shape_affine _ _).trans (congrArg (strideShape ∘ some) (BitVec.zero_add e).symm)
    | v row => rfl
  | a p d =>
    cases b with
    | u y => exact (RegVal.shape_affine _ _).trans (congrArg (strideShape ∘ some) (BitVec.add_zero d).symm)
    | a q e => exact RegVal.shape_affine _ _
    | v row => rfl
  | v row => cases b <;> rfl
theorem RegVal.shape_sub (a b : RegVal) :
    (a.sub b).shape = strideShape (a.stride.bind fun x => b.stride.map fun y => x - y) := by
  cases a with
  | u x =>
    cases b with
    | u y => rfl
    | a q e => exact (RegVal.shape_affine _ _).trans (congrArg (strideShape ∘ some) (BitVec.zero_sub e).symm)
    | v row => rfl
  | a p d =>
    cases b with
    | u y => exact (RegVal.shape_affine _ _).trans (congrArg (strideShape ∘ some) (BitVec.sub_zero d).symm)
    | a q e => exact RegVal.shape_affine _ _
    | v row => rfl
  | v row => cases b <;> rfl
theorem RegVal.shape_mul (a b : RegVal) : (a.mul b).shape = strideShape (a.mulStride b) := by
  cases a with
  | u x =>
    cases b with
    | u y => rfl
    | a q e => exact RegVal.shape_affine _ _
    | v row => rfl
  | a p d =>
    cases b with
    | u y => exact RegVal.shape_affine _ _
    | a q e => rfl
    | v row => rfl
  | v row => cases b <;> rfl
theorem RegVal.shape_shl (a k : RegVal) : (a.shl k).shape = strideShape (a.shlStride k) := by
  cases a with
  | u x => cases k <;> rfl
  | a p d =>
    cases k with
    | u n =>
      unfold RegVal.shl RegVal.shlStride
      dsimp only
      split
      · exact RegVal.shape_affine _ _
      · rfl
    | a q e => rfl
    | v row => rfl
  | v row => cases k <;> rfl

/-! ## The five instructions without a modifier -/

section
variable {s : State} {f : Fields} (plain : f.mod = 0)
include plain

theorem exec_iadd_plain : exec (.iadd f) s = .next ((s.writeReg f.vd.toNat (s.en f) ((s.rvA f).add (s.rvB f))).raiseSat (s.en f)
    fun l => addClamps false 0 ((s.rvA f).at l) ((s.rvB f).at l)).advance := by
  change execIadd f s = _
  simp [execIadd, addMode, Fields.m, Fields.b, plain]
theorem exec_isub_plain : exec (.isub f) s = .next ((s.writeReg f.vd.toNat (s.en f) ((s.rvA f).sub (s.rvB f))).raiseSat (s.en f)
    fun l => addClamps true 0 ((s.rvA f).at l) ((s.rvB f).at l)).advance := by
  change execIsub f s = _
  simp [execIsub, addMode, Fields.m, plain]
theorem exec_shl_plain : exec (.shl f) s = .next (s.alu f ((s.rvA f).shl (s.rvB f))) := by
  change execShl f s = _
  simp [execShl, Fields.b, plain]
end
@[simp] theorem State.rv_advance (s : State) (r : Nat) : s.advance.wp.rv r = s.wp.rv r := rfl
@[simp] theorem State.rv_raiseSat (s : State) (m : Mask) (clamped : Nat → Bool) (r : Nat) :
    (s.raiseSat m clamped).wp.rv r = s.wp.rv r := rfl
theorem State.rv_alu (s : State) (f : Fields) (x : RegVal) (r : Nat) :
    (s.alu f x).wp.rv r = (s.writeReg f.vd.toNat (s.en f) x).wp.rv r := rfl
/-- An instruction that leaves in VD what a write of `x` leaves there gives VD the shape of `x`, or V where the write is partial. -/
theorem completes_shape {i : Instr} {f : Fields} {s t : State} (dest : f.vd.toNat ≠ 511) (enabled : s.en f ≠ 0) (x : RegVal)
    {d : Option Word} (h : exec i s = .next t) (written : t.wp.rv f.vd.toNat = (s.writeReg f.vd.toNat (s.en f) x).wp.rv f.vd.toNat)
    (hx : x.shape = strideShape d) :
    Completes i s fun t => (t.wp.rv f.vd.toNat).shape = if s.fullWrite (s.en f) then strideShape d else 2 :=
  ⟨t, h, by rw [← hx, ← State.shape_writeReg dest enabled, ← written]⟩
/-- A lane-wise instruction gives VD the shape of its result. -/
theorem completes_alu_shape {i : Instr} {f : Fields} {s : State} (dest : f.vd.toNat ≠ 511) (enabled : s.en f ≠ 0) {x : RegVal}
    {d : Option Word} (h : exec i s = .next (s.alu f x)) (hx : x.shape = strideShape d) :
    Completes i s fun t => (t.wp.rv f.vd.toNat).shape = if s.fullWrite (s.en f) then strideShape d else 2 :=
  completes_shape dest enabled x h (s.rv_alu f x _) hx
/-- A copy keeps a compact value as it is. -/
theorem completes_mov {f : Fields} {s : State} (dest : f.vd.toNat ≠ 511) (enabled : s.en f ≠ 0) :
    Completes (.mov f) s fun t => if s.fullWrite (s.en f) then
        (if (s.rvB f).compact then t.wp.rv f.vd.toNat = s.rvB f else (t.wp.rv f.vd.toNat).shape = 2)
      else (t.wp.rv f.vd.toNat).shape = 2 := by
  refine ⟨s.alu f (s.rvB f), rfl, ?_⟩
  have shape := State.shape_writeReg (s := s) dest enabled (s.rvB f)
  dsimp only
  rw [State.rv_alu]
  split
  next full =>
    split
    next compact => exact State.writeReg_full_compact dest enabled full compact
    next wide => rw [shape, if_pos full, RegVal.shape_of_not_compact wide]
  next part => rw [shape, if_neg part]
/-- Settles O9: each instruction writes the result R103 names, by the shape it has and the shape its write leaves. -/
theorem shapesOfResults : Obligations.ShapesOfResults := by
  unfold Obligations.ShapesOfResults
  intro f s dest enabled plain full stride code shape a b sum difference product shifted
  refine ⟨?add, ?sub, ?mul, ?shl, completes_mov dest enabled⟩
  case add => exact completes_shape dest enabled (a.add b) (exec_iadd_plain plain) (by simp [a, b]) (RegVal.shape_add a b)
  case sub => exact completes_shape dest enabled (a.sub b) (exec_isub_plain plain) (by simp [a, b]) (RegVal.shape_sub a b)
  case mul => exact completes_alu_shape dest enabled (x := a.mul b) rfl (RegVal.shape_mul a b)
  case shl => exact completes_alu_shape dest enabled (exec_shl_plain plain) (RegVal.shape_shl a b)

end Sys2Proof.Machine
end

section
/-! PROOFS. The predicate instructions PLOP, P2V and V2P (R120-R122). -/
namespace Sys2Proof.Machine

/-- The powers of 2 of the numbers below `n` that `g` holds for add up to the number with those bits. -/
theorem foldl_two_pow_eq_bitsOf (g : Nat → Bool) (n : Nat) :
    ((List.range n).filter g).foldl (fun x i => x + 2 ^ i) 0 = bitsOf g n := by
  induction n with
  | zero => rfl
  | succ n ih =>
    rw [List.range_succ, List.filter_append, List.foldl_append, ih, bitsOf]
    cases h : g n with
    | false => simp [h]
    | true => simp [h]
/-- Word `k` of the mask of the lanes `g` holds for (R121). -/
theorem maskOf_word (g : Nat → Bool) {k : Nat} (hk : k < 4) :
    (maskOf g >>> (32 * k)).setWidth 32 = BitVec.ofNat 32 (bitsOf (fun i => g (32 * k + i)) 32) := by
  refine BitVec.eq_of_getLsbD_eq fun i hi => ?_
  have lane : (maskOf g).getLsbD (32 * k + i) = g (32 * k + i) := Mask.has_maskOf g _ (by omega)
  rw [BitVec.getLsbD_setWidth, BitVec.getLsbD_ushiftRight, lane, BitVec.getLsbD_ofNat, testBit_bitsOf]
  simp [hi]
/-- The entry of PLOP's truth table that two predicates select (R120). -/
theorem plopEntry_eq (x y : Bool) : (if x then 2 else 0) + (if y then 1 else 0) = 2 * x.toNat + y.toNat := by
  cases x <;> cases y <;> rfl
/-- Settles O12: PLOP and V2P write one predicate, P2V the words of the group's mask. -/
theorem predicates : Obligations.Predicates := by
  unfold Obligations.Predicates
  intro f s p q word
  refine ⟨⟨_, rfl, ?plop⟩, ⟨_, rfl, ?p2v⟩, ⟨_, rfl, ?v2p⟩⟩
  case plop =>
    have entry : (fun l => f.b ((if p l then 2 else 0) + if q l then 1 else 0)) =
        fun l => f.mod.getLsbD (2 * (p l).toNat + (q l).toNat) := funext fun l => congrArg f.b (plopEntry_eq (p l) (q l))
    rw [← entry]
    exact s.aluPred_results f _
  case p2v =>
    have written {k : Nat} (hk : k < 4) : word k =
        (maskOf (fun l => Mask.has (s.en f) l && p l) >>> (32 * k)).setWidth 32 := by
      rw [maskOf_word _ hk, ← foldl_two_pow_eq_bitsOf]
    refine ⟨_, ?_, State.advance_advances _⟩
    rw [written (show 0 < 4 by decide), written (show 1 < 4 by decide), written (show 2 < 4 by decide), written (show 3 < 4 by decide)]
    exact s.writeRegs_puts _ _
  case v2p =>
    have read (l : Nat) : (s.wp.val f.va.toNat l != 0) = decide (s.opA f l ≠ 0) :=
      Bool.eq_iff_iff.2 (bne_iff_ne.trans decide_eq_true_iff.symm)
    simp only [← read]
    exact s.aluPred_results f _

end Sys2Proof.Machine
end

section
/-! PROOFS. The shape instructions SHQ, SHASSERT, SHFORCE and SHNARROW (R115-R119). -/
namespace Sys2Proof.Machine

/-! ## A register that takes another shape -/

/-- `t` is `s` after register `r` of the issuing warp took another shape: every live lane reads as before, and of the warp only
registers change. -/
structure Reshapes (s t : State) (r : Nat) : Prop where
  value : ∀ q l, l < 128 → Mask.has s.wp.live l = true → t.wp.val q l = s.wp.val q l
  others : ∀ q, q ≠ r → t.wp.rv q = s.wp.rv q
  warp : t.wp = { s.wp with regs := t.wp.regs }
theorem Reshapes.refl (s : State) (r : Nat) : Reshapes s s r := ⟨fun _ _ _ _ => rfl, fun _ _ => rfl, rfl⟩
/-- A shaped value holds in every live lane what register `r` holds there. -/
def State.agrees (s : State) (r : Nat) (x : RegVal) : Prop :=
  ∀ l, l < 128 → Mask.has s.wp.live l = true → x.at l = s.wp.val r l
/-- A register that takes a value which agrees with its own takes a shape alone. -/
theorem Reshapes.of_rv {s t : State} {r : Nat} {x : RegVal} (agrees : s.agrees r x)
    (regs : ∀ q, t.wp.rv q = if q = r then x else s.wp.rv q) (warp : t.wp = { s.wp with regs := t.wp.regs }) : Reshapes s t r where
  value q l hl live := by
    rw [Warp.val, regs]
    split
    next same => rw [agrees l hl live, same]
    next => rfl
  others q hq := by rw [regs, if_neg hq]
  warp := warp
theorem State.putCompact_reshapes {s : State} {r : Nat} {x : RegVal} (agrees : s.agrees r x) : Reshapes s (s.putCompact r x) r :=
  .of_rv agrees (s.rv_putCompact r x) rfl
theorem State.putRow_warp (s : State) (d : Nat) (row : Row) : (s.putRow d row).wp = { s.wp with regs := (s.putRow d row).wp.regs } := by
  obtain ⟨u, spilled, before, after, -⟩ := s.putRow_cases d row
  rw [after.warp, State.setRow, before.warp]
/-- A row that is put in a register without a spill changes no memory. -/
theorem State.putRow_mem {s : State} {d : Nat} (spare : s.spareRow d) (row : Row) : (s.putRow d row).mem = s.mem := by
  obtain ⟨-, -, -, -, eq⟩ := s.putRow_cases d row
  rw [eq spare]; rfl

/-- The state with register `r` in V: a compact one has a row of its lanes (R118). -/
def State.widen (s : State) (r : Nat) : State :=
  if (s.wp.rv r).compact then s.putRow r (Lanes.of fun l => s.wp.val r l) else s
theorem State.widen_reshapes (s : State) (r : Nat) : Reshapes s (s.widen r) r := by
  unfold State.widen
  split
  · exact .of_rv (fun _ hl _ => RegVal.at_lanes (s.wp.val r) _ hl) (s.rv_putRow r _) (s.putRow_warp r _)
  · exact .refl s r
theorem State.widen_shape (s : State) (r : Nat) : ((s.widen r).wp.rv r).shape = 2 := by
  unfold State.widen
  split
  next => rw [State.rv_putRow, if_pos rfl]; rfl
  next wide => exact RegVal.shape_of_not_compact wide
theorem State.widen_mem {s : State} {r : Nat} (spare : s.spareRow r) : (s.widen r).mem = s.mem := by
  unfold State.widen
  split
  · exact State.putRow_mem spare _
  · rfl

/-! ## Equal and affine registers (R118) -/

/-- Register `r` holds one value in every live lane. -/
def Warp.Equal (w : Warp) (r : Nat) : Prop :=
  ∀ l k, l < 128 → k < 128 → Mask.has w.live l = true → Mask.has w.live k = true → w.val r l = w.val r k
theorem Warp.equalReg_iff {w : Warp} {r : Nat} : w.equalReg r = true ↔ w.Equal r := by
  simp only [Warp.equalReg, List.all_eq_true, Mask.mem_lanes, decide_eq_true_eq]
  constructor
  · intro h l k hl hk live live'
    rw [h l ⟨hl, live⟩, h k ⟨hk, live'⟩]
  · intro h l ⟨hl, live⟩
    obtain ⟨hlow, low⟩ := Mask.low_has (Mask.ne_zero_of_has live)
    exact h l _ hl hlow live low
/-- The base and stride of an affine register give its live lanes. -/
theorem State.agrees_of_affineReg {s : State} {r : Nat} {b d : Word} (h : s.wp.affineReg r = some (b, d)) :
    s.agrees r (.affine b d) := by
  simp only [Warp.affineReg, Option.ite_none_right_eq_some, Bool.and_eq_true, List.all_eq_true, Mask.mem_lanes, decide_eq_true_eq,
    Option.some.injEq, Prod.mk.injEq] at h
  obtain ⟨⟨-, affine⟩, rfl, rfl⟩ := h
  intro l hl live
  rw [RegVal.at_affine, affine l ⟨hl, live⟩]
theorem RegVal.affine_compact (b d : Word) : (RegVal.affine b d).compact = true := by
  unfold RegVal.affine
  split
  · rfl
  · rfl

/-! ## Narrowing (R118, R119) -/

/-- Narrowing a register that holds one value leaves it U. -/
theorem State.narrow_equal {s : State} {r : Nat} (equal : s.wp.Equal r) :
    s.agrees r (.u (s.wp.val r (Mask.low s.wp.live))) ∧ s.narrow r = s.putCompact r (.u (s.wp.val r (Mask.low s.wp.live))) := by
  refine ⟨fun l hl live => ?_, by rw [State.narrow, if_pos (Warp.equalReg_iff.2 equal)]⟩
  obtain ⟨hlow, low⟩ := Mask.low_has (Mask.ne_zero_of_has live)
  exact equal _ l hlow hl low live
/-- Narrowing puts a compact value that agrees with the register, when it is equal or affine, and else changes nothing. -/
theorem State.narrow_cases (s : State) (r : Nat) :
    (∃ x, x.compact = true ∧ s.agrees r x ∧ s.narrow r = s.putCompact r x) ∨
    (¬ s.wp.Equal r ∧ s.wp.affineReg r = none ∧ s.narrow r = s) := by
  by_cases equal : s.wp.Equal r
  · obtain ⟨agrees, eq⟩ := State.narrow_equal equal
    exact .inl ⟨_, rfl, agrees, eq⟩
  · have unequal : ¬ s.wp.equalReg r = true := mt Warp.equalReg_iff.1 equal
    cases affine : s.wp.affineReg r with
    | none => exact .inr ⟨equal, rfl, by rw [State.narrow, if_neg unequal, affine]⟩
    | some bd => exact .inl ⟨_, RegVal.affine_compact bd.1 bd.2, State.agrees_of_affineReg affine,
        by rw [State.narrow, if_neg unequal, affine]⟩
/-- Narrowing changes a shape, and no memory. -/
theorem State.narrow_reshapes (s : State) (r : Nat) : Reshapes s (s.narrow r) r ∧ (s.narrow r).mem = s.mem := by
  obtain ⟨x, -, agrees, eq⟩ | ⟨-, -, eq⟩ := s.narrow_cases r
  · rw [eq]; exact ⟨State.putCompact_reshapes agrees, rfl⟩
  · rw [eq]; exact ⟨.refl s r, rfl⟩
theorem State.narrow_uniform {s : State} {r : Nat} (equal : s.wp.Equal r) : ((s.narrow r).wp.rv r).shape = 0 := by
  rw [(State.narrow_equal equal).2, State.rv_putCompact, if_pos rfl]
  rfl
theorem State.narrow_compact {s : State} {r : Nat} (h : s.wp.Equal r ∨ (s.wp.affineReg r).isSome) :
    ((s.narrow r).wp.rv r).compact = true := by
  obtain ⟨x, compact, -, eq⟩ | ⟨unequal, none, -⟩ := s.narrow_cases r
  · rw [eq, State.rv_putCompact, if_pos rfl, compact]
  · rw [none] at h
    exact absurd h (not_or.2 ⟨unequal, Bool.false_ne_true⟩)

/-! ## The instructions -/

section
variable {s : State} {f : Fields} (enabled : s.en f ≠ 0)
include enabled

theorem exec_shassert_allowed (allowed : f.mod.getLsbD (s.wp.rv f.va.toNat).shape = true) :
    exec (.shassert f) s = .next s.advance :=
  congrArg Host.Outcome.next ((State.whenEnabled_some enabled _).trans (if_pos allowed))
theorem exec_shassert_refused (refused : f.mod.getLsbD (s.wp.rv f.va.toNat).shape = false) :
    exec (.shassert f) s = .next (s.trap 0x05 (s.shapeAddr f.va.toNat) s.iss.lanes) :=
  congrArg Host.Outcome.next ((State.whenEnabled_some enabled _).trans (if_neg (Bool.eq_false_iff.1 refused)))
theorem exec_shnarrow : exec (.shnarrow f) s = .next
    ((s.narrow f.va.toNat).writePred f.vd.toNat (s.en f) fun _ => ((s.narrow f.va.toNat).wp.rv f.va.toNat).compact).advance :=
  congrArg Host.Outcome.next (State.whenEnabled_some enabled _)
/-- SHFORCE of a register that is equal or affine as MOD asks narrows it. -/
theorem exec_shforce_narrow (h : f.mod = 0 ∧ s.wp.Equal f.va.toNat ∨
      f.mod = 1 ∧ (s.wp.Equal f.va.toNat ∨ (s.wp.affineReg f.va.toNat).isSome)) :
    exec (.shforce f) s = .next (s.narrow f.va.toNat).advance := by
  refine congrArg Host.Outcome.next ((State.whenEnabled_some enabled _).trans ?_)
  obtain ⟨mode, equal⟩ | ⟨mode, equal | affine⟩ := h
  · simp [Fields.m, mode, Warp.equalReg_iff.2 equal]
  · simp [Fields.m, mode, Warp.equalReg_iff.2 equal]
  · simp [Fields.m, mode, Option.isSome_iff_ne_none.1 affine]
theorem exec_shforce_unequal (mode : f.mod = 0) (unequal : ¬ s.wp.Equal f.va.toNat) :
    exec (.shforce f) s = .next (s.trap 0x06 (s.shapeAddr f.va.toNat) s.iss.lanes) := by
  refine congrArg Host.Outcome.next ((State.whenEnabled_some enabled _).trans ?_)
  simp [Fields.m, mode, Bool.eq_false_iff.2 (mt Warp.equalReg_iff.1 unequal)]
theorem exec_shforce_widen (mode : f.mod = 2) : exec (.shforce f) s = .next (s.widen f.va.toNat).advance := by
  refine congrArg Host.Outcome.next ((State.whenEnabled_some enabled _).trans ?_)
  have kind : f.m 1 0 = 2 := by rw [Fields.m, mode]; rfl
  simp only [kind, Nat.reduceEqDiff, decide_false, Bool.false_and, Bool.or_self, Bool.false_eq_true, if_false, if_true,
    State.widen]
  split
  · rfl
  · rfl
end
theorem State.shapeAddr_eq (s : State) (f : Fields) : s.shapeAddr f.va.toNat =
    BitVec.ofNat 64 (s.wp.idx % 256 * 2 ^ 16 + (s.wp.rv f.va.toNat).shape * 2 ^ 10 + f.va.toNat) := by
  rw [State.shapeAddr, Nat.mod_eq_of_lt f.va.isLt]
/-- Settles O11, instruction by instruction: a change of shape by what putting a value that agrees with the register leaves alone. -/
theorem shapeInstructions : Obligations.ShapeInstructions := by
  unfold Obligations.ShapeInstructions
  intro f s enabled r w keeps equal
  have keeps_of {t : State} (h : Reshapes s t r) : keeps t := ⟨h.value, h.others⟩
  obtain ⟨narrowed, mem⟩ := s.narrow_reshapes r
  have widened := s.widen_reshapes r
  refine ⟨⟨_, rfl, s.alu_results f _⟩, fun allowed => ⟨_, exec_shassert_allowed enabled allowed, s.advance_advances⟩,
    fun mode uniform => ⟨_, exec_shforce_narrow enabled (.inl ⟨mode, uniform⟩), ?u⟩,
    fun mode compact => ⟨_, exec_shforce_narrow enabled (.inr ⟨mode, compact⟩), ?a⟩,
    fun mode => ⟨_, exec_shforce_widen enabled mode, ?v⟩, ⟨_, exec_shnarrow enabled, ?narrow⟩, fun can => ?traps⟩
  case u => exact ⟨_, keeps_of narrowed, State.narrow_uniform uniform, mem, narrowed.warp, State.advance_advances _⟩
  case a => exact ⟨_, keeps_of narrowed, State.narrow_compact compact, mem, narrowed.warp, State.advance_advances _⟩
  case v => exact ⟨_, keeps_of widened, s.widen_shape r, State.widen_mem, widened.warp, State.advance_advances _⟩
  case narrow =>
    exact ⟨_, _, keeps_of narrowed, State.narrow_uniform, mem, narrowed.warp, State.writePred_puts _ _ _ _, State.advance_advances _⟩
  case traps =>
    intro addr
    have found : s.shapeAddr r = addr := s.shapeAddr_eq f
    refine ⟨fun refused => ⟨_, exec_shassert_refused enabled refused, ?_⟩,
      fun mode unequal => ⟨_, exec_shforce_unequal enabled mode unequal, ?_⟩⟩
    · exact found ▸ State.trap_enters can 0x05 (s.shapeAddr r) s.iss.lanes
    · exact found ▸ State.trap_enters can 0x06 (s.shapeAddr r) s.iss.lanes

end Sys2Proof.Machine
end

section
/-! PROOFS. The float instructions that write at once (R189-R195, R199-R201, R204): a result for each lane, the flags of the enabled
threads, and nothing else. -/
namespace Sys2Proof.Machine

/-! ## Results and flags of a float instruction (R189, R193) -/

/-- `t` is `s` after VD took the results `g` in the enabled lanes, FPSTAT the flags of the enabled threads, and the group went on. -/
def FloatResult (s : State) (f : Fields) (g : Nat → Nat × FpFlags) (t : State) : Prop :=
  ∃ u v, Puts s u f.vd.toNat (s.en f) (fun l => BitVec.ofNat 32 (g l).1) ∧
    Raises u v ((Mask.lanes (s.en f)).foldl (fun x l => x ||| (g l).2) 0) ∧ Advances v t
theorem State.fpAlu_result (s : State) (f : Fields) {u : Bool} {g : Nat → Nat × FpFlags} (same : u = true → ∀ l, g l = g 0) :
    FloatResult s f g (s.fpAlu f u g) := by
  have flags : fpFlags (s.en f) u (fun l => (g l).2) = (Mask.lanes (s.en f)).foldl (fun x l => x ||| (g l).2) 0 :=
    fpFlags_eq fun h l => by rw [same h l]
  refine ⟨_, _, (s.writeReg_puts _ _ _).congr fun l hl => at_fpVal same l hl, ?_, State.advance_advances _⟩
  rw [← flags]; rfl
/-- Operands that are all U read the same in every lane (R102). -/
theorem RegVal.at_of_allU {rs : List RegVal} (uniform : allU rs = true) {r : RegVal} (operand : r ∈ rs) (l : Nat) : r.at l = r.at 0 :=
  RegVal.at_of_uniform (by simpa using List.all_eq_true.1 uniform r operand) l
theorem State.at_rvB (s : State) (f : Fields) (l : Nat) : (s.rvB f).at l = s.opB f l := by
  unfold State.rvB State.opB
  split <;> rfl

section
variable (s : State) (f : Fields)
theorem State.fpAlu_one (g : Word → Nat × FpFlags) :
    FloatResult s f (fun l => g (s.opA f l)) (s.fpAlu f (allU [s.rvA f]) fun l => g ((s.rvA f).at l)) :=
  s.fpAlu_result f fun uniform l => congrArg g (RegVal.at_of_allU uniform (.head _) l)
theorem State.fpAlu_two (g : Word → Word → Nat × FpFlags) : FloatResult s f (fun l => g (s.opA f l) (s.opB f l))
    (s.fpAlu f (allU [s.rvA f, s.rvB f]) fun l => g ((s.rvA f).at l) ((s.rvB f).at l)) := by
  simp only [← s.at_rvB f]
  refine s.fpAlu_result f fun uniform l => ?_
  have read {r : RegVal} (operand : r ∈ [s.rvA f, s.rvB f]) : r.at l = r.at 0 := RegVal.at_of_allU uniform operand l
  change g ((s.rvA f).at l) _ = g ((s.rvA f).at 0) _
  rw [read (.head _), read (.tail _ (.head _))]
theorem State.fpAlu_three (g : Word → Word → Word → Nat × FpFlags) :
    FloatResult s f (fun l => g (s.opA f l) (s.opB f l) (s.opC f l)) (s.fpAlu f (allU [s.rvA f, s.rvB f, s.rvC f]) fun l =>
      g ((s.rvA f).at l) ((s.rvB f).at l) ((s.rvC f).at l)) := by
  simp only [← s.at_rvB f]
  refine s.fpAlu_result f fun uniform l => ?_
  have read {r : RegVal} (operand : r ∈ [s.rvA f, s.rvB f, s.rvC f]) : r.at l = r.at 0 := RegVal.at_of_allU uniform operand l
  change g ((s.rvA f).at l) _ ((s.rvC f).at l) = g ((s.rvA f).at 0) _ ((s.rvC f).at 0)
  rw [read (.head _), read (.tail _ (.head _)), read (.tail _ (.tail _ (.head _)))]
end

/-! ## The halves of packed operands (R200) -/

theorem bits_eq_div_mod (x lo n : Nat) : bits x lo n = x / 2 ^ lo % 2 ^ n := by rw [bits, Nat.shiftRight_eq_div_pow]
/-- A result of two halves: the low one in the low bits, the flags of both. -/
def joinHalves (r : Nat → Nat × FpFlags) : Nat × FpFlags := ((r 1).1 * 2 ^ 16 + (r 0).1, (r 0).2 ||| (r 1).2)
theorem byHalves_eq (g : Nat → Nat → Nat → Nat × FpFlags) (a b c : Word) : byHalves g a b c = joinHalves fun i =>
    g (a.toNat / 2 ^ (16 * i) % 2 ^ 16) (b.toNat / 2 ^ (16 * i) % 2 ^ 16) (c.toNat / 2 ^ (16 * i) % 2 ^ 16) := by
  simp only [byHalves, bits_eq_div_mod, joinHalves]

/-! ## Conversions that do not draw (R184, R187) -/

/-- Only the stochastic rounding looks at the draw (R184). -/
theorem roundAt_draw {mode : Nat} (h : mode < 4) (neg : Bool) (q p : Nat) : roundAt neg mode q = roundAt neg mode p := by
  funext m e place
  match mode, h with
  | 0, _ | 1, _ | 2, _ | 3, _ => rfl
theorem Fmt.round_draw {mode : Nat} (h : mode < 4) (k : Fmt) (q p : Nat) : k.round mode q = k.round mode p := by
  funext sat ftz neg m e
  rw [Fmt.round, Fmt.round, roundAt_draw h neg q p]
theorem convert_draw {mode : Nat} (h : mode < 4) (src dst : CvType) (q p : Nat) : convert src dst mode q = convert src dst mode p := by
  funext sat x
  cases dst with
  | float k wide =>
    change k.ofNum mode q sat _ = k.ofNum mode p sat _
    unfold Fmt.ofNum
    rw [Fmt.round_draw h k q p]
  | int w signed =>
    change toInteger w signed _ mode q _ = toInteger w signed _ mode p _
    unfold toInteger
    split
    · rfl
    · rfl
    · rw [roundAt_draw h _ q p]
/-- CVT's conversion of a lane (R202). -/
def State.cvtLane (s : State) (f : Fields) (l : Nat) : Nat × FpFlags :=
  convert (cvType (f.m 3 0)) (cvType (f.m 7 4)) (f.imm.toNat % 8) (srDraw (s.wp.thread l).sr) (f.imm.getLsbD 3) (s.opA f l).toNat
/-- Without `.rs` a U operand gives one result in every lane. -/
theorem State.cvtLane_uniform {s : State} {f : Fields} (fixed : f.imm.toNat % 8 < 4) (uniform : allU [s.rvA f] = true) (l : Nat) :
    s.cvtLane f l = s.cvtLane f 0 := by
  have operand : s.opA f l = s.opA f 0 := RegVal.at_of_allU uniform (r := s.rvA f) (.head _) l
  rw [State.cvtLane, State.cvtLane, operand, convert_draw fixed _ _ (srDraw (s.wp.thread l).sr) (srDraw (s.wp.thread 0).sr)]
theorem State.cvt_nearest {s : State} {f : Fields} (fixed : f.imm.toNat % 8 < 4) :
    Completes (.cvt f) s (FloatResult s f (s.cvtLane f)) := by
  have code : ¬ cvtRnd f = 4 := Nat.ne_of_lt fixed
  have run : exec (.cvt f) s = .next (s.fpAlu f (allU [s.rvA f]) (s.cvtLane f)) := by
    change Host.Outcome.next _ = _
    simp only [code, decide_false, if_false, Bool.not_false, Bool.true_and]
    rfl
  exact ⟨_, run, s.fpAlu_result f (State.cvtLane_uniform fixed)⟩

/-- Settles O13: each instruction computes its lanes' results from its operands, once when all are U (R193). -/
theorem floatResults : Obligations.FloatResults := by
  unfold Obligations.FloatResults
  intro f s a b c rnd ftz half two fmt flags gives
  have unary {i : Instr} (g : Nat → Nat × FpFlags)
      (run : exec i s = .next (s.fpAlu f (allU [s.rvA f]) fun l => g ((s.rvA f).at l).toNat)) : gives i fun l => g (a l) :=
    ⟨_, run, s.fpAlu_one f fun x => g x.toNat⟩
  have binary {i : Instr} (g : Nat → Nat → Nat × FpFlags) (run : exec i s = .next
      (s.fpAlu f (allU [s.rvA f, s.rvB f]) fun l => g ((s.rvA f).at l).toNat ((s.rvB f).at l).toNat)) : gives i fun l => g (a l) (b l) :=
    ⟨_, run, s.fpAlu_two f fun x y => g x.toNat y.toNat⟩
  have ternary {i : Instr} (g : Nat → Nat → Nat → Nat × FpFlags) (run : exec i s = .next (s.fpAlu f (allU [s.rvA f, s.rvB f, s.rvC f])
      fun l => g ((s.rvA f).at l).toNat ((s.rvB f).at l).toNat ((s.rvC f).at l).toNat)) : gives i fun l => g (a l) (b l) (c l) :=
    ⟨_, run, s.fpAlu_three f fun x y z => g x.toNat y.toNat z.toNat⟩
  have packed {i : Instr} (g : Nat → Nat → Nat × FpFlags) (run : exec i s = .next (s.fpAlu f (allU [s.rvA f, s.rvB f]) fun l =>
      byHalves (fun x y _ => g x y) ((s.rvA f).at l) ((s.rvB f).at l) 0)) : gives i fun l => two fun i => g (half (a l) i) (half (b l) i) := by
    have result := s.fpAlu_two f fun x y => byHalves (fun x y _ => g x y) x y 0
    simp only [byHalves_eq] at run result
    exact ⟨_, run, result⟩
  have scaled (x : Nat) : bits x (8 * f.m 1 0) 8 = x / 2 ^ (8 * f.m 1 0) % 2 ^ 8 := bits_eq_div_mod _ _ _
  refine ⟨binary (fun x y => fp32.arith .add rnd ftz x y 0) rfl, binary (fun x y => fp32.arith .sub rnd ftz x y 0) rfl,
    binary (fun x y => fp32.arith .mul rnd ftz x y 0) rfl, ternary (fp32.arith .fma rnd ftz) rfl,
    binary (fp32.minmax false (f.b 4) ftz) rfl, binary (fp32.minmax true (f.b 4) ftz) rfl, unary (frndWord rnd ftz) rfl,
    unary (fun x => (fclassWord x, 0)) rfl, packed (fun x y => fmt.arith .add rnd ftz x y 0) rfl,
    packed (fun x y => fmt.arith .mul rnd ftz x y 0) rfl, ?fma, packed (fmt.minmax false (f.b 5) ftz) rfl,
    packed (fmt.minmax true (f.b 5) ftz) rfl, ternary (fdot2Word fmt rnd ftz) rfl, ?scale, State.cvt_nearest⟩
  case fma =>
    have result := s.fpAlu_three f (byHalves (fmt.arith .fma rnd ftz))
    simp only [byHalves_eq] at result
    refine ⟨_, ?_, result⟩
    simp only [← byHalves_eq]
    rfl
  case scale =>
    have h := binary (i := .scale f) (fun x y => scaleWord (f.m 6 4) (f.b 2) x (bits y (8 * f.m 1 0) 8)) rfl
    simp only [scaled] at h
    exact h

end Sys2Proof.Machine
end

section
/-! PROOFS. NaN operands and invalid operations of FP32 arithmetic (R177, R190, R194, R195). -/
namespace Sys2Proof.Machine

/-! ## NaN encodings (R176, R177) -/

/-- The word is an FP32 NaN. -/
def isNan32 (x : Nat) : Bool := x / 2 ^ 23 % 256 = 255 && x % 2 ^ 23 != 0
/-- The word is a signalling FP32 NaN: its quiet bit is 0. -/
def isSignalling32 (x : Nat) : Bool := isNan32 x && x / 2 ^ 22 % 2 = 0
/-- The exponent field of an FP32 NaN is all ones. -/
theorem exponent_of_isNan32 {x : Nat} (h : isNan32 x = true) : x / 2 ^ 23 % 256 = 255 :=
  of_decide_eq_true (Bool.and_eq_true_iff.1 h).1
/-- A word whose exponent field is all ones is infinity or NaN. -/
theorem decode32_top {x : Nat} (top : x / 2 ^ 23 % 256 = 255) (ftz : Bool) : fp32.decode ftz x =
    if x % 2 ^ 23 = 0 then .inf (bit x 31) else .nan (decide (x / 2 ^ 22 % 2 = 0)) := by
  have exponent : bits x 23 8 = 255 := (bits_eq_div_mod x 23 8).trans top
  have fraction : bits x 0 23 = x % 2 ^ 23 := by rw [bits_eq_div_mod, Nat.pow_zero, Nat.div_one]
  have quiet : bit (x % 2 ^ 23) 22 = !decide (x / 2 ^ 22 % 2 = 0) := by
    rw [bit, Nat.testBit_mod_two_pow, Nat.testBit_eq_decide_div_mod_eq, ← decide_not]
    simp
  change (if (true && decide (bits x 23 8 = 255)) = true then
    (if bits x 0 23 = 0 then Num.inf (bit x 31) else .nan (!bit (bits x 0 23) 22)) else _) = _
  rw [exponent, fraction, quiet, Bool.not_not]
  rfl
/-- Any other word is finite. -/
theorem decode32_finite {x : Nat} (finite : x / 2 ^ 23 % 256 ≠ 255) (ftz : Bool) : ∃ n m e, fp32.decode ftz x = .fin n m e := by
  have exponent : bits x 23 8 ≠ 255 := fun h => finite ((bits_eq_div_mod x 23 8).symm.trans h)
  change ∃ n m e, (if (true && decide (bits x 23 8 = 255)) = true then _ else
    if (false && decide (bits x 23 8 = 255) && decide (bits x 0 23 = 2 ^ 23 - 1)) = true then _ else _) = Num.fin n m e
  rw [decide_eq_false exponent, Bool.and_false, Bool.and_false, Bool.false_and, if_neg Bool.false_ne_true, if_neg Bool.false_ne_true]
  split
  · exact ⟨_, _, _, rfl⟩
  · exact ⟨_, _, _, rfl⟩
/-- A word whose exponent field is not all ones is no NaN. -/
theorem isNan32_finite {x : Nat} (finite : x / 2 ^ 23 % 256 ≠ 255) : isNan32 x = false := by
  rw [isNan32, decide_eq_false finite, Bool.false_and]
theorem isNan32_top {x : Nat} (top : x / 2 ^ 23 % 256 = 255) : isNan32 x = (x % 2 ^ 23 != 0) := by
  rw [isNan32, decide_eq_true top, Bool.true_and]
theorem isNan_decode32 (ftz : Bool) (x : Nat) : (fp32.decode ftz x).isNan = isNan32 x := by
  by_cases top : x / 2 ^ 23 % 256 = 255
  · rw [decode32_top top, isNan32_top top]
    by_cases zero : x % 2 ^ 23 = 0
    · rw [if_pos zero, zero]; rfl
    · rw [if_neg zero, bne_iff_ne.2 zero]; rfl
  · obtain ⟨n, m, e, finite⟩ := decode32_finite top ftz
    rw [finite, isNan32_finite top]; rfl
theorem isSignalling_decode32 (ftz : Bool) (x : Nat) : (fp32.decode ftz x).isSignalling = isSignalling32 x := by
  rw [isSignalling32]
  by_cases top : x / 2 ^ 23 % 256 = 255
  · rw [decode32_top top, isNan32_top top]
    by_cases zero : x % 2 ^ 23 = 0
    · rw [if_pos zero, zero]; rfl
    · rw [if_neg zero, bne_iff_ne.2 zero]; rfl
  · obtain ⟨n, m, e, finite⟩ := decode32_finite top ftz
    rw [finite, isNan32_finite top]; rfl
/-- Two operands raise IV when one of them signals. -/
theorem nanFlags_decode32 (ftz : Bool) (a b : Nat) : nanFlags [fp32.decode ftz a, fp32.decode ftz b] =
    if isSignalling32 a || isSignalling32 b then 0x10 else 0 := by
  rw [nanFlags, List.any_cons, List.any_cons, List.any_nil, Bool.or_false, isSignalling_decode32, isSignalling_decode32]; rfl
theorem anyNan_decode32 (ftz : Bool) (a b : Nat) : anyNan [fp32.decode ftz a, fp32.decode ftz b] = (isNan32 a || isNan32 b) := by
  rw [anyNan, List.any_cons, List.any_cons, List.any_nil, Bool.or_false, isNan_decode32, isNan_decode32]

/-! ## Arithmetic with NaN operands (R190, R194) -/

/-- FADD, FSUB and FMUL of a NaN. -/
theorem arith_nan {op : FpOp} (binary : op ≠ .fma) {a b : Nat} (nan : isNan32 a = true ∨ isNan32 b = true) (mode c : Nat) (ftz : Bool) :
    fp32.arith op mode ftz a b c = (0x7FC00000, if isSignalling32 a || isSignalling32 b then 0x10 else 0) := by
  have found : anyNan [fp32.decode ftz a, fp32.decode ftz b] = true := by rw [anyNan_decode32, Bool.or_eq_true]; exact nan
  rw [← nanFlags_decode32 ftz]
  cases op with
  | add | sub | mul => exact if_pos found
  | fma => exact absurd rfl binary
/-- FFMA with a NaN among its operands, also beside an invalid product. -/
theorem fma_nan {a b c : Nat} (nan : isNan32 a = true ∨ isNan32 b = true ∨ isNan32 c = true) (mode : Nat) (ftz : Bool) :
    (fp32.arith .fma mode ftz a b c).1 = 0x7FC00000 := by
  simp only [Fmt.arith, anyNan_decode32, isNan_decode32]
  by_cases factor : (isNan32 a || isNan32 b) = true
  · rw [if_pos factor]; rfl
  · have addend : isNan32 c = true := (or_assoc.2 nan).resolve_left fun h => factor (Bool.or_eq_true_iff.2 h)
    rw [if_neg factor]
    split
    · rfl
    · rw [if_pos addend]; rfl

/-! ## FMIN and FMAX (R195) -/

/-- Reading subnormals as zeros leaves a NaN as it is. -/
theorem flush_nan {x : Nat} (nan : isNan32 x = true) (ftz : Bool) : fp32.flush ftz x = x := by
  have exponent : ¬ bits x fp32.mbits fp32.ebits = 0 := by
    rw [show bits x fp32.mbits fp32.ebits = 255 from (bits_eq_div_mod x 23 8).trans (exponent_of_isNan32 nan)]; decide
  rw [Fmt.flush, if_neg (by simp [exponent])]
theorem minmax_nans {a b : Nat} (nanA : isNan32 a = true) (nanB : isNan32 b = true) (greater nan ftz : Bool) :
    fp32.minmax greater nan ftz a b = (0x7FC00000, if isSignalling32 a || isSignalling32 b then 0x10 else 0) := by
  simp only [Fmt.minmax, flush_nan nanA, flush_nan nanB, isNan_decode32, nanFlags_decode32, nanA, nanB]
  rfl
theorem flush_off (x : Nat) : fp32.flush false x = x := rfl
/-- One NaN gives way to the other operand, but with `.nan` it prevails. -/
theorem minmax_nan_left {a b : Nat} (nanA : isNan32 a = true) (number : isNan32 b = false) (greater : Bool) :
    (fp32.minmax greater false false a b).1 = b ∧ (fp32.minmax greater true false a b).1 = 0x7FC00000 := by
  simp only [Fmt.minmax, flush_off, isNan_decode32, nanA, number]
  exact ⟨rfl, rfl⟩

/-- Settles O14: NaN operands by what their words decode to; the invalid operations by evaluation. -/
theorem floatSpecialValues : Obligations.FloatSpecialValues := by
  unfold Obligations.FloatSpecialValues
  intro rnd a b c ftz nan signalling iv _ _ _
  refine ⟨fun h => ⟨arith_nan (by decide) h rnd 0 ftz, arith_nan (by decide) h rnd 0 ftz, arith_nan (by decide) h rnd 0 ftz⟩,
    fun h => fma_nan h rnd ftz, ?_, ?_, ?_, ?_, fun hA hB g k => minmax_nans hA hB g k ftz,
    fun hA hB g => minmax_nan_left hA (Bool.eq_false_iff.2 hB) g⟩
  all_goals cases ftz <;> rfl

end Sys2Proof.Machine
end

section
/-! PROOFS. Conversions with every rounding code (R184, R185, R202), packed conversions (R203) and FCMP (R196). -/
namespace Sys2Proof.Machine

/-! ## Stochastic draws (R184) -/

/-- `t` is `s` after the enabled threads drew `k` times, with the rounding code `.rs`; with another code none draws. -/
def Draws (s t : State) (f : Fields) (k : Nat) : Prop := t = { s with wp := { s.wp with threads := t.wp.threads } } ∧
  ∀ l, l < 128 → t.wp.thread l = if f.imm.toNat % 8 = 4 ∧ Mask.has (s.en f) l = true
    then { s.wp.thread l with sr := srAfter (s.wp.thread l).sr k } else s.wp.thread l
/-- The state a conversion of `k` elements writes its results to. -/
def State.drawn (s : State) (f : Fields) (k : Nat) : State := if cvtRnd f = 4 then s.draw (s.en f) k else s
theorem State.drawn_draws (s : State) (f : Fields) (k : Nat) : Draws s (s.drawn f k) f k := by
  have code : cvtRnd f = f.imm.toNat % 8 := rfl
  by_cases rs : cvtRnd f = 4
  · rw [State.drawn, if_pos rs]
    refine ⟨rfl, fun l hl => ?_⟩
    rw [State.draw, Warp.thread_mapThreads _ _ _ _ hl]
    simp only [← code, rs, true_and]
  · rw [State.drawn, if_neg rs]
    exact ⟨rfl, fun l _ => by rw [← code, if_neg fun h => rs h.1]⟩
/-- Drawing enables no thread. -/
theorem State.en_drawn (s : State) (f : Fields) (k : Nat) : (s.drawn f k).en f = s.en f := by
  obtain ⟨frame, threads⟩ := s.drawn_draws f k
  have lanes : (s.drawn f k).iss = s.iss := by rw [frame]
  refine Mask.ext fun l hl => ?_
  rw [State.en, State.en, Mask.has_maskOf _ _ hl, Mask.has_maskOf _ _ hl, lanes, Warp.pred, Warp.pred, threads l hl]
  split <;> rfl
/-- What a conversion of `k` elements in each lane does: the draws, the results, the flags, and the group goes on. -/
def Converts (s : State) (f : Fields) (k : Nat) (g : Nat → Nat × FpFlags) (t : State) : Prop := ∃ u v w, Draws s u f k ∧
  Puts u v f.vd.toNat (s.en f) (fun l => BitVec.ofNat 32 (g l).1) ∧
  Raises v w ((Mask.lanes (s.en f)).foldl (fun x l => x ||| (g l).2) 0) ∧ Advances w t
/-- A conversion that computes once does so without `.rs` only (R193). -/
theorem State.drawn_converts (s : State) (f : Fields) (k : Nat) {uniform : Bool} {g : Nat → Nat × FpFlags} (valid : f.imm.toNat % 8 ≤ 4)
    (same : f.imm.toNat % 8 < 4 → uniform = true → ∀ l, g l = g 0) :
    Converts s f k g ((s.drawn f k).fpAlu f (!decide (cvtRnd f = 4) && uniform) g) := by
  have once : (!decide (cvtRnd f = 4) && uniform) = true → ∀ l, g l = g 0 := by
    intro h
    obtain ⟨fixed, uniform⟩ := Bool.and_eq_true_iff.1 h
    have code : cvtRnd f ≠ 4 := by simpa using fixed
    exact same (Nat.lt_of_le_of_ne valid code) uniform
  obtain ⟨v, w, puts, raises, advances⟩ := (s.drawn f k).fpAlu_result f once
  rw [s.en_drawn f k] at puts raises
  exact ⟨_, v, w, s.drawn_draws f k, puts, raises, advances⟩

/-! ## CVT and CVTP (R202, R203) -/

theorem completes_cvt (s : State) (f : Fields) (valid : f.imm.toNat % 8 ≤ 4) : Completes (.cvt f) s (Converts s f 1 (s.cvtLane f)) := by
  refine ⟨_, rfl, s.drawn_converts f 1 valid fun fixed uniform l => ?_⟩
  exact s.cvtLane_uniform fixed uniform l

/-- Element `i` of CVTP in a lane: the register that follows VA by `i`, with the draw after `i` others (R184, R203). -/
def State.cvtpElement (s : State) (f : Fields) (l i : Nat) : Nat × FpFlags :=
  convert (unpackedType (f.m 3 0)) (cvType (f.m 3 0)) (f.imm.toNat % 8) (srDraw (srAfter (s.wp.thread l).sr i)) (f.imm.getLsbD 3)
    (s.wp.val (f.va.toNat + i) l).toNat
/-- Elements packed from the low bits, `w` bits each, with their flags. -/
def packElements (n w : Nat) (r : Nat → Nat × FpFlags) : Nat × FpFlags :=
  ((List.range n).foldl (fun x i => x + (r i).1 * 2 ^ (w * i)) 0, (List.range n).foldl (fun x i => x ||| (r i).2) 0)
/-- Values and flags folded together are those folded apart. -/
theorem foldl_packed (w : Nat) (r : Nat → Nat × FpFlags) (is : List Nat) (x : Nat) (y : FpFlags) :
    is.foldl (fun acc i => (acc.1 + (r i).1 * 2 ^ (w * i), acc.2 ||| (r i).2)) (x, y) =
      (is.foldl (fun x i => x + (r i).1 * 2 ^ (w * i)) x, is.foldl (fun x i => x ||| (r i).2) y) := by
  induction is generalizing x y with
  | nil => rfl
  | cons i is ih => exact ih _ _
/-- A fold looks at its function at the list's members only. -/
theorem foldl_congr_mem {β : Type} {g h : β → Nat → β} {is : List Nat} (same : ∀ x i, i ∈ is → g x i = h x i) (x : β) :
    is.foldl g x = is.foldl h x := by
  induction is generalizing x with
  | nil => rfl
  | cons i is ih =>
    rw [List.foldl_cons, List.foldl_cons, same x i List.mem_cons_self]
    exact ih (fun x j hj => same x j (List.mem_cons_of_mem i hj)) _
theorem packElements_congr {n : Nat} (w : Nat) {r q : Nat → Nat × FpFlags} (h : ∀ i, i < n → r i = q i) :
    packElements n w r = packElements n w q := by
  have values := foldl_congr_mem (g := fun x i => x + (r i).1 * 2 ^ (w * i)) (h := fun x i => x + (q i).1 * 2 ^ (w * i))
    (is := List.range n) (fun x i hi => by rw [h i (List.mem_range.1 hi)]) 0
  have flags := foldl_congr_mem (g := fun x i => x ||| (r i).2) (h := fun x i => x ||| (q i).2)
    (is := List.range n) (fun x i hi => by rw [h i (List.mem_range.1 hi)]) (0 : FpFlags)
  rw [packElements, packElements, values, flags]
/-- CVTP's result in a lane. -/
def State.cvtpLane (s : State) (f : Fields) (l : Nat) : Nat × FpFlags :=
  packElements (packCount (f.m 3 0)) (32 / packCount (f.m 3 0)) (s.cvtpElement f l)
theorem completes_cvtp (s : State) (f : Fields) (valid : f.imm.toNat % 8 ≤ 4) :
    Completes (.cvtp f) s (Converts s f (packCount (f.m 3 0)) (s.cvtpLane f)) := by
  have folded : s.cvtpLane f = fun l => (List.range (packCount (f.m 3 0))).foldl (fun acc i => (acc.1 + (s.cvtpElement f l i).1 *
      2 ^ (32 / packCount (f.m 3 0) * i), acc.2 ||| (s.cvtpElement f l i).2)) (0, 0) := funext fun l => (foldl_packed _ _ _ _ _).symm
  let sources := (List.range (packCount (f.m 3 0))).map fun i => s.wp.rv (f.va.toNat + i)
  have run : exec (.cvtp f) s = .next ((s.drawn f (packCount (f.m 3 0))).fpAlu f (!decide (cvtRnd f = 4) && allU sources) (s.cvtpLane f)) := by
    rw [folded]; rfl
  refine ⟨_, run, s.drawn_converts f _ valid fun fixed uniform l => packElements_congr _ fun i hi => ?_⟩
  have operand : s.wp.val (f.va.toNat + i) l = s.wp.val (f.va.toNat + i) 0 :=
    RegVal.at_of_allU uniform (List.mem_map_of_mem (List.mem_range.2 hi)) l
  rw [State.cvtpElement, State.cvtpElement, operand, convert_draw fixed _ _ _ (srDraw (srAfter (s.wp.thread 0).sr i))]

/-! ## CVTU (R203) -/

/-- Element `i` of CVTU in a lane, with no flag but IV. -/
def State.cvtuElement (s : State) (f : Fields) (i l : Nat) : Nat × FpFlags :=
  let r := convert (cvType (f.m 3 0)) (unpackedType (f.m 3 0)) 0 0 false
    ((s.opA f l).toNat / 2 ^ (32 / packCount (f.m 3 0) * i) % 2 ^ (32 / packCount (f.m 3 0)))
  (r.1, r.2 &&& flagIV)
theorem State.cvtuElement_uniform {s : State} {f : Fields} (uniform : allU [s.rvA f] = true) (i l : Nat) :
    s.cvtuElement f i l = s.cvtuElement f i 0 := by
  have operand : s.opA f l = s.opA f 0 := RegVal.at_of_allU uniform (r := s.rvA f) (.head _) l
  rw [State.cvtuElement, State.cvtuElement, operand]
/-- The registers CVTU writes, and what it writes in them. -/
def State.cvtuRegs (s : State) (f : Fields) : List (Nat × RegVal) :=
  (List.range (packCount (f.m 3 0))).map fun i => (f.vd.toNat + i, fpVal (allU [s.rvA f]) (s.cvtuElement f i))
/-- The flags of CVTU's elements in a lane. -/
def State.cvtuFlags (s : State) (f : Fields) (l : Nat) : FpFlags :=
  (List.range (packCount (f.m 3 0))).foldl (fun x i => x ||| (s.cvtuElement f i l).2) 0
/-- Registers from VD take the elements' values, FPSTAT the IV of the enabled threads' elements. -/
theorem completes_cvtu (s : State) (f : Fields) : Completes (.cvtu f) s fun t => ∃ u v,
    PutsMany s u (s.en f) ((List.range (packCount (f.m 3 0))).map fun i =>
      (f.vd.toNat + i, fun l => BitVec.ofNat 32 (s.cvtuElement f i l).1)) ∧
    Raises u v ((Mask.lanes (s.en f)).foldl (fun x l => x ||| s.cvtuFlags f l) 0) ∧ Advances v t := by
  have run : exec (.cvtu f) s = .next (((s.writeRegs (s.en f) (s.cvtuRegs f)).raise
      (fpFlags (s.en f) (allU [s.rvA f]) (s.cvtuFlags f))).advance) := by
    unfold State.cvtuRegs State.cvtuFlags State.cvtuElement
    simp only [← bits_eq_div_mod]; rfl
  have puts := s.writeRegs_puts (s.en f) (s.cvtuRegs f)
  rw [State.cvtuRegs, List.map_map] at puts
  refine ⟨_, run, _, _, PutsMany.congr_map (d := fun i => f.vd.toNat + i) puts fun i l hl =>
    at_fpVal (fun uniform l => State.cvtuElement_uniform uniform i l) l hl, ?_, State.advance_advances _⟩
  rw [fpFlags_eq fun uniform l => by simp only [State.cvtuFlags, State.cvtuElement_uniform uniform _ l]]
  rfl

/-! ## FCMP (R196) -/

theorem foldl_flagIf (p : Nat → Bool) (x : FpFlags) (ls : List Nat) (y : FpFlags) :
    ls.foldl (fun y l => y ||| flagIf (p l) x) y = y ||| flagIf (ls.any p) x := by
  induction ls generalizing y with
  | nil => exact (BitVec.or_zero).symm
  | cons l ls ih =>
    rw [List.foldl_cons, ih, BitVec.or_assoc, List.any_cons]
    cases p l <;> cases ls.any p <;> simp [flagIf]
/-- A comparison's flags: IV for a signalling operand, and for any NaN when it is of an order. -/
theorem fcmpWord_flags {cond : Nat} (h : cond < 8) (ftz : Bool) (a b : Nat) : (fcmpWord cond ftz a b).2 =
    flagIf (isSignalling32 a || isSignalling32 b || (decide (2 ≤ cond ∧ cond ≤ 5) && (isNan32 a || isNan32 b))) flagIV := by
  have signals := nanFlags_decode32 ftz a b
  match cond, h with
  | 0, _ | 1, _ | 6, _ | 7, _ => exact signals.trans (congrArg (flagIf · flagIV) (Bool.or_false _).symm)
  | 2, _ | 3, _ | 4, _ | 5, _ =>
    change flagIf ((fp32.decode ftz a).isNan || (fp32.decode ftz b).isNan) flagIV ||| nanFlags _ = _
    rw [signals, isNan_decode32, isNan_decode32]
    cases isSignalling32 a || isSignalling32 b <;> cases isNan32 a || isNan32 b <;> rfl
/-- FCMP's condition joined with the old predicate, as MOD[5:4] says. -/
def fcmpJoin (k : Nat) (q p : Bool) : Bool := if k = 0 then q else if k = 1 then q && p else if k = 2 then q || p else q ^^ p
/-- FCMP's comparison of a lane. -/
def State.fcmpLane (s : State) (f : Fields) (l : Nat) : Bool × FpFlags := fcmpWord (f.m 2 0) (f.b 3) (s.opA f l).toNat (s.opB f l).toNat
/-- The lanes of which FCMP raises IV. -/
def State.fcmpInvalid (s : State) (f : Fields) (ordering : Bool) (l : Nat) : Bool :=
  isSignalling32 (s.opA f l).toNat || isSignalling32 (s.opB f l).toNat ||
    (ordering && (isNan32 (s.opA f l).toNat || isNan32 (s.opB f l).toNat))
theorem completes_fcmp (s : State) (f : Fields) : Completes (.fcmp f) s fun t => ∃ u v,
    PutsPred s u f.vd.toNat (s.en f) (fun l => fcmpJoin (f.m 5 4) (s.fcmpLane f l).1 (s.wp.pred f.vc.toNat l)) ∧
    Raises u v (flagIf ((Mask.lanes (s.en f)).any (s.fcmpInvalid f (decide (2 ≤ f.m 2 0 ∧ f.m 2 0 ≤ 5)))) flagIV) ∧ Advances v t := by
  have code : f.m 2 0 < 8 := Nat.mod_lt _ (by decide)
  have flags : fpFlags (s.en f) (allU [s.rvA f, s.rvB f]) (fun l => (s.fcmpLane f l).2) =
      flagIf ((Mask.lanes (s.en f)).any (s.fcmpInvalid f (decide (2 ≤ f.m 2 0 ∧ f.m 2 0 ≤ 5)))) flagIV := by
    rw [fpFlags_eq]
    · simp only [State.fcmpLane, fcmpWord_flags code]
      exact (foldl_flagIf _ _ _ _).trans BitVec.zero_or
    · intro uniform l
      have read {r : RegVal} (operand : r ∈ [s.rvA f, s.rvB f]) : r.at l = r.at 0 := RegVal.at_of_allU uniform operand l
      simp only [State.fcmpLane, ← s.at_rvB f, read (.tail _ (.head _)), show s.opA f l = s.opA f 0 from read (.head _)]
  have run : exec (.fcmp f) s = .next (((s.writePred f.vd.toNat (s.en f) fun l =>
      fcmpJoin (f.m 5 4) (s.fcmpLane f l).1 (s.wp.pred f.vc.toNat l)).raise
      (fpFlags (s.en f) (allU [s.rvA f, s.rvB f]) fun l => (s.fcmpLane f l).2)).advance) := by
    change execFcmp f s = _
    unfold execFcmp fcmpJoin
    simp only [s.at_rvB f]
    generalize f.m 5 4 = k
    match k with
    | 0 | 1 | 2 | _ + 3 => rfl
  rw [flags] at run
  exact ⟨_, run, _, _, s.writePred_puts _ _ _, rfl, State.advance_advances _⟩

/-- Settles O15: draws and conversions lane by lane, and FCMP by its condition. -/
theorem conversionsAndCompares : Obligations.ConversionsAndCompares := by
  unfold Obligations.ConversionsAndCompares
  intro f s en a b t0 n rnd wide element packed opened value raised flags draws nan signals compared un p join
  have compares := completes_fcmp s f
  refine ⟨fun valid => ⟨completes_cvtp s f valid, completes_cvt s f valid⟩, completes_cvtu s f, fun unordered => ?_, fun ordered => ?_,
    fun comparison => ?_⟩
  · unfold State.fcmpLane at compares
    rw [unordered] at compares
    exact compares
  · unfold State.fcmpLane at compares
    rw [ordered] at compares
    exact compares
  · simp only [comparison, and_true] at compares
    exact compares

end Sys2Proof.Machine
end

section
/-! PROOFS. The control registers: CSRR, CSRW and SYSQ (R188, R320, R321, R325). -/
namespace Sys2Proof.Machine

/-! ## The checks before an access (R320, R321) -/

theorem State.completeAll_settled {s : State} (settled : s.wp.pending = []) : s.completeAll = s := by
  have same : { s.wp with pending := [] } = s.wp := by rw [← settled]
  rw [State.completeAll, settled, State.complete, same]
theorem State.atCsr_known {s : State} {f : Fields} (enabled : s.en f ≠ 0) (uniform : ∀ r, (s.wp.rv r).shape = 0)
    (settled : s.wp.pending = []) (known : csrKnown (s.uniB f) = true) (regs : List Nat) (k : State → Nat → State) :
    s.atCsr f regs k = k s (s.uniB f) := by
  rw [State.atCsr, State.whenEnabled_some enabled, State.needU_uniform uniform]
  simp only [known, Bool.not_true, Bool.false_eq_true, if_false, State.completeAll_settled settled]

section
variable {s : State} {f : Fields} {c : Ctx} (plain : Plain s f c) (uniform : ∀ r, (s.wp.rv r).shape = 0) (settled : s.wp.pending = [])
include plain uniform settled

theorem completes_csrr (known : csrKnown (s.uniB f) = true) :
    Completes (.csrr f) s fun t => Results64 s t f.vd.toNat (s.en f) fun _ => s.csr (s.uniB f) :=
  ⟨_, congrArg Host.Outcome.next (State.atCsr_known plain.some uniform settled known _ _),
    s.aluPair_results f _ _ fun _ _ => ⟨rfl, rfl⟩⟩

/-! ## CSRW -/

theorem exec_csrw {k : Nat} (number : s.uniB f = k) (known : csrKnown k = true) :
    exec (.csrw f) s = .next (s.spoilRegion.setCsr k (s.pairA f 0)).advance := by
  subst number
  exact congrArg Host.Outcome.next (State.atCsr_known plain.some uniform settled known _ _)
/-- A write of a register of the warp. -/
theorem completes_csrw_warp {k : Nat} (number : s.uniB f = k) (own : k ≤ 0x010) (known : csrKnown k = true) :
    Completes (.csrw f) s (Advances { s with wp := s.spoilRegion.wp.setCsr k (s.pairA f 0) }) := by
  have write : s.spoilRegion.setCsr k (s.pairA f 0) = { s with wp := s.spoilRegion.wp.setCsr k (s.pairA f 0) } := by
    rw [State.setCsr, if_pos own]; rfl
  exact ⟨_, write ▸ exec_csrw plain uniform settled number known, State.advance_advances _⟩
end

/-- The context after a write is recorded for the warps that have not acquired it. -/
theorem State.logCsr_ctx {s : State} {c : Ctx} (home : s.ctx? s.blk.ctx = some c) (k : Nat) (old : DWord) :
    (∃ log, (s.logCsr k old).ctx? s.blk.ctx = some { c with csrLog := log }) ∧
      ∀ j, j ≠ s.blk.ctx → (s.logCsr k old).ctx? j = s.ctx? j := by
  have keeps (c : Ctx) : (if s.ctxCsr c k = old then c else
      { c with csrLog := c.csrLog ++ [⟨k, old, s.ctxCsr c k, s.blk.id, s.wp.idx, s.turn, none⟩] }).id = c.id := by split <;> rfl
  refine ⟨?_, fun j other => ?_⟩
  · rw [State.logCsr, State.ctx?_modCtx _ _ _ _ keeps, if_pos rfl, home, Option.map_some]
    split
    · exact ⟨c.csrLog, rfl⟩
    · exact ⟨_, rfl⟩
  · rw [State.logCsr, State.ctx?_modCtx _ _ _ _ keeps, if_neg other]
/-- A write of a register of the context that `P` describes: the context takes it and the record of it, and no other context changes. -/
theorem completes_csrw_ctx {s : State} {f : Fields} {c : Ctx} (plain : Plain s f c) (uniform : ∀ r, (s.wp.rv r).shape = 0)
    (settled : s.wp.pending = []) {k : Nat} (number : s.uniB f = k) (shared : 0x010 < k) (known : csrKnown k = true) {P : Ctx → Ctx}
    (keeps : ∀ c, (P c).id = c.id) (write : s.spoilRegion.setCtxCsr c.id k (s.pairA f 0) = s.spoilRegion.modCtx c.id P) :
    Completes (.csrw f) s fun t => ∃ u : State, u = { s with wp := { s.wp with rvalid := false }, ctxs := u.ctxs } ∧
      (∃ log, u.ctx? s.blk.ctx = some { P c with csrLog := log }) ∧ (∀ j, j ≠ s.blk.ctx → u.ctx? j = s.ctx? j) ∧ Advances u t := by
  have home : s.spoilRegion.ctx? s.blk.ctx = some c := plain.home
  have set : s.spoilRegion.setCsr k (s.pairA f 0) = (s.spoilRegion.modCtx c.id P).logCsr k (s.spoilRegion.ctxCsr c k) := by
    rw [State.setCsr, if_neg (Nat.not_le.2 shared), State.spoilRegion_blk, home]
    exact congrArg (State.logCsr · k _) write
  have found (j : Nat) := s.spoilRegion.ctx?_modCtx c.id j P keeps
  rw [State.ctx?_id home] at set found
  have changed : (s.spoilRegion.modCtx s.blk.ctx P).ctx? s.blk.ctx = some (P c) := by rw [found, if_pos rfl, home]; rfl
  obtain ⟨taken, others⟩ := State.logCsr_ctx (s := s.spoilRegion.modCtx s.blk.ctx P) changed k (s.spoilRegion.ctxCsr c k)
  exact ⟨_, set ▸ exec_csrw plain uniform settled number known, _, rfl, taken, fun j other =>
    (others j other).trans ((found j).trans (if_neg other)), State.advance_advances _⟩

/-! ## Registers by number (R320) -/

theorem csrKnown_breakpoint {j : Nat} (hj : j < 8) : csrKnown (0x018 + j) = true := by
  simp only [csrKnown, Bool.or_eq_true, Bool.and_eq_true, decide_eq_true_eq]
  omega
theorem State.setCtxCsr_breakpoint (s : State) (ctx : Nat) {j : Nat} (hj : j < 8) (x : DWord) : s.setCtxCsr ctx (0x018 + j) x =
    s.modCtx ctx fun c => { c with bpa := c.bpa.set j (x &&& 0xE1FFFFFFFFFFFFFF) } := by
  have range : (decide (0x018 ≤ 0x018 + j) && decide (0x018 + j ≤ 0x01F)) = true := by
    simp only [Bool.and_eq_true, decide_eq_true_eq]
    omega
  unfold State.setCtxCsr
  rw [if_pos range, Nat.add_sub_cancel_left]
/-- TRAPPC is written in a handler only (R311). -/
theorem Warp.setCsr_trapPc (w : Warp) (x : DWord) :
    w.setCsr 0x001 x = { w with trap := if w.handlers = 0 then w.trap else { w.trap with pc := x.setWidth 57 } } := by
  change (if (w.handlers != 0) = true then { w with trap := { w.trap with pc := x.setWidth 57 } } else w) = _
  by_cases idle : w.handlers = 0
  · rw [if_pos idle, idle]; rfl
  · rw [if_neg idle, bne_iff_ne.2 idle]; rfl

/-! ## SYSQ (R325) -/

/-- Marking one destination pending with no flags (R128). -/
theorem State.pend_marks (s : State) (f : Fields) {m : Mask} (some : m ≠ 0) (swap : Bool) (x : RegVal) :
    Marks s (s.pend f.la.toNat swap m [(f.vd.toNat, x)]) f m swap [x] := by
  unfold Marks State.pend
  rw [if_neg some]
  by_cases null : f.vd.toNat = 511
  · rw [if_pos null, null]
    have same : s.wp.fpstat ||| (0 : BitVec 7) = s.wp.fpstat := BitVec.or_zero
    change s.raise 0 = s
    rw [State.raise, same]
  · rw [if_neg null]
    have kept : [(f.vd.toNat, x)].filter (fun p => p.1 != 511) = [(f.vd.toNat, x)] := by simp [null]
    rw [kept]
    rfl
theorem completes_sysq {s : State} {f : Fields} {c : Ctx} (plain : Plain s f c) (uniform : ∀ r, (s.wp.rv r).shape = 0) :
    Completes (.sysq f) s fun t => ∃ u, Marks s u f (s.en f) true [.u (BitVec.ofNat 32 (c.feat.word (s.uniB f)))] ∧ Advances u t := by
  have run : exec (.sysq f) s = .next
      (s.pend f.la.toNat true (s.en f) [(f.vd.toNat, .u (BitVec.ofNat 32 (c.feat.word (s.uniB f))))]).advance := by
    change Host.Outcome.next _ = _
    rw [State.whenEnabled_some plain.some, State.needU_uniform uniform, plain.home]; rfl
  exact ⟨_, run, _, s.pend_marks f plain.some true _, State.advance_advances _⟩

/-- Settles O39, register by register, by what a write of the warp's or the context's register does. -/
theorem controlRegisters : Obligations.ControlRegisters := by
  unfold Obligations.ControlRegisters
  intro f s c plain uniform settled n x w writes shares
  have own (k : Nat) {v : Warp} (low : k ≤ 0x010) (known : csrKnown k = true)
      (write : s.spoilRegion.wp.setCsr k x = { v with rvalid := false }) : writes k v := fun number =>
    write ▸ completes_csrw_warp plain uniform settled number low known
  have ctx (k : Nat) (P : Ctx → Ctx) (high : 0x010 < k) (known : csrKnown k = true) (keeps : ∀ c, (P c).id = c.id)
      (write : s.spoilRegion.setCtxCsr c.id k x = s.spoilRegion.modCtx c.id P) : shares k P := fun number =>
    completes_csrw_ctx plain uniform settled number high known keeps write
  refine ⟨ctx 0x011 (fun c => { c with srseed := x.setWidth 32 }) (by decide) (by decide) (fun _ => rfl) rfl,
    ctx 0x012 (fun c => { c with ctxcfg := x &&& 3 }) (by decide) (by decide) (fun _ => rfl) rfl,
    fun j hj => ?breakpoint, completes_csrr plain uniform settled, own 0x007 (by decide) (by decide) rfl,
    own 0x008 (by decide) (by decide) rfl, own 0x010 (by decide) (by decide) rfl, own 0x001 (by decide) (by decide) ?record,
    own 0x00A (by decide) (by decide) rfl, completes_sysq plain uniform⟩
  case breakpoint =>
    exact ctx _ (fun c => { c with bpa := c.bpa.set j (x &&& 0xE1FFFFFFFFFFFFFF) }) (by omega) (csrKnown_breakpoint hj) (fun _ => rfl)
      (State.setCtxCsr_breakpoint _ _ hj x)
  case record => exact s.spoilRegion.wp.setCsr_trapPc x

end Sys2Proof.Machine
end
